-- ==== Sys2Proof/Word.lean ====
section
/-! DEFINITION. The word types of the KX11 and their plainest arithmetic: bytes, 16-, 32- and 64-bit words, byte strings. -/

namespace Sys2Proof

/-- One byte. -/
abbrev Byte := BitVec 8
/-- A 16-bit field. -/
abbrev W16 := BitVec 16
/-- A register word or a 32-bit field. -/
abbrev W32 := BitVec 32
/-- A 64-bit field. -/
abbrev W64 := BitVec 64
/-- A string of bytes, first byte first. -/
abbrev Bytes := List (BitVec 8)

end Sys2Proof
end

