-- ==== Sys2Proof/Syntax.lean ====
section
/-! DEFINITION. The commands of the KX11: one constructor of `Instr` for each row of spec/opcode_table.json, in the table's
order, with the row's operands. A row that is a KCT command takes the packet as received (13, Table 13.2); a row that is an
event takes what decides it (the engine's slot, the link, the verdict of a check, the reading of a sensor). -/

namespace Sys2Proof

/-- A host's IP address and UDP port, or the management source of a packet (R316). `fam` is 4 or 6. -/
structure Endpoint where
  fam  : Nat
  addr : Nat
  port : Nat
  deriving DecidableEq, Repr, Inhabited

/-- The KCT header of Table 13.2 (R314). `rsv` holds the reserved bits of bytes 1–3 and 28–31 as one number. -/
structure Hdr where
  version   : Nat
  reply     : Bool
  event     : Bool
  ack       : Bool
  seg       : Bool
  stream    : Bool
  ece       : Bool
  proxy     : Bool
  rsv       : Nat
  ctx       : Nat
  token     : W32
  seq       : W32
  opcode    : Nat
  status    : Nat
  detail    : Nat
  hostTag   : W32
  plen      : Nat
  segment   : Nat
  segLast   : Nat
  credit    : Nat
  proxySlot : Nat
  deriving DecidableEq, Repr, Inhabited

/-- What the frame, IP and UDP layers made of a datagram (R312, Table 13.3 check 1). -/
inductive FrameKind where
  | good          -- addressed to the KCT port, integrity correct
  | badFrame      -- frame, IP or UDP integrity failed
  | fragment      -- an IP fragment
  | tcp           -- a TCP segment
  deriving DecidableEq, Repr, Inhabited

/-- A datagram with its KCT packet: source, destination UDP port, congestion mark, header and payload; the 802.1Q tag of its frame (0:
untagged), and the code words of it that the port's FEC corrected and could not correct (R311, R312, Table 13.18). -/
structure Pkt where
  src     : Endpoint
  dport   : Nat
  frame   : FrameKind
  ce      : Bool
  hdr     : Hdr
  payload : Bytes
  vlan    : Nat := 0
  fecCorr : Nat := 0
  fecBad  : Nat := 0
  deriving DecidableEq, Repr, Inhabited

/-- The verdict of the 144/128 symbol code over what an operation read (R32, R292): clean, or corrected or uncorrectable at an
address of a space (0 commons, 1 near tier, 2 far tier, 3 slice). -/
inductive Ecc where
  | clean
  | corrected (space addr : Nat)
  | uncorrectable (space addr : Nat)
  deriving DecidableEq, Repr, Inhabited

/-- The two DRAM tiers (12). -/
inductive Tier where
  | near
  | far
  deriving DecidableEq, Repr, Inhabited

/-- The collisions on one commons line that meet a retry (Table 5.7). -/
inductive Collision where
  | aWriteBRead
  | aReadBWrite
  | aWriteBWrite
  deriving DecidableEq, Repr, Inhabited

/-- What the sampler's output records hold for one row of a step: STATUS of Table 7.8, the tokens drawn and their
log-probabilities (one per sampled position). -/
structure RowResult where
  status   : Nat
  tokens   : List W32
  logprobs : List W32
  deriving DecidableEq, Repr, Inhabited

/-- A packet of the trellis: the header of Table 14.8, the class its flits carry, and its data. Bit `w` of `poison` marks data bytes
`16w` to `16w + 15` as uncorrectable at the sender (R354). -/
structure CollPkt where
  kind     : Nat
  hops     : Nat
  part     : Nat
  src      : Nat
  dst      : Nat
  collId   : Nat
  inst     : Nat
  pktSeq   : Nat
  offset   : Nat
  length   : Nat
  block    : Nat
  phase    : Nat
  cls      : Nat
  data     : Bytes
  poison   : Nat
  deriving DecidableEq, Repr, Inhabited

/-- The identity record of Table 14.5. -/
structure Identity where
  serial   : W64
  boardId  : W32
  boardPos : Nat
  slot     : Nat
  link     : Nat
  variant  : Nat
  lpMin    : Nat
  lpMax    : Nat
  fwBuild  : W64
  mapCheck : W32
  deriving DecidableEq, Repr, Inhabited

/-- A control flit's payload (Table 14.3). `verdict` is none while the sender has sent none. -/
structure CtlFlit where
  crcOk    : Bool
  ackSeq   : W16
  nak      : Bool
  freed    : List W16
  linkMask : Nat
  identity : Option Identity
  verdict  : Option (Nat × Nat)
  deriving DecidableEq, Repr, Inhabited

/-- A head or body flit (Table 14.2): its 256 bytes as received. -/
structure DataFlit where
  bytes : Bytes
  deriving DecidableEq, Repr, Inhabited

/-- How a training of the host port ends: whether auto-negotiation was used, and the lanes locked (R311, Table 13.14). -/
structure PortTrain where
  an    : Bool
  lanes : Nat
  deriving DecidableEq, Repr, Inhabited

/-- What a cast-on meets (R416–R419, R478, R479): the straps, what the board-identity device answers, whether each flash bank (A, B) passes its check, the
stacks and packages that train, the arrays, attention units and commons banks (physical) that fail the march or the swatch, the host
port and the address DHCP gives it, and the time counter at READY. -/
structure CastOn where
  slot        : Nat
  boardPos    : Nat
  idBytes     : Option Bytes
  trustedOk   : List Bool
  untrustedOk : List Bool
  stackMask   : Nat
  pkgMask     : Nat
  badArrays   : List Nat
  badUnits    : List Nat
  badBanks    : List Nat
  portUp      : Bool
  address     : Option Endpoint
  ticks       : Nat
  deriving DecidableEq, Repr, Inhabited

/-- The sensors of R413–R415, sampled together. Power in W, voltage in 10 mV, current in 10 mA, temperatures in °C. -/
structure Sensors where
  watts    : Nat
  meanW    : Nat
  vin      : Nat
  iin      : Nat
  tDie     : Nat
  tSram    : Nat
  tHbm     : Nat
  energy   : Nat
  deriving DecidableEq, Repr, Inhabited

/-- The causes of a power cutoff (R474). -/
inductive Cutoff where
  | undervoltage
  | overvoltage
  | overcurrent
  | enOpen
  deriving DecidableEq, Repr, Inhabited

/-- The wake causes of R410. -/
inductive WakeCause where
  | datagram
  | trellis
  | alarm
  | timer
  | window
  deriving DecidableEq, Repr, Inhabited

/-- A service core's mailbox request (R424). -/
inductive Mailbox where
  | remapArray (logical spare : Nat)
  | remapUnit (logical spare : Nat)
  | remapBank (logical spare : Nat)
  | grant (space block ctx : Nat)
  | flashRecord (kind : Nat) (body : Bytes)
  deriving DecidableEq, Repr, Inhabited

/-- A service core's access to a resource of the trusted part (R423). -/
structure Access where
  write : Bool
  space : Nat
  addr  : Nat
  data  : Bytes
  deriving DecidableEq, Repr, Inhabited

/-- The boundary record another module of a placement sends (R262): the module's member code, the model, the requests it holds in
STALL or PARKED, those it ends with their reasons, and its prefix reuse counts (R283); from the lead also the requests admitted (identifier,
context, REQ_ADMIT payload), the tokens committed, the drafts accepted, and the rows of the next step (identifier, first position,
positions, TENT, sampled). -/
structure BoundaryRec where
  code     : Nat
  model    : Nat
  held     : List Nat
  ended    : List (Nat × Nat)
  reuse    : List (Nat × Nat)
  admitted : List (Nat × Nat × Bytes)
  tokens   : List (Nat × List W32)
  accepted : List (Nat × Nat)
  rows     : List (Nat × Nat × Nat × List W32 × Bool)
  deriving DecidableEq, Repr, Inhabited

/-- The commands: one constructor per row of spec/opcode_table.json. -/
inductive Instr where
  | openContext (p : Pkt)
  | closeContext (p : Pkt)
  | queryCaps (p : Pkt)
  | writeMem (p : Pkt)
  | readMem (p : Pkt)
  | memAllocGrant (p : Pkt)
  | memAllocFree (p : Pkt)
  | modelInstall (p : Pkt)
  | loadWeights (p : Pkt)
  | graftRegister (p : Pkt)
  | graftUnregister (p : Pkt)
  | modelRemove (p : Pkt)
  | reqAdmit (p : Pkt)
  | reqAppend (p : Pkt)
  | reqAppendDraft (p : Pkt)
  | reqPrune (p : Pkt)
  | reqAccept (p : Pkt)
  | reqQuery (p : Pkt)
  | submitGraph (p : Pkt)
  | submitGraphInstalled (p : Pkt)
  | syncWait (p : Pkt)
  | syncSignalAdd (p : Pkt)
  | syncSignalSet (p : Pkt)
  | syncAllocAllocate (p : Pkt)
  | syncAllocFree (p : Pkt)
  | regRead (p : Pkt)
  | regWrite (p : Pkt)
  | linkCtlRetrain (p : Pkt) (n : Nat) (v : W32)
  | linkCtlEnable (p : Pkt) (n : Nat) (en : Bool)
  | bedCtlWake (p : Pkt) (b : Nat) (v : W32)
  | bedCtlTarget (p : Pkt) (b : Nat) (v : W32)
  | regulatorRateWrite (p : Pkt) (res : Nat) (part : Nat) (v : W32)
  | cfgCommit (p : Pkt)
  | cfgCommitRef (p : Pkt)
  | linkMapCommit (p : Pkt)
  | linkMapAdopt (p : Pkt)
  | collectiveOpen (p : Pkt)
  | collectiveClose (p : Pkt)
  | holdActive (p : Pkt)
  | allowQuiet (p : Pkt)
  | bindOff (p : Pkt)
  | timeRead (p : Pkt)
  | marchRunMarch (p : Pkt) (fails : List Nat)
  | marchRunSwatch (p : Pkt) (pass : Bool)
  | marchRunRetire (p : Pkt)
  | marchRunFullNext (p : Pkt)
  | marchRunStatus (p : Pkt)
  | marchRunBgPeriod (p : Pkt)
  | hbmQuery (p : Pkt)
  | softRow (p : Pkt)
  | hardRow (p : Pkt)
  | commitSoft (p : Pkt)
  | testAccess (p : Pkt)
  | maintEnter (p : Pkt)
  | maintExit (p : Pkt)
  | retireStack (p : Pkt)
  | fwStageUntrusted (p : Pkt)
  | fwStageTrusted (p : Pkt)
  | fwStagePortConfig (p : Pkt)
  | activate (p : Pkt)
  | confirm (p : Pkt)
  | armTrusted (p : Pkt)
  | confirmTrusted (p : Pkt)
  | disarmTrusted (p : Pkt)
  | attest (p : Pkt)
  | eventSubscribe (p : Pkt)
  | eventUnsubscribe (p : Pkt)
  | transferSegment (p : Pkt)
  | ackReceive (p : Pkt)
  | ackTimer (ctx : Nat) (seq : W32)
  | segmentRetransmitTimer (ctx : Nat) (seq : W32)
  | transferTimeout (ctx : Nat) (seq : W32)
  | ecnRateRaise (dst : Endpoint)
  | lldpTransmit
  | arpNeighborDiscovery (fam : Nat) (target : Nat) (asker : Endpoint)
  | icmpEcho (fam : Nat) (target : Nat) (asker : Endpoint) (data : Bytes)
  | pfcPauseReceive (prio : Nat) (on : Bool)
  | proxyForward (p : Pkt)
  | proxyReply (link : Nat) (p : Pkt)
  | proxyTimeout (slot : Nat) (seq : W32)
  | proxyLinkReceive (link : Nat) (p : Pkt)
  | proxyEventRelay (link : Nat) (p : Pkt)
  | hostPortDown
  | taskAdmit
  | taskRelease
  | taskComplete (slot : Nat)
  | deadlineCheck
  | syncWaitTimeout (ctx : Nat) (seq : W32)
  | stallDetect (inst : Nat)
  | nullTask (slot : Nat)
  | stamp (slot : Nat)
  | arrayTask (slot : Nat)
  | tileLoad (array : Nat) (ecc : Ecc)
  | sliceWriteback (array : Nat) (line : Nat)
  | actBlockFetch (array : Nat) (ecc : Ecc)
  | passEnd (array : Nat) (residueOk : Bool) (timingOk : Bool)
  | creditReturn (array : Nat) (row : Nat)
  | slotReduce (slot : Nat) (residueOk : Bool)
  | repairCopyComplete (logical : Nat) (ecc : Ecc)
  | swatchRun (unitKind : Nat) (instance_ : Nat) (pass : Bool)
  | sliceRepair (array : Nat) (region : Nat) (ue : Bool) (ok : Bool)
  | bankCopyComplete (bank : Nat)
  | shadowRebuild (logical : Nat) (ecc : Ecc)
  | bedIdleEntry (bed : Nat)
  | bedWake (bed : Nat)
  | bedReloadComplete (bed : Nat) (ecc : Ecc)
  | bedTargetPolicy (forecast : List Nat)
  | commonsRetry (line : Nat) (kind : Collision) (aData bData : Bytes)
  | bgTestRegion (fails : Bool) (repaired : Bool)
  | spmMerge (slot : Nat) (ecc : Ecc)
  | spmGather (slot : Nat) (ecc : Ecc)
  | delta (slot : Nat) (ecc : Ecc)
  | lookup (slot : Nat) (ecc : Ecc)
  | embed (slot : Nat) (ecc : Ecc)
  | vectorConvert (slot : Nat) (ecc : Ecc)
  | vectorAdd (slot : Nat) (ecc : Ecc)
  | vectorMul (slot : Nat) (ecc : Ecc)
  | rmsnorm (slot : Nat) (ecc : Ecc)
  | layernorm (slot : Nat) (ecc : Ecc)
  | rope (slot : Nat) (ecc : Ecc)
  | vectorAct (slot : Nat) (ecc : Ecc)
  | gated (slot : Nat) (ecc : Ecc)
  | softmax (slot : Nat) (ecc : Ecc)
  | vectorReduce (slot : Nat) (ecc : Ecc)
  | quant (slot : Nat) (ecc : Ecc)
  | vectorGraft (slot : Nat) (ecc : Ecc)
  | gemm (slot : Nat) (ecc : Ecc)
  | samplerTask (slot : Nat) (ecc : Ecc)
  | hashTask (slot : Nat) (ecc : Ecc)
  | moverCopy (slot : Nat) (ecc : Ecc)
  | moverFill (slot : Nat) (ecc : Ecc)
  | moverGather (slot : Nat) (ecc : Ecc)
  | moverCompress (slot : Nat) (ecc : Ecc)
  | moverTransmit (slot : Nat) (ecc : Ecc)
  | attend (slot : Nat) (ecc : Ecc) (residueOk : Bool)
  | attnMerge (slot : Nat) (ecc : Ecc)
  | append (slot : Nat) (ecc : Ecc)
  | demote (slot : Nat) (ecc : Ecc)
  | demoteSchedule
  | collectiveTask (slot : Nat) (ecc : Ecc)
  | collectiveTimeout (slot : Nat)
  | collDataReceive (link : Nat) (c : CollPkt)
  | collAbortReceive (link : Nat) (c : CollPkt)
  | replyGate (results : List RowResult) (gateCtr : Option Nat)
  | stepBoundary (peers : List BoundaryRec)
  | handoverReady
  | handoverTimeout
  | stepFormOnDemand
  | idleDeadlineScan
  | boundaryExchangeTimeout (model : Nat)
  | boundaryExchangeRetry (model : Nat) (peers : List BoundaryRec) (ok : Bool)
  | backgroundSpill
  | patrolScrub (tier : Tier) (ecc : Ecc)
  | tierWriteback (tier : Tier) (line : Nat)
  | channelRecal (tier : Tier) (dev : Nat) (chan : Nat) (ok : Bool)
  | stackLoss (stack : Nat)
  | packageLoss (pkg : Nat)
  | linkLaneLock (n : Nat)
  | linkTrainTimeout (n : Nat)
  | linkVerdictTimeout (n : Nat)
  | controlFlitReceive (n : Nat) (f : CtlFlit)
  | controlFlitSlot (n : Nat)
  | dataFlitReceive (n : Nat) (f : DataFlit)
  | laneLockLoss (n : Nat)
  | controlFlitTimeout (n : Nat)
  | retrainDone (n : Nat) (lanes : Nat)
  | retrainFail (n : Nat)
  | linkDownTimer (n : Nat)
  | linkRetryTimer (n : Nat)
  | cfgScan
  | cfgHoldExpire
  | throttleUpdate (x : Sensors)
  | thermalTrip (x : Sensors)
  | inputVoltage (x : Sensors)
  | powerCutoff (c : Cutoff)
  | mainSwitchClose (enMs : Nat) (precharged : Bool) (vin : Nat)
  | castOn (c : CastOn)
  | imageRelocate
  | trialWatchdog
  | resetN (heldUs : Nat) (released : Bool)
  | castonN (heldUs : Nat)
  | quietEnter
  | quietExit (c : WakeCause)
  | quietWakeTimer
  | maintenanceWindow
  | drainDeadline
  | faultRingSave
  | mailboxRequest (m : Mailbox)
  | protectedAccess (a : Access)
  | smbStatus
  | smbTelemetry
  | smbIdentity
  | smbLastFault
  | smbCaston
  | smbBindOff
  | extest
  | idcode
  | samplePreload
  | clamp
  | highz
  | extestPulse
  | extestTrain
  | hbmSel
  | hbmWir
  | hbmWdr
  | debug
  | bypass
  | hostPortLinkUp (train : PortTrain)
  | hostPortLinkLoss
  | dhcpReply (fam : Nat) (addr router : Nat)
  | bedEntryComplete (bed : Nat)
  | trustedCoreWatchdog
  | receiveCheckFail (p : Pkt)
  deriving DecidableEq, Repr

end Sys2Proof
end

