-- ==== Sys2Proof/Config.lean ====
section
/-! DEFINITION. What the specification leaves open: free values and the functions whose results it bounds but does not fix.
Every constant here is opaque, so no proof can see a value; notes/assumptions says of each where it is used. -/

namespace Sys2Proof.Config

/-- A free number for each value of the model's counter `State.fresh` (log 1). -/
opaque free : Nat → Nat
/-- A free rank: where the spec gives no order among several things, they are taken by rising rank (log 2). -/
opaque rank : Nat → Nat → Nat
/-- A free address offered for an allocation; taken only where the spec's conditions on it hold (log 3). -/
opaque place : Nat → Nat
/-- FP32 results of the functions that Table 4.6 bounds and does not fix, as bit patterns: of the run, which the counter tells (R96), and
of their operands (log 4). -/
opaque exp32 : Nat → W32 → W32
opaque log32 : Nat → W32 → W32
opaque rcp32 : Nat → W32 → W32
opaque rsqrt32 : Nat → W32 → W32
opaque sigmoid32 : Nat → W32 → W32
opaque silu32 : Nat → W32 → W32
opaque gelu32 : Nat → W32 → W32
opaque div32 : Nat → W32 → W32 → W32
/-- SLH-DSA-SHA2-192s verification of a digest under a public key (R428), and signing by the module's identity key (R440)
(log 5). -/
opaque verify : Bytes → Bytes → Bytes → Bool
opaque sign : Nat → Bytes → Bytes
/-- The port's IPv6 link-local address, which follows from an Ethernet address the spec does not give (R312) (log 23). -/
opaque linkLocal : W64 → Nat
/-- The port ID and the system name of an LLDP frame, whose content the spec does not give (R312) (log 23). -/
opaque portId : W64 → Bytes
opaque systemName : W64 → Bytes
/-- The firmware's forecast of a deferred request's wait in milliseconds (R242) (log 6). -/
opaque waitMs : Nat → Nat
/-- The bytes of the repair map that holds the given numbers; the spec does not give its form (R425, Table 17.7) (log 50). -/
opaque repairMap : List (List Nat) → Bytes
/-- A template parameter of a step (R220, R221), which Weldar's template fixes and the spec does not (log 7). -/
opaque param : Nat → Nat → Nat

/-- The bytes of the FRU EEPROM that the spec does not give: manufacture date, product area, and what lies behind the areas (R485)
(log 60). -/
opaque fru : Nat → Byte

end Sys2Proof.Config
end

