-- ==== Sys2Proof/Machine/Bits.lean ====
section
/-! DEFINITION. Bit fields, byte order, byte strings and the sorted tables that memories and register files are made of. -/

namespace Sys2Proof.Machine

/-! ### Bytes and fields (R10: little-endian everywhere) -/

/-- The number a little-endian byte string spells (R10). -/
def ofLE : Bytes → Nat
  | [] => 0
  | b :: bs => b.toNat + 256 * ofLE bs

/-- The `n` little-endian bytes of a number (R10). -/
def toLE : Nat → Nat → Bytes
  | 0, _ => []
  | n + 1, v => BitVec.ofNat 8 v :: toLE n (v / 256)

/-- `n` bytes from offset `o`; bytes beyond the end read as zero. -/
def sliceOf (bs : Bytes) (o n : Nat) : Bytes :=
  let c := (bs.drop o).take n
  c ++ List.replicate (n - c.length) 0

/-- The little-endian number of `n` bytes at offset `o`. -/
def num (bs : Bytes) (o n : Nat) : Nat := ofLE ((bs.drop o).take n)

/-- `n` zero bytes. -/
def zeros (n : Nat) : Bytes := List.replicate n 0

/-- Bytes `o` to `o+n-1` hold nothing but zeros. -/
def allZero (bs : Bytes) (o n : Nat) : Bool := num bs o n == 0

/-- Bits [hi:lo] of a number. -/
def bits (hi lo v : Nat) : Nat := (v / 2 ^ lo) % 2 ^ (hi + 1 - lo)

/-- Bit `i` of a number. -/
def bit (i v : Nat) : Bool := v / 2 ^ i % 2 == 1

/-- A number with bits [hi:lo] replaced by `x` (cut to the field). -/
def setBits (hi lo v x : Nat) : Nat :=
  v - bits hi lo v * 2 ^ lo + (x % 2 ^ (hi + 1 - lo)) * 2 ^ lo

/-- One bit, as 0 or 1. -/
def b2n (b : Bool) : Nat := if b then 1 else 0

/-- The two's-complement value of an `n`-bit number. -/
def sext (n v : Nat) : Int :=
  if v % 2 ^ n < 2 ^ (n - 1) then (v % 2 ^ n : Nat) else ((v % 2 ^ n : Nat) : Int) - (2 ^ n : Nat)

/-- The `n`-bit two's-complement code of an integer. -/
def wrapInt (n : Nat) (v : Int) : Nat := (v % (2 ^ n : Nat)).toNat

/-- A number kept between two bounds. -/
def clampInt (lo hi v : Int) : Int := if v < lo then lo else if hi < v then hi else v

/-- The quotient rounded up. -/
def ceilDiv (a b : Nat) : Nat := (a + b - 1) / b

/-- The number of one bits among the low `n` bits. -/
def popcount : Nat → Nat → Nat
  | 0, _ => 0
  | n + 1, v => v % 2 + popcount n (v / 2)

/-- The set bits among the low `n`, lowest first. -/
def bitList (n v : Nat) : List Nat := (List.range n).filter fun i => bit i v

/-- The number with exactly the listed bits set. -/
def ofBits (l : List Nat) : Nat := l.foldl (fun a i => if bit i a then a else a + 2 ^ i) 0

/-- The least number below `n` that satisfies `p`. -/
def leastBelow (p : Nat → Bool) (n : Nat) : Option Nat := (List.range n).find? p

/-- Two ranges of numbers overlap. -/
def overlap (a n b m : Nat) : Bool := n != 0 && m != 0 && a < b + m && b < a + n

/-! ### Cyclic redundancy checks -/

/-- One step of a reflected CRC over `n` bits. -/
def crcBits (poly : Nat) : Nat → Nat → Nat
  | 0, c => c
  | n + 1, c => crcBits poly n (if c % 2 == 1 then Nat.xor (c / 2) poly else c / 2)

/-- A reflected CRC-32 over bytes, from a running value. -/
def crcRun (poly c : Nat) (bs : Bytes) : Nat := bs.foldl (fun c b => crcBits poly 8 (Nat.xor c b.toNat)) c

/-- CRC-32C (R393) and the CRC-32 of IEEE 802.3 (R352). -/
def crc32c (bs : Bytes) : Nat := Nat.xor (crcRun 0x82F63B78 0xFFFFFFFF bs) 0xFFFFFFFF
def crc32 (bs : Bytes) : Nat := Nat.xor (crcRun 0xEDB88320 0xFFFFFFFF bs) 0xFFFFFFFF

/-! ### Sorted tables

A table is a list of key and value with keys strictly rising, so that equal tables are equal data. -/

/-- The value stored under a key. -/
def look {α : Type} : List (Nat × α) → Nat → Option α
  | [], _ => none
  | (k, v) :: m, i => if i = k then some v else if i < k then none else look m i

/-- The table with a key's value stored. -/
def put {α : Type} : List (Nat × α) → Nat → α → List (Nat × α)
  | [], i, x => [(i, x)]
  | (k, v) :: m, i, x =>
    if i = k then (k, x) :: m else if i < k then (i, x) :: (k, v) :: m else (k, v) :: put m i x

/-- The table without a key. -/
def del {α : Type} : List (Nat × α) → Nat → List (Nat × α)
  | [], _ => []
  | (k, v) :: m, i => if i = k then m else if i < k then (k, v) :: m else (k, v) :: del m i

/-- The table with a stored value changed, if the key is present. -/
def modify {α : Type} (m : List (Nat × α)) (i : Nat) (f : α → α) : List (Nat × α) :=
  match look m i with
  | some v => put m i (f v)
  | none => m

/-- The keys of a table rise strictly, all of them above a bound (`none`: no bound). -/
def keysAbove {α : Type} : Option Nat → List (Nat × α) → Bool
  | _, [] => true
  | none, (k, _) :: m => keysAbove (some k) m
  | some b, (k, _) :: m => b < k && keysAbove (some k) m

/-- The canonical form of a memory: addresses strictly rising, no entry equal to what an unlisted address reads as. -/
def cellsWf (m : List Host.Cell) : Bool := keysAbove none m && m.all fun c => c.2 != 0

/-- Reading a byte; an unlisted address reads as zero. -/
def peek (m : List Host.Cell) (a : Nat) : Byte := (look m a).getD 0

/-- Writing a byte: the canonical form is kept. -/
def poke (m : List Host.Cell) (a : Nat) (b : Byte) : List Host.Cell :=
  if b = 0 then del m a else put m a b

/-- `n` bytes from an address. -/
def peeks (m : List Host.Cell) (a : Nat) : Nat → Bytes
  | 0 => []
  | n + 1 => peek m a :: peeks m (a + 1) n

/-- A byte string written from an address. -/
def pokes (m : List Host.Cell) (a : Nat) : Bytes → List Host.Cell
  | [] => m
  | b :: bs => pokes (poke m a b) (a + 1) bs

/-- Every byte of `[a, a+n)` cleared. -/
def wipe (m : List Host.Cell) (a n : Nat) : List Host.Cell := m.filter fun c => !(a ≤ c.1 && c.1 < a + n)

/-- A register: an unlisted register word reads as zero. -/
def peekReg (m : List (Nat × W32)) (a : Nat) : Nat := ((look m a).getD 0).toNat

/-- A register word stored, in canonical form. -/
def pokeReg (m : List (Nat × W32)) (a v : Nat) : List (Nat × W32) :=
  if BitVec.ofNat 32 v = 0 then del m a else put m a (BitVec.ofNat 32 v)

/-- The canonical form of a register file. -/
def regsWf (m : List (Nat × W32)) : Bool := keysAbove none m && m.all fun c => c.2 != 0

/-! ### Lists -/

/-- A stable insertion sort by a key. -/
def insertBy {α : Type} (key : α → Nat) (x : α) : List α → List α
  | [] => [x]
  | y :: ys => if key y ≤ key x then y :: insertBy key x ys else x :: y :: ys

/-- A stable sort by a rising key. -/
def sortBy {α : Type} (key : α → Nat) (l : List α) : List α := l.foldl (fun acc x => insertBy key x acc) []

/-- The list with the element at an index replaced. -/
def setAt {α : Type} (l : List α) (i : Nat) (x : α) : List α := l.set i x

/-- The list with the element at an index changed. -/
def modAt {α : Type} (l : List α) (i : Nat) (f : α → α) : List α :=
  match l[i]? with
  | some x => l.set i (f x)
  | none => l

/-- No element occurs twice. -/
def distinct (l : List Nat) : Bool :=
  match l with
  | [] => true
  | x :: xs => !xs.contains x && distinct xs

/-- The list with repeats removed, first occurrences kept. -/
def dedup (l : List Nat) : List Nat := (l.foldl (fun acc x => if acc.contains x then acc else x :: acc) []).reverse

/-- The sum of a list. -/
def sumOf (l : List Nat) : Nat := l.foldl (· + ·) 0

/-- A fold that stops being needed when it answers `none`. -/
def foldOpt {α β : Type} (f : β → α → Option β) : List α → β → Option β
  | [], b => some b
  | a :: as, b => (f b a).bind (foldOpt f as)

/-- A byte string cut into chunks of `n` bytes (`fuel` chunks at most). -/
def chunksOf (n : Nat) : Nat → Bytes → List Bytes
  | 0, _ => []
  | fuel + 1, bs => if bs.isEmpty then [] else bs.take n :: chunksOf n fuel (bs.drop n)

end Sys2Proof.Machine
end

