-- ==== Sys2Proof/Machine/Num.lean ====
section
/-! DEFINITION. Number formats (03): floating-point values as exact numbers and one rounding, conversions to integers, stochastic
rounding, the counter-based generator, and the functions Table 4.6 bounds. A float is held as its bit pattern, a `Nat`. -/

namespace Sys2Proof.Machine

/-! ### Formats -/

/-- A binary floating-point format: exponent and fraction widths. -/
structure Fmt where
  eb : Nat
  mb : Nat
  deriving DecidableEq, Repr

def f32 : Fmt := ⟨8, 23⟩
def bf16 : Fmt := ⟨8, 7⟩
def f16 : Fmt := ⟨5, 10⟩

def Fmt.width (f : Fmt) : Nat := 1 + f.eb + f.mb
def Fmt.bias (f : Fmt) : Int := ((2 ^ (f.eb - 1) - 1 : Nat) : Int)
def Fmt.signBit (f : Fmt) : Nat := 2 ^ (f.eb + f.mb)
/-- The exponent of the least subnormal. -/
def Fmt.qmin (f : Fmt) : Int := 1 - f.bias - (f.mb : Int)
/-- The canonical quiet NaN (R70), infinity and the largest finite value. -/
def Fmt.nan (f : Fmt) : Nat := (2 ^ f.eb - 1) * 2 ^ f.mb + 2 ^ (f.mb - 1)
def Fmt.inf (f : Fmt) : Nat := (2 ^ f.eb - 1) * 2 ^ f.mb
def Fmt.maxFin (f : Fmt) : Nat := f.inf - 1

/-- The float format of an element format code (Table 3.1). -/
def fmtOf (code : Nat) : Fmt := if code = 0x81 then bf16 else if code = 0x82 then f16 else f32

/-- The bytes of an element of a format code. -/
def elemSize (code : Nat) : Nat :=
  if code = 0x48 then 1 else if code = 0x81 ∨ code = 0x82 then 2 else 4

/-- A value: NaN, an infinity, or `±m · 2^e`. -/
inductive Val where
  | nan
  | inf (neg : Bool)
  | fin (neg : Bool) (m : Nat) (e : Int)
  deriving DecidableEq, Repr, Inhabited

/-- The value of a bit pattern. -/
def decode (f : Fmt) (b : Nat) : Val :=
  let neg := b / f.signBit % 2 == 1
  let e := b / 2 ^ f.mb % 2 ^ f.eb
  let m := b % 2 ^ f.mb
  if e = 2 ^ f.eb - 1 then (if m = 0 then .inf neg else .nan)
  else if e = 0 then .fin neg m f.qmin
  else .fin neg (m + 2 ^ f.mb) (f.qmin + (e : Int) - 1)

def isNan (f : Fmt) (b : Nat) : Bool := decode f b == .nan
def isInf (f : Fmt) (b : Nat) : Bool := b % f.signBit == f.inf
def isFinite (f : Fmt) (b : Nat) : Bool := b / 2 ^ f.mb % 2 ^ f.eb != 2 ^ f.eb - 1

/-! ### Rounding -/

/-- The rounding modes of Table 3.7; the stochastic one carries its 16-bit uniform. -/
inductive RMode where
  | nearest
  | zero
  | stoch (h : Nat)
  deriving DecidableEq, Repr

/-- A magnitude `n / d`, of a sign, rounded to an integer magnitude (R71, R73): stochastic rounding goes down when `h / 65536` is
at least the distance above the floor of the signed value. -/
def roundMag (mode : RMode) (neg : Bool) (n d : Nat) : Nat :=
  let q := n / d
  let r := n % d
  if r = 0 then q
  else match mode with
    | .nearest => if 2 * r < d then q else if d < 2 * r then q + 1 else q + q % 2
    | .zero => q
    | .stoch h =>
      if neg then (if 65536 * (d - r) ≤ h * d then q + 1 else q)
      else (if 65536 * r ≤ h * d then q else q + 1)

/-- `x · 2^k` as a fraction. -/
def scaleFrac (n d : Nat) (k : Int) : Nat × Nat :=
  if 0 ≤ k then (n * 2 ^ k.toNat, d) else (n, d * 2 ^ (-k).toNat)

/-- The exponent of the leading bit of `n / d`, `n` not 0. -/
def ilog2 (n d : Nat) : Int :=
  let k : Int := (Nat.log2 n : Int) - (Nat.log2 d : Int)
  let x := scaleFrac 1 1 k
  if n * x.2 < x.1 * d then k - 1 else k

/-- A finite magnitude `n / d` rounded once to a format, and whether the rounded value overflows (R72). -/
def roundFrac (f : Fmt) (mode : RMode) (sat neg : Bool) (n d : Nat) : Nat × Bool :=
  let sg := if neg then f.signBit else 0
  if n = 0 then (sg, false)
  else
    let q := max (ilog2 n d - (f.mb : Int)) f.qmin
    let x := scaleFrac n d (-q)
    let k := roundMag mode neg x.1 x.2
    let kq : Nat × Int := if k = 2 ^ (f.mb + 1) then (k / 2, q + 1) else (k, q)
    let code := if kq.1 < 2 ^ f.mb then kq.1
      else (kq.2 - f.qmin + 1).toNat * 2 ^ f.mb + (kq.1 - 2 ^ f.mb)
    if f.inf ≤ code then
      (sg + (if sat || mode == .zero then f.maxFin else f.inf), true)
    else (sg + code, false)

/-- An exact value rounded to a format (R70, R72). -/
def roundVal (f : Fmt) (mode : RMode) (sat : Bool) : Val → Nat × Bool
  | .nan => (f.nan, false)
  | .inf neg => ((if neg then f.signBit else 0) + f.inf, false)
  | .fin neg m e =>
    let x := scaleFrac m 1 e
    roundFrac f mode sat neg x.1 x.2

/-- Rounding to nearest even. -/
def rne (f : Fmt) (v : Val) : Nat := (roundVal f .nearest false v).1

/-! ### Exact arithmetic on values -/

def Val.neg : Val → Val
  | .nan => .nan
  | .inf s => .inf (!s)
  | .fin s m e => .fin (!s) m e

/-- The integer `±m · 2^(e - e0)`. -/
def sgnInt (neg : Bool) (m : Nat) (e e0 : Int) : Int :=
  let x : Int := ((m * 2 ^ (e - e0).toNat : Nat) : Int)
  if neg then -x else x

/-- The exact sum; an exact zero of opposite signs is +0. -/
def Val.add : Val → Val → Val
  | .nan, _ => .nan
  | _, .nan => .nan
  | .inf s, .inf t => if s = t then .inf s else .nan
  | .inf s, _ => .inf s
  | _, .inf t => .inf t
  | .fin s m e, .fin t n g =>
    let e0 := min e g
    let x := sgnInt s m e e0 + sgnInt t n g e0
    if x = 0 then .fin (s && t) 0 e0 else .fin (x < 0) x.natAbs e0

/-- The exact product. -/
def Val.mul : Val → Val → Val
  | .nan, _ => .nan
  | _, .nan => .nan
  | .inf s, .inf t => .inf (s != t)
  | .inf s, .fin t n _ => if n = 0 then .nan else .inf (s != t)
  | .fin s m _, .inf t => if m = 0 then .nan else .inf (s != t)
  | .fin s m e, .fin t n g => .fin (s != t) (m * n) (e + g)

/-- An integer as a value. -/
def ofInt (i : Int) : Val := .fin (i < 0) i.natAbs 0

def isZeroVal : Val → Bool
  | .fin _ 0 _ => true
  | _ => false

/-- Strict order of values other than NaN. -/
def Val.lt : Val → Val → Bool
  | .nan, _ => false
  | _, .nan => false
  | .inf s, .inf t => s && !t
  | .inf s, _ => s
  | _, .inf t => !t
  | .fin s m e, .fin t n g =>
    let e0 := min e g
    sgnInt s m e e0 < sgnInt t n g e0

/-! ### FP32 operations, rounded to nearest even -/

def addF (f : Fmt) (a b : Nat) : Nat := rne f ((decode f a).add (decode f b))
def mulF (f : Fmt) (a b : Nat) : Nat := rne f ((decode f a).mul (decode f b))
def add32 (a b : Nat) : Nat := addF f32 a b
def mul32 (a b : Nat) : Nat := mulF f32 a b
def neg32 (a : Nat) : Nat := if isNan f32 a then f32.nan else if a < 2 ^ 31 then a + 2 ^ 31 else a - 2 ^ 31
def sub32 (a b : Nat) : Nat := add32 a (neg32 b)
def fma32 (a b c : Nat) : Nat := rne f32 (((decode f32 a).mul (decode f32 b)).add (decode f32 c))
def abs32 (a : Nat) : Nat := if isNan f32 a then f32.nan else a % 2 ^ 31
/-- Order and extremes of FP32 patterns; a NaN operand makes an extreme NaN. -/
def lt32 (a b : Nat) : Bool := (decode f32 a).lt (decode f32 b)
def max32 (a b : Nat) : Nat := if isNan f32 a || isNan f32 b then f32.nan else if lt32 a b then b else a
def min32 (a b : Nat) : Nat := if isNan f32 a || isNan f32 b then f32.nan else if lt32 b a then b else a

/-- Widening of an FP16 or BF16 pattern to FP32, exact. -/
def widen (f : Fmt) (b : Nat) : Nat := rne f32 (decode f b)

/-- An integer rounded to FP32. -/
def int32F (i : Int) : Nat := rne f32 (ofInt i)

/-- The exact quotient of two FP32 values rounded to nearest even, special operands as IEEE 754 gives them. -/
def divExact (a b : Nat) : Nat :=
  match decode f32 a, decode f32 b with
  | .nan, _ => f32.nan
  | _, .nan => f32.nan
  | .inf _, .inf _ => f32.nan
  | .inf s, .fin t _ _ => (if s != t then 2 ^ 31 else 0) + f32.inf
  | .fin s _ _, .inf t => if s != t then 2 ^ 31 else 0
  | .fin s m e, .fin t n g =>
    if n = 0 then (if m = 0 then f32.nan else (if s != t then 2 ^ 31 else 0) + f32.inf)
    else
      let x := scaleFrac m n (e - g)
      (roundFrac f32 .nearest false (s != t) x.1 x.2).1

/-! ### The functions that Table 4.6 bounds (R95)

A result is the free value where it lies within the bound, else the exact result rounded: the free value ranges over every
result the bound allows (log 4). The first argument tells the run: float results need not repeat from run to run (R96). -/

/-- An FP32 pattern as a fraction of integers. -/
def frac32 (b : Nat) : Option (Int × Nat) :=
  match decode f32 b with
  | .fin s m e =>
    let x := scaleFrac m 1 e
    some ((if s then -(x.1 : Int) else x.1), x.2)
  | _ => none

/-- `|x - n/d| ≤ k · 2^q`. -/
def within (x : Int × Nat) (n : Int) (d : Nat) (k : Nat) (q : Int) : Bool :=
  let diff := (x.1 * d - n * x.2).natAbs
  let u := scaleFrac k 1 q
  diff * u.2 ≤ u.1 * (x.2 * d)

/-- The exponent of one ulp of FP32 at `n/d`, `n` not 0. -/
def ulpExp (n d : Nat) : Int := max (ilog2 n d - 23) f32.qmin

/-- The free result when it lies within `k` ulp of the exact fraction `n/d`, else the correctly rounded one. -/
def bounded (free : Nat) (n : Int) (d k : Nat) (exact : Nat) : Nat :=
  match frac32 free with
  | some x => if n ≠ 0 ∧ within x n d k (ulpExp n.natAbs d) then free else exact
  | none => exact

def w32 (a : Nat) : W32 := BitVec.ofNat 32 a

/-- Division, within 2 ulp. -/
def div32 (k a b : Nat) : Nat :=
  match frac32 a, frac32 b with
  | some x, some y =>
    if x.1 = 0 ∨ y.1 = 0 then divExact a b
    else bounded (Config.div32 k (w32 a) (w32 b)).toNat ((if y.1 < 0 then -x.1 else x.1) * y.2) (x.2 * y.1.natAbs) 2 (divExact a b)
  | _, _ => divExact a b

/-- Reciprocal, within 1 ulp. -/
def rcp32 (k a : Nat) : Nat :=
  match frac32 a with
  | some x =>
    if x.1 = 0 then divExact 0x3F800000 a
    else bounded (Config.rcp32 k (w32 a)).toNat (if x.1 < 0 then -(x.2 : Int) else x.2) x.1.natAbs 1 (divExact 0x3F800000 a)
  | none => divExact 0x3F800000 a

/-- The largest FP32 pattern among `lo … lo + n` whose square times `x` is at most 1, for positive finite `x`. -/
def rsqrtSearch (x : Int × Nat) : Nat → Nat → Nat
  | 0, lo => lo
  | n + 1, lo =>
    let mid := lo + 2 ^ n
    match frac32 mid with
    | some y => if mid < f32.inf ∧ y.1 * y.1 * x.1 ≤ ((y.2 * y.2 * x.2 : Nat) : Int) then rsqrtSearch x n mid else rsqrtSearch x n lo
    | none => rsqrtSearch x n lo

/-- `1 / sqrt x` lies between `c − w` and `c + w`, for `c = n · 2^e` and `w = h · 2^e` (all at or above 0). -/
def rsqrtIn (x : Int × Nat) (n h : Nat) (e : Int) : Bool :=
  let up := scaleFrac ((n + h) * (n + h) * x.1.natAbs) x.2 (2 * e)
  let lo := scaleFrac ((n - h) * (n - h) * x.1.natAbs) x.2 (2 * e)
  lo.1 ≤ lo.2 && up.2 ≤ up.1

/-- The free value where it lies within 2 ulp of `1 / sqrt x`, else that value rounded, for positive finite `x`; `lo` is the pattern
below it, whose ulp is its ulp. -/
def rsqrtNear (free lo : Nat) (x : Int × Nat) : Nat :=
  match decode f32 lo, decode f32 free with
  | .fin _ m e, .fin false n g =>
    let e0 := min e g
    let near := rsqrtIn x (n * 2 ^ (g - e0).toNat) (2 * 2 ^ (e - e0).toNat) e0
    let half := scaleFrac ((2 * m + 1) * (2 * m + 1) * x.1.natAbs) x.2 (2 * (e - 1))
    if near then free else if half.1 < half.2 then lo + 1 else lo
  | .fin _ m e, _ =>
    let half := scaleFrac ((2 * m + 1) * (2 * m + 1) * x.1.natAbs) x.2 (2 * (e - 1))
    if half.1 < half.2 then lo + 1 else lo
  | _, _ => lo

/-- Reciprocal square root, within 2 ulp. -/
def rsqrt32 (k a : Nat) : Nat :=
  match decode f32 a with
  | .nan => f32.nan
  | .inf s => if s then f32.nan else 0
  | .fin s m _ =>
    if m = 0 then (if s then 2 ^ 31 else 0) + f32.inf
    else if s then f32.nan
    else match frac32 a with
      | none => f32.nan
      | some x => rsqrtNear (Config.rsqrt32 k (w32 a)).toNat (rsqrtSearch x 31 0) x

/-- A free result, its NaNs canonical. -/
def canon (b : Nat) : Nat := if isNan f32 b then f32.nan else b

/-! Results that are not rational are reckoned in fixed point, in units of 2^−640 (`one`), so that the bound of Table 4.6 can be
held against the free value. A value within 2^−40 ulp of the bound is taken for outside it (log 4). -/

def fxBits : Nat := 640
def one : Nat := 2 ^ fxBits
def fxMul (a b : Nat) : Nat := a * b / one

/-- The rest of the series of exp from its term number `k`. -/
def expSeries (y : Nat) : Nat → Nat → Nat → Nat
  | 0, _, _ => 0
  | n + 1, k, t => t + expSeries y n (k + 1) (fxMul t y / k)

def squares : Nat → Nat → Nat
  | 0, x => x
  | n + 1, x => squares n (fxMul x x)

/-- exp of a magnitude below 512, by the series at a 512th of it. -/
def expFx (x : Nat) : Nat := squares 9 (expSeries (x / 512) 130 1 one)

/-- The magnitude of an operand, in units of 2^−640, at most 400. -/
def magFx (x : Int × Nat) : Nat := min (x.1.natAbs * one / x.2) (400 * one)

/-- The series of artanh, `k` the odd divisor of the term. -/
def artanhSeries (z2 : Nat) : Nat → Nat → Nat → Nat
  | 0, _, _ => 0
  | n + 1, k, t => t / k + artanhSeries z2 n (k + 2) (fxMul t z2)
def artanhFx (z : Nat) : Nat := artanhSeries (fxMul z z) 210 1 z

/-- The natural logarithm of a positive fraction. -/
def lnFx (n d : Nat) : Int :=
  let e := ilog2 n d
  let x := scaleFrac n d (-e)
  e * ((2 * artanhFx (one / 3) : Nat) : Int) + ((2 * artanhFx ((x.1 - x.2) * one / (x.1 + x.2)) : Nat) : Int)

/-- sigmoid of an operand, as a fraction. -/
def sigmoidFrac (x : Int × Nat) : Nat × Nat :=
  let e := expFx (magFx x)
  (if x.1 < 0 then one else e, e + one)

/-- The arctangent of `1/m`, by its series with `k` the odd divisor: the terms of even place less those of odd place. -/
def atanInv (m : Nat) : Nat → Nat → Int → Int
  | 0, _, _ => 0
  | n + 1, k, t => t / (k : Int) + atanInv m n (k + 2) (-(t / ((m * m : Nat) : Int)))
def piFx : Nat := (16 * atanInv 5 150 1 (one / 5 : Nat) - 4 * atanInv 239 60 1 (one / 239 : Nat)).toNat

/-- A square root by Newton's steps. -/
def newton (v : Nat) : Nat → Nat → Nat
  | 0, x => x
  | n + 1, x => newton v n ((x + v / x) / 2)

/-- The series `x + x³/3 + x⁵/(3·5) + …`. -/
def phiSeries (x2 : Nat) : Nat → Nat → Nat → Nat
  | 0, _, _ => 0
  | n + 1, k, t => t + phiSeries x2 n (k + 2) (fxMul t x2 / (k + 2))

/-- The normal distribution function of an operand as a fraction of `one`: for magnitudes above 16 it differs from 1 or 0 by less than
any pattern shows. -/
def normalFx (x : Int × Nat) : Nat :=
  let a := magFx x
  let h := if 16 * one < a then one / 2 - 1
    else phiSeries (fxMul a a) 800 1 a * one / fxMul (expFx (fxMul a a / 2)) (newton (2 * piFx * one) 20 (3 * one))
  if x.1 < 0 then one / 2 - h else one / 2 + h

/-- The free result when it lies within `k` ulp of `n/d`, else `n/d` rounded. -/
def nearReal (free : Nat) (neg : Bool) (n d k : Nat) : Nat :=
  let exact := (roundFrac f32 .nearest false neg n d).1
  match frac32 free with
  | some x =>
    if n ≠ 0 ∧ within x (if neg then -(n : Int) else n) d (k * 2 ^ 40 - 1) (ulpExp n d - 40) then free else exact
  | none => exact

/-- exp, within 2 ulp: the value offered where it lies within the bound, else the exact result rounded. -/
def expOr (free : W32) (a : Nat) : Nat :=
  match decode f32 a, frac32 a with
  | .inf s, _ => if s then 0 else f32.inf
  | .fin _ m _, some x =>
    let e := expFx (magFx x)
    if m = 0 then 0x3F800000
    else nearReal free.toNat false (if x.1 < 0 then one else e) (if x.1 < 0 then e else one) 2
  | _, _ => f32.nan

def exp32 (k a : Nat) : Nat := expOr (Config.exp32 k (w32 a)) a
/-- exp correctly rounded. -/
def expRn (a : Nat) : Nat := expOr 0x7FC00000 a

/-- log, within 4 ulp. -/
def log32 (k a : Nat) : Nat :=
  match decode f32 a, frac32 a with
  | .inf s, _ => if s then f32.nan else f32.inf
  | .fin s m _, some x =>
    if m = 0 then 2 ^ 31 + f32.inf
    else if s then f32.nan
    else
      let l := lnFx x.1.natAbs x.2
      nearReal (Config.log32 k (w32 a)).toNat (decide (l < 0)) l.natAbs one 4
  | _, _ => f32.nan

/-- An activation function of a finite operand within 4 ulp of a fraction of the operand's sign (`signed`) or a positive one; for the
infinities the spec gives no bound. -/
def act32 (free : W32 → W32) (signed : Bool) (f : Int × Nat → Nat × Nat) (a : Nat) : Nat :=
  match decode f32 a, frac32 a with
  | .nan, _ => f32.nan
  | .fin s _ _, some x => nearReal (free (w32 a)).toNat (signed && s) (f x).1 (f x).2 4
  | _, _ => canon (free (w32 a)).toNat

def sigmoid32 (k a : Nat) : Nat := act32 (Config.sigmoid32 k) false sigmoidFrac a
def silu32 (k a : Nat) : Nat :=
  act32 (Config.silu32 k) true (fun x => (x.1.natAbs * (sigmoidFrac x).1, x.2 * (sigmoidFrac x).2)) a
/-- GELU in its erf form: the operand times the normal distribution function of it. -/
def gelu32 (k a : Nat) : Nat := act32 (Config.gelu32 k) true (fun x => (x.1.natAbs * normalFx x, x.2 * one)) a

/-! ### Conversion to integers (R62, R72) -/

/-- What a conversion to an integer format gives: the integer, clamps counted, NaNs counted (R81). -/
structure IntConv where
  val : Int
  sat : Nat
  nan : Nat
  deriving DecidableEq, Repr

/-- A value rounded to an integer and clamped to a range. -/
def toInt (mode : RMode) (lo hi : Int) : Val → IntConv
  | .nan => ⟨0, 0, 1⟩
  | .inf s => ⟨if s then lo else hi, 1, 0⟩
  | .fin s m e =>
    let x := scaleFrac m 1 e
    let k : Int := roundMag mode s x.1 x.2
    let v := if s then -k else k
    let c := clampInt lo hi v
    ⟨c, if c = v then 0 else 1, 0⟩

/-- The range of an integer format code. -/
def intRange (code : Nat) : Int × Int := if code = 0x48 then (-128, 127) else (-2147483648, 2147483647)

/-- The element of a float or integer format as a value. -/
def elemVal (code b : Nat) : Val :=
  if code = 0x48 then ofInt (sext 8 b) else if code = 0x50 then ofInt (sext 32 b) else decode (fmtOf code) b

/-! ### The generator (R74–R76) -/

/-- One round of Philox-4×32. -/
def philoxRound (k0 k1 : Nat) (c : Nat × Nat × Nat × Nat) : Nat × Nat × Nat × Nat :=
  let p0 := 0xD2511F53 * c.1
  let p1 := 0xCD9E8D57 * c.2.2.1
  (Nat.xor (Nat.xor (p1 / 2 ^ 32) c.2.1) k0, p1 % 2 ^ 32, Nat.xor (Nat.xor (p0 / 2 ^ 32) c.2.2.2) k1, p0 % 2 ^ 32)

/-- Philox-4×32-10. -/
def philoxRun : Nat → Nat → Nat → Nat × Nat × Nat × Nat → Nat × Nat × Nat × Nat
  | 0, _, _, c => c
  | n + 1, k0, k1, c => philoxRun n ((k0 + 0x9E3779B9) % 2 ^ 32) ((k1 + 0xBB67AE85) % 2 ^ 32) (philoxRound k0 k1 c)

/-- The four output words for a 64-bit key and a counter. -/
def philox (key c0 c1 c2 c3 : Nat) : List Nat :=
  let r := philoxRun 10 (key % 2 ^ 32) (key / 2 ^ 32 % 2 ^ 32) (c0 % 2 ^ 32, c1 % 2 ^ 32, c2 % 2 ^ 32, c3 % 2 ^ 32)
  [r.1, r.2.1, r.2.2.1, r.2.2.2]

/-- The eight 16-bit values of a call: low half, then high half, of words 0 to 3. -/
def halves (ws : List Nat) : List Nat := ws.flatMap fun w => [w % 65536, w / 65536]

/-- Sampling uniform `j` of a token (domain 1): 24 bits, to be taken times 2^−24. -/
def sampleWord (seed pos j salt : Nat) : Nat := (philox seed pos (j / 4) salt (2 ^ 24)).getD (j % 4) 0 / 256

/-- The 16-bit value of an element in KV demotion (domain 2) and in an engine's stochastic rounding (domain 3). -/
def demoteHalf (key blk e : Nat) : Nat := (halves (philox key blk (e / 8) 0 (2 * 2 ^ 24))).getD (e % 8) 0
def engineHalf (key stream e : Nat) : Nat := (halves (philox key (e / 8) stream 0 (3 * 2 ^ 24))).getD (e % 8) 0

/-- The rounding mode of a descriptor for element `e`: RMODE 2 draws from the descriptor's key and stream (R71, R75). -/
def rmodeOf (rm key stream e : Nat) : RMode :=
  if rm = 1 then .zero else if rm = 2 then .stoch (engineHalf key stream e) else .nearest

/-! ### SHA-256 (R172, R428) -/

/-- The largest `r` with `r ^ k` at most `v`, found bit by bit from bit `n - 1` down. -/
def rootFloor (k v : Nat) : Nat → Nat → Nat
  | 0, r => r
  | n + 1, r => rootFloor k v n (if (r + 2 ^ n) ^ k ≤ v then r + 2 ^ n else r)

/-- The first 64 primes, whose roots the hash takes its constants from. -/
def shaPrimes : List Nat := (List.range 312).filter fun n => 2 ≤ n && (List.range n).all fun d => d < 2 || n % d != 0
/-- The first 32 bits after the point of the square roots (`k` = 2) or cube roots (`k` = 3) of primes. -/
def shaConst (k : Nat) (ps : List Nat) : List Nat := ps.map fun p => rootFloor k (p * 2 ^ (32 * k)) 37 0 % 2 ^ 32

/-- The exclusive or of rotations of a word to the right, and of a shift (none: 32). -/
def shaMix (turns : List Nat) (shift x : Nat) : Nat :=
  turns.foldl (fun a n => Nat.xor a ((x + x * 2 ^ 32) / 2 ^ n % 2 ^ 32)) (x / 2 ^ shift)

/-- The hash under way: the last four values of each of its two running words, newest first, and the 16 words of the message
schedule that follow, oldest first. -/
structure ShaRun where
  as  : List Nat
  es  : List Nat
  win : List Nat
  deriving DecidableEq, Repr

/-- One of the 64 rounds, with its constant. -/
def shaRound (r : ShaRun) (k : Nat) : ShaRun :=
  let w := r.win.getD 0 0
  let e := r.es.getD 0 0
  let pick := Nat.xor (r.es.getD 2 0) (Nat.land e (Nat.xor (r.es.getD 1 0) (r.es.getD 2 0)))
  let most := Nat.lor (Nat.land (r.as.getD 0 0) (r.as.getD 1 0)) (Nat.land (r.as.getD 2 0) (Nat.lor (r.as.getD 0 0) (r.as.getD 1 0)))
  let t := r.es.getD 3 0 + shaMix [6, 11, 25] 32 e + pick + k + w
  { as := (t + shaMix [2, 13, 22] 32 (r.as.getD 0 0) + most) % 2 ^ 32 :: r.as.take 3
    es := (r.as.getD 3 0 + t) % 2 ^ 32 :: r.es.take 3
    win := r.win.drop 1 ++ [(w + shaMix [7, 18] 3 (r.win.getD 1 0) + r.win.getD 9 0 + shaMix [17, 19] 10 (r.win.getD 14 0)) % 2 ^ 32] }

/-- A 64-byte block taken into the eight words of the hash. -/
def shaBlock (ks : List Nat) (hs : List Nat) (b : Bytes) : List Nat :=
  let win := (chunksOf 4 16 b).map fun w => ofLE w.reverse
  let r := ks.foldl shaRound { as := hs.take 4, es := hs.drop 4, win := win }
  (hs.zip (r.as ++ r.es)).map fun x => (x.1 + x.2) % 2 ^ 32

/-- SHA-256, 32 bytes: the message, a 1 bit, zeros and its length in bits make whole blocks. -/
def sha256 (m : Bytes) : Bytes :=
  let p := m ++ [0x80] ++ zeros ((119 - m.length % 64) % 64) ++ (toLE 8 (8 * m.length)).reverse
  let hs := (chunksOf 64 (p.length / 64 + 1) p).foldl (shaBlock (shaConst 3 shaPrimes)) (shaConst 2 (shaPrimes.take 8))
  hs.flatMap fun x => (toLE 4 x).reverse

end Sys2Proof.Machine
end

