-- ==== Sys2Proof/Machine/RegMap.lean ====
section
/-! DEFINITION. The register map (15, Table 15.6): the addresses of the registers, the access of each field, the covered set and
the reset values, each from the register table of its chapter. -/

namespace Sys2Proof.Machine

/-! ### Addresses -/

def rUNITS : Nat := 0x10
def rPWR_STAT : Nat := 0x10000
def rPWR_LIMIT : Nat := 0x10004
def rTIME : Nat := 0x10010
def rTELEM : Nat := 0x10100
def rHP_STAT : Nat := 0x20000
def rHP_CFG : Nat := 0x20004
def rHP_CFG2 : Nat := 0x20008
def rHP_IPV4 : Nat := 0x2000C
def rHP_GW4 : Nat := 0x20010
def rHP_IPV6 : Nat := 0x20014
def rTOKEN0 : Nat := 0x20030
def rKCT_STAT : Nat := 0x20034
def rHP_PERF : Nat := 0x20100
def rLINK_STAT (n : Nat) : Nat := 0x30000 + 4 * n
def rLINK_CTL (n : Nat) : Nat := 0x30040 + 4 * n
def rLINK_ERR (n : Nat) : Nat := 0x30080 + 4 * n
def rLINK_PEER (n : Nat) : Nat := 0x30100 + 16 * n
def rLINK_INFO : Nat := 0x30300
def rCOLL_CTL : Nat := 0x30304
def rCOLL_INFO : Nat := 0x30308
def rCOLL_STAT : Nat := 0x3030C
def rCOLL_PERF : Nat := 0x30380
def rLINK_PERF (n : Nat) : Nat := 0x30400 + 32 * n
def rNT_INFO : Nat := 0x40000
def rNT_CTL : Nat := 0x40004
def rNT_ERR (s : Nat) : Nat := 0x40010 + 4 * s
def rNT_SPARE (s : Nat) : Nat := 0x40040 + 4 * s
def rNT_WITHDRAWN : Nat := 0x40064
def rREG_CTL : Nat := 0x40100
def rFT_INFO : Nat := 0x50000
def rFT_CTL : Nat := 0x50004
def rFT_ERR (k : Nat) : Nat := 0x50010 + 4 * k
def rFT_WITHDRAWN : Nat := 0x50080
def rARRAY_MAP (n : Nat) : Nat := 0x60000 + 4 * n
def rARRAY_STAT (n : Nat) : Nat := 0x60200 + 4 * n
def rARRAY_CTL : Nat := 0x60400
def rRED_STAT : Nat := 0x60404
def rPACK_STAT : Nat := 0x60408
def rWS_STAT : Nat := 0x60410
def rSHADOW_BASE : Nat := 0x60414
def rSHADOW_VALID (i : Nat) : Nat := 0x60420 + 4 * i
def rBED_CTL (b : Nat) : Nat := 0x60500 + 4 * b
def rBED_STAT (b : Nat) : Nat := 0x60540 + 4 * b
def rARRAY_PERF (n : Nat) : Nat := 0x61000 + 32 * n
def rATTN_MAP (n : Nat) : Nat := 0x70100 + 4 * n
def rATTN_STAT (n : Nat) : Nat := 0x70140 + 4 * n
def rKV_DEMOTE : Nat := 0x70190
def rKV_STAT : Nat := 0x70194
def rKV_FAULT : Nat := 0x70198
def rSPM_STAT : Nat := 0x70E00
def rTBL_STAT : Nat := 0x70E04
def rVEC_STAT : Nat := 0x70E08
def rSMP_STAT : Nat := 0x70E0C
def rMOV_STAT : Nat := 0x70E10
def rNUM_SAT : Nat := 0x70F00
def rNUM_NAN : Nat := 0x70F04
def rACC_STAT : Nat := 0x70F08
def rCOMMONS_CTL : Nat := 0x80000
def rCOMMONS_STAT : Nat := 0x80004
def rCOMMONS_INFO : Nat := 0x80008
def rDISP_CTL : Nat := 0x90000
def rDISP_STAT : Nat := 0x90004
def rSYNC_INFO : Nat := 0x90008
def rDISP_FAULT : Nat := 0x9000C
def rDISP_PERF : Nat := 0x90100
def rSERVE_CTL : Nat := 0xA0000
def rSERVE_LIMIT : Nat := 0xA0004
def rPAGE_WATER : Nat := 0xA0008
def rSTEP_COUNT : Nat := 0xA0010
def rREQ_COUNT : Nat := 0xA0018
def rPAGE_FREE (t : Nat) : Nat := 0xA0020 + 4 * t
def rSERVE_EVT : Nat := 0xA0030
def rGRAFT_INFO : Nat := 0xA0040
def rGRAFT_CTL : Nat := 0xA0044
def rPFX_CTL : Nat := 0xA0048
def rPFX_COUNT : Nat := 0xA004C
def rPFX_STAT : Nat := 0xA0050
def rSERVE_PERF : Nat := 0xA0100
def rPFX_PERF : Nat := 0xA0120
def rFAULT_PTR : Nat := 0xB0000
def rRAS_CNT (u : Nat) : Nat := 0xB0040 + 4 * u
def rCFG_REF : Nat := 0xB0100
def rCFG_CUR : Nat := 0xB0104
def rCFG_STAT : Nat := 0xB0108
def rCFG_CTL : Nat := 0xB010C
def rFAULT_RING : Nat := 0xB4000
def rSEC_STAT : Nat := 0xC0000
def rSEC_SVN : Nat := 0xC0004
def rSEC_HANDOVERS : Nat := 0xC0008
def rSEC_FAULT : Nat := 0xC000C
def rMEAS (i : Nat) : Nat := 0xC0100 + 4 * i

/-- The regulators of Table 12.5: 0 near tier, 1 far tier, 2 commons side B, 3 trellis links. -/
def rREG (res p : Nat) : Nat :=
  (match res with
   | 0 => 0x40200
   | 1 => 0x50200
   | 2 => 0x80200
   | _ => 0x30200) + 16 * p

/-! ### Fields -/

/-- The mask of bits [hi:lo]. -/
def mask (hi lo : Nat) : Nat := 2 ^ (hi + 1) - 2 ^ lo

/-- A row of the register tables: `count` words from `base` at a stride, and the masks of their RW, W1C, WO, RC and RO fields.
Bits in no mask are reserved. -/
structure RegRow where
  base   : Nat
  stride : Nat
  count  : Nat
  rw     : Nat
  w1c    : Nat
  wo     : Nat
  rc     : Nat
  ro     : Nat
  deriving DecidableEq, Repr, Inhabited

def allBits : Nat := 0xFFFFFFFF
/-- Words whose every bit is read only. -/
def roRow (base stride count : Nat) : RegRow := ⟨base, stride, count, 0, 0, 0, 0, allBits⟩
/-- Words with read-only fields under a mask. -/
def roMask (base stride count m : Nat) : RegRow := ⟨base, stride, count, 0, 0, 0, 0, m⟩
/-- Words whose every bit clears on reading. -/
def rcRow (base stride count : Nat) : RegRow := ⟨base, stride, count, 0, 0, 0, allBits, 0⟩
/-- Words with RW fields under a mask. -/
def rwRow (base stride count m : Nat) : RegRow := ⟨base, stride, count, m, 0, 0, 0, 0⟩

/-- Identity, power and host port (Tables 0.2, 13.14–13.18, 15.5, 16.9–16.12). -/
def regRowsA : List RegRow :=
  [roRow 0x0 4 1, roMask 0x4 4 1 0xFFFF, roRow 0x8 4 2, roMask 0x10 4 1 0x7FF, roMask 0x14 4 1 0xFF1F007F, roRow 0x18 4 1,
   roMask 0x1C 4 1 0xFFFF, roRow 0x20 4 5, roRow 0x38 4 2,
   ⟨0x10000, 4, 1, 0, 0x700, 0, 0, 0xF0003⟩, rwRow 0x10004 4 1 0xFFFF07FF, roRow 0x10010 4 2,
   ⟨0x10100, 4, 1, 0, 0, 0, 0xFFFF0000, 0xFFFF⟩, roRow 0x10104 4 1, roMask 0x10108 4 1 0xFFFFFF00, roRow 0x10110 4 6,
   roMask 0x20000 4 1 0xFF, rwRow 0x20004 4 1 allBits, rwRow 0x20008 4 1 0xC03FBFFF, rwRow 0x2000C 4 6 allBits,
   rwRow 0x20030 4 1 allBits, rcRow 0x20034 4 1, roRow 0x20100 4 12]

/-- Trellis links and tiers (Tables 12.8–12.14, 14.12–14.19). -/
def regRowsB : List RegRow :=
  [roMask 0x30000 4 11 0xFF07FEFF, ⟨0x30040, 4, 11, 1, 0, 2, 0, 0⟩, rcRow 0x30080 4 11,
   roRow 0x30100 16 11, roRow 0x30104 16 11, roRow 0x30108 16 11, roMask 0x3010C 16 11 0xFFFF,
   rwRow 0x30200 16 8 0xFFFFF, rwRow 0x30204 16 8 0xFFFFF, rwRow 0x30208 16 8 0xFFFF, roRow 0x3020C 16 8,
   roMask 0x30300 4 1 0x3FFFFF, rwRow 0x30304 4 1 0xFFFFFF, roMask 0x30308 4 1 0x1FFF, rcRow 0x3030C 4 1,
   roRow 0x30380 4 4, roRow 0x30400 4 88,
   roMask 0x40000 4 1 0x1FFF0FF, rwRow 0x40004 4 1 0xFF03, rcRow 0x40010 4 8, roMask 0x40040 4 8 0x1FFF1FFF,
   roMask 0x40064 4 1 0x1FFFFFF, rwRow 0x40100 4 1 7,
   rwRow 0x40200 16 8 0xFFFFF, rwRow 0x40204 16 8 0xFFFFF, rwRow 0x40208 16 8 0xFFFF, roRow 0x4020C 16 8,
   roMask 0x50000 4 1 0x3FFFFFFF, rwRow 0x50004 4 1 0xFF03, rcRow 0x50010 4 24, roMask 0x50080 4 1 0x1FFFFFF,
   rwRow 0x50200 16 8 0xFFFFF, rwRow 0x50204 16 8 0xFFFFF, rwRow 0x50208 16 8 0xFFFF, roRow 0x5020C 16 8]

/-- Arrays, beds, engines and commons (Tables 2.7–2.11, 3.2, 3.9, 3.10, 4.7, 5.9–5.14, 6.11, 7.11–7.14, 8.13–8.17, 16.13,
16.14). -/
def regRowsC : List RegRow :=
  [roMask 0x60000 4 96 0xFF, ⟨0x60200, 4, 104, 0, 0x80, 0, 0, 0xFF07⟩, rwRow 0x60400 4 1 7, ⟨0x60404, 4, 1, 0, 0, 0, 0xFFFF, 0⟩,
   rcRow 0x60408 4 1, roMask 0x60410 4 1 0x1FFF1FFF, roMask 0x60414 4 1 0xFFFFF, roRow 0x60420 4 3,
   ⟨0x60500, 4, 13, 0x1F, 0, 0x80, 0, 0⟩, ⟨0x60540, 4, 13, 0, 0, 0, 0xFFFF0000, 7⟩, roRow 0x61000 4 832,
   roMask 0x70100 4 16 0x3F, ⟨0x70140, 4, 18, 0, 0x80, 0, 0, 0x3F07⟩, rwRow 0x70190 4 1 0xFFFFFF, rcRow 0x70194 4 2,
   rcRow 0x70E00 4 5, rcRow 0x70F00 4 3,
   rwRow 0x80000 4 1 1, rcRow 0x80004 4 1, roMask 0x80008 4 1 0xFFFF,
   rwRow 0x80200 16 8 0xFFFFF, rwRow 0x80204 16 8 0xFFFFF, rwRow 0x80208 16 8 0xFFFF, roRow 0x8020C 16 8]

/-- Dispatcher, serving, faults and security (Tables 9.10–9.14, 10.7–10.13, 11.7–11.11, 15.4, 17.8–17.10, 18.7–18.9). -/
def regRowsD : List RegRow :=
  [rwRow 0x90000 4 1 0xFFFF7FFF, roMask 0x90004 4 1 0x7FF7FFF, roMask 0x90008 4 1 0x7FFF, rcRow 0x9000C 4 1, roRow 0x90100 4 6,
   rwRow 0xA0000 4 1 allBits, rwRow 0xA0004 4 1 0x7FFF, rwRow 0xA0008 4 1 0xFFFFFF, roRow 0xA0010 4 1, roMask 0xA0014 4 1 0xFFFF,
   roRow 0xA0018 4 1, roMask 0xA0020 4 3 0x3FFFFFF, rcRow 0xA0030 4 1, roMask 0xA0040 4 1 0xFFFFFFF, rwRow 0xA0044 4 1 0xFF,
   rwRow 0xA0048 4 1 3, roMask 0xA004C 4 1 0x7FFFFF, rcRow 0xA0050 4 1, roRow 0xA0100 4 6, roRow 0xA0120 4 6,
   roMask 0xB0000 4 1 0x8001FFFF, rcRow 0xB0040 4 19, roRow 0xB0100 4 2, ⟨0xB0108, 4, 1, 0, 0, 0, 0xFFFF0000, 7⟩,
   rwRow 0xB010C 4 1 0xFFFF, roRow 0xB4000 4 4096,
   roMask 0xC0000 4 1 0xFFFF, roMask 0xC0004 4 1 0x7F01FF, roRow 0xC0008 4 1, ⟨0xC000C, 4, 1, 0, 0, 0, 0xFFFF, 0⟩, roRow 0xC0100 4 24]

/-- A row holds the word at an address. -/
def RegRow.has (r : RegRow) (a : Nat) : Bool :=
  r.base ≤ a && (a - r.base) % r.stride == 0 && (a - r.base) / r.stride < r.count

/-- The fields of the word at an address; a word no table defines has only reserved bits (R384). -/
def regRow (a : Nat) : RegRow :=
  let pick := fun l => (List.find? (fun r => RegRow.has r a) l)
  ((if a < 0x30000 then pick regRowsA else if a < 0x60000 then pick regRowsB
    else if a < 0x90000 then pick regRowsC else pick regRowsD)).getD ⟨a, 4, 1, 0, 0, 0, 0, 0⟩

/-- The reserved bits of a word. -/
def reservedBits (a : Nat) : Nat :=
  let r := regRow a
  allBits - (r.rw ||| r.w1c ||| r.wo ||| r.rc ||| r.ro)

/-- The RATE, PEAK and BURST words of a regulator. -/
def coveredReg (res : Nat) : List Nat :=
  (List.range 8).flatMap fun p => [rREG res p, rREG res p + 4, rREG res p + 8]

/-- The covered set (Table 15.2), in ascending address order. -/
def coveredSet : List Nat :=
  [rPWR_LIMIT, rHP_CFG, rHP_CFG2, rHP_IPV4, rHP_GW4, rHP_IPV6, rHP_IPV6 + 4, rHP_IPV6 + 8, rHP_IPV6 + 12, rTOKEN0]
  ++ (List.range 11).map rLINK_CTL ++ coveredReg 3 ++ [rCOLL_CTL]
  ++ [rNT_CTL, rREG_CTL] ++ coveredReg 0 ++ [rFT_CTL] ++ coveredReg 1
  ++ [rARRAY_CTL, rSHADOW_BASE, rKV_DEMOTE, rCOMMONS_CTL] ++ coveredReg 2
  ++ [rDISP_CTL, rSERVE_CTL, rSERVE_LIMIT, rPAGE_WATER, rGRAFT_CTL, rPFX_CTL, rCFG_CTL]

/-- Covered addresses. -/
def isCovered (a : Nat) : Bool := coveredSet.contains a

/-- CAP of a regulated resource (Table 12.5) with every stack in service. -/
def regCap (res : Nat) : Nat :=
  match res with
  | 0 => 163840
  | 1 => 12288
  | 2 => 262144
  | _ => 941

/-- The register words whose reset is a number other than 0 (R300, R387 and the register tables). -/
def resetWords : List (Nat × Nat) :=
  [(rPWR_LIMIT, 10 * 65536 + 1200)]
  ++ (List.range 11).map (fun n => (rLINK_STAT n, 0x1E00))
  ++ (List.range 11).map (fun n => (rLINK_CTL n, 1))
  ++ [(rLINK_INFO, 0x101), (rCOLL_CTL, 10000), (rNT_CTL, 12 * 256 + 3), (rREG_CTL, 1), (rFT_CTL, 24 * 256 + 1), (rARRAY_CTL, 3)]
  ++ (List.range 13).map (fun b => (rBED_CTL b, 0xD))
  ++ (List.range 13).map (fun b => (rBED_STAT b, 1))
  ++ [(rDISP_CTL, 4096 * 65536 + 4096), (rSERVE_CTL, 4096 * 65536 + 50), (rSERVE_LIMIT, 2048), (rPAGE_WATER, 16384),
      (rGRAFT_CTL, 64), (rPFX_CTL, 1), (rCFG_CTL, 100)]
  ++ (List.range 4).flatMap (fun res => [(rREG res 0, regCap res / 8), (rREG res 1, regCap res / 2)]
      ++ (List.range 8).map (fun p => (rREG res p + 8, 64)))

/-- The register file at power good. -/
def resetRegs : List (Nat × W32) := resetWords.foldl (fun m w => pokeReg m w.1 w.2) []

end Sys2Proof.Machine
end

