-- ==== Sys2Proof/Machine/State.lean ====
section
/-! DEFINITION. The state of a KX11 module as plain data: every register, memory, table, queue and pin the spec names, the
packets it has handed to its ports, and the queue of commands that wait. INVENTORY.md lists each piece with its rule. -/

namespace Sys2Proof.Machine

/-- A memory: address and byte, addresses strictly rising, no zero byte listed. -/
abbrev Memory := List Host.Cell

/-- What the fuses and the straps fix for the life of a module (R6, R387, R398, R428, R478): read by every unit, changed by
none, but for the one-time-programmable counters and revocations of R429. -/
structure Fuses where
  variantB     : Bool
  stepA1       : Bool
  serial       : W64
  debugOpen    : Bool
  keyDigests   : List Bytes
  trustedSvn   : Nat
  untrustedSvn : Nat
  revoked      : Nat
  deriving DecidableEq, Repr

/-! ### Memories and blocks (05) -/

/-- The byte-addressed memories: commons, near tier, far tier, the slices (physical array `n` at `n * 2^25`) and the flash
(17). `bad` lists the 16-byte words (space, word number) that no longer decode (R119, R294). -/
structure Mems where
  commons : Memory
  near    : Memory
  far     : Memory
  slices  : Memory
  bad     : List (Nat × Nat)
  deriving DecidableEq, Repr

/-- A 64 KiB block's owner and whether it is granted now (R124, R125); a block withdrawn from service, and one whose failing row
has been repaired, which returns to its pool when it is free (R295). -/
structure Block where
  owner     : Option Nat
  granted   : Bool
  withdrawn : Bool
  repaired  : Bool
  deriving DecidableEq, Repr

/-! ### Command transport (13) -/

/-- A command as received: the packet, and the link it came over on the proxy path (`none`: the host port). -/
structure Req where
  pkt : Pkt
  via : Option Nat
  deriving DecidableEq, Repr, Inhabited

/-- A packet as sent, with the link of the proxy path it leaves by (`none`: the host port). -/
structure OutPkt where
  via     : Option Nat
  dst     : Endpoint
  hdr     : Hdr
  payload : Bytes
  deriving DecidableEq, Repr, Inhabited

/-- What the module has put on its ports. -/
inductive Out where
  | kct (p : OutPkt)
  | fromLink (dst : Endpoint) (hdr : Hdr) (payload : Bytes)   -- a proxied reply or event sent on (R344, R345)
  | lldp (serial : W64) (portId sysName : Bytes) (addr : Option Endpoint) (boardId : W32) (slot : Nat)
  | dhcp (fam : Nat) (clientId : W64)             -- a DHCPv4 or DHCPv6 request (R312)
  | neighbor (fam : Nat) (addr : Nat) (asker : Endpoint)
  | echo (fam : Nat) (addr : Nat) (asker : Endpoint) (data : Bytes)
  | raw (data : Bytes)                            -- a mover's packet (R176)
  | flit (link : Nat) (bytes : Bytes)
  | pfc (prio : Nat) (on : Bool)
  | smb (data : Bytes)                            -- an SMBus answer (R484)
  | tap (bits : Nat) (value : Nat)                -- data shifted out of the TAP (R486)
  deriving DecidableEq, Repr, Inhabited

/-- An event that waits in a subscription's queue (R343): its code, host tag and payload. -/
structure EventMsg where
  code    : Nat
  detail  : Nat
  hostTag : W32
  payload : Bytes
  deriving DecidableEq, Repr, Inhabited

/-- A subscription (R341–R343). -/
structure Sub where
  mask  : Nat
  dst   : Endpoint
  seq   : Nat
  queue : List EventMsg
  lost  : Nat
  deriving DecidableEq, Repr, Inhabited

/-- A context (R318–R324). `seen` lists the accepted sequences of H−1023 to H, `cache` the last cached replies, newest first,
`started` the commands started and not answered, `closing` the CLOSE_CONTEXT commands the next boundary answers. -/
structure Ctx where
  cls         : Nat
  part        : Nat
  ctrQuota    : Nat
  reqQuota    : Nat
  reqReserve  : Nat
  pageReserve : Nat
  memQuota    : Nat
  token       : W32
  h           : W32
  seen        : List W32
  cache       : List OutPkt
  started     : List W32
  sub         : Option Sub
  closing     : List Req
  deriving DecidableEq, Repr, Inhabited

/-- An inbound segmented transfer (R325–R329): its first segment's command, segment size and last index, the segments
received, the staging blocks in the near tier, the packets since the last ACK and the time of the last arrival. -/
structure InXfer where
  req      : Req
  size     : Nat
  last     : Nat
  got      : List Nat
  lastLen  : Nat
  staging  : Option (Nat × Nat)
  sinceAck : Nat
  arrived  : Nat
  acked    : Bool
  deriving DecidableEq, Repr, Inhabited

/-- An outbound segmented transfer (R325–R328). `tries` counts the retransmissions of each segment without progress. -/
structure OutXfer where
  via    : Option Nat
  dst    : Endpoint
  hdr    : Hdr
  data   : Bytes
  size   : Nat
  base   : Nat
  got    : List Nat
  next   : Nat
  tries  : List (Nat × Nat)
  moved  : Nat
  deriving DecidableEq, Repr, Inhabited

/-- The transmit rate to a destination (R330): `num / 2^exp` hundredths of line rate, the time of the last halving and of the
last change. -/
structure Rate where
  dst     : Endpoint
  num     : Nat
  exp     : Nat
  halved  : Nat
  changed : Nat
  deriving DecidableEq, Repr, Inhabited

/-- A command this module has forwarded (R344), with the time of the last packet about it, whether a reply has come, and
whether the final packet of the request it admitted has (R336). -/
structure Proxy where
  req  : Req
  slot : Nat
  link : Nat
  at_  : Nat
  answered : Bool
  final : Bool := false
  deriving DecidableEq, Repr, Inhabited

/-- The host port and the command transport (13). `sent` holds what left the module, newest first; `waiting` what the port
holds while it is paused or down; `buffer` the packets that wait in the receive buffer during a hand-over (R435); `tags` the 802.1Q tag (0:
untagged) and the ECN field of each frame of KCT, of a mover, or of a neighbour or echo answer that the port has sent, newest first (R312);
`held` the host port's registers whose write waits for its reply, with the words still in force (R339). -/
structure Kct where
  ctxs    : List (Nat × Ctx)
  inX     : List InXfer
  outX    : List OutXfer
  buffer  : List Req
  rates   : List Rate
  ece     : List Endpoint
  proxies : List Proxy
  paused  : Bool
  waiting : List Out
  rrCtx   : Nat
  rxFill  : Nat
  pausing : Bool
  addr4   : Option Nat
  addr6   : Option Nat
  router4 : Nat
  router6 : Nat
  lldpAt  : Nat
  portRetrain : Bool
  sent    : List Out
  tags    : List (Nat × Nat) := []
  held    : List (Nat × W32) := []
  deriving DecidableEq, Repr

/-! ### Arrays and the reduction network (02, 04) -/

/-- A tile in a buffer of an array's weight register: its index, its directory entry, and its record's bytes. -/
structure TileReg where
  tile  : Nat
  entry : Nat
  cells : Memory
  deriving DecidableEq, Repr, Inhabited

/-- A half of an activation buffer: the tag (activation address, token count) and the block's bytes. -/
structure ActHalf where
  addr   : Nat
  tokens : Nat
  cells  : Memory
  deriving DecidableEq, Repr, Inhabited

/-- An array task begun: its window slot, the logical array it names, the mode and skip setting sampled (R39), the tile of the
chain whose pass runs, whether that tile and its activation block are in place, and whether the next tile's block is too (R34). -/
structure ArrRun where
  slot    : Nat
  inst    : Nat
  index   : Nat
  logical : Nat
  mode    : Nat
  skip    : Bool
  pos     : Nat
  loaded  : Bool
  fetched : Bool
  ahead   : Bool := false
  badAct  : Bool
  deriving DecidableEq, Repr, Inhabited

/-- A physical array: the two weight buffers, the activation buffer, the accumulator file (row times 256 plus column), the
rows whose credit it has given up, the rows whose credit is on its way back, the bound scale latches, and its task. -/
structure Arr where
  active  : Option TileReg
  filling : Option TileReg
  halves  : List ActHalf
  acc     : List (Nat × Int)
  out     : List Nat
  ret     : List Nat
  latches : List (Nat × Memory)
  run     : Option ArrRun
  deriving DecidableEq, Repr, Inhabited

/-- A partial a reduction slot holds: the array whose accumulators carry it, the task that emitted it, its HOME mark, and
whether the task met an invalid activation header. -/
structure Part where
  array : Nat
  inst  : Nat
  index : Nat
  win   : Nat
  home  : Bool
  bad   : Bool
  deriving DecidableEq, Repr, Inhabited

/-- An open reduction slot (R42). -/
structure RedSlot where
  contrib : Nat
  tokens  : Nat
  parts   : List Part
  deriving DecidableEq, Repr, Inhabited

/-- The arrays in any state but the cleared one, by physical number, and the open reduction slots. -/
structure Arrays where
  arrays : List (Nat × Arr)
  slots  : List (Nat × RedSlot)
  deriving DecidableEq, Repr

/-! ### Graphs, tasks and counters (09) -/

/-- A graph image's header (Table 9.3). A counter field is its 16 bits as stored. -/
structure GHdr where
  fmt        : Nat
  statusEn   : Bool
  statusTier : Nat
  dlAbort    : Bool
  doneEn     : Bool
  tasks      : Nat
  ctrBase    : Nat
  ctrCount   : Nat
  done       : Nat
  patchCount : Nat
  deadline   : Nat
  statusAddr : Nat
  patchOff   : Nat
  hostTag    : W32
  deriving DecidableEq, Repr, Inhabited

/-- A graph instance in flight (R216–R234). `serial` orders instances by age; `step` marks a serving step, `forceRef` the
re-run step of R450; `params` are the values patched in (R220); `closing` marks an instance of a closing context (R231).
`admitted` counts the tasks taken into the window or voided before it, `ended` those completed or voided. -/
structure Inst where
  num      : Nat
  ctx      : Nat
  part     : Nat
  step     : Option Nat
  forceRef : Bool
  tier     : Nat
  addr     : Nat
  hdr      : GHdr
  params   : Option (List Nat)
  admitted : Nat
  ended    : Nat
  voided   : Nat
  status   : Nat
  failTask : Nat
  suspect  : Option Nat
  late     : Bool
  start    : Nat
  signals  : List (Nat × Nat)
  closing  : Bool
  deriving DecidableEq, Repr, Inhabited

/-- A task in a slot of the dispatch window (R222): its descriptor as read at entry, whether each wait has been met, the status its
engine ended with (`none`: it has not ended), its place in the order of release, whether its engine has begun it (R224), and the ranges
it names (space, address, bytes; R126). -/
structure Slot where
  inst     : Nat
  index    : Nat
  desc     : Bytes
  ready    : Bool
  released : Bool
  forceRef : Bool
  result   : Option Nat
  order    : Nat := 0
  begun    : Bool := false
  names    : List (Nat × Nat × Nat) := []
  deriving DecidableEq, Repr, Inhabited

/-- An outstanding SYNC_WAIT (R215). `expires` is the device-local time of its timeout, `none` without one. -/
structure Wait where
  req     : Req
  ctr     : Nat
  value   : Nat
  expires : Option Nat
  deriving DecidableEq, Repr, Inhabited

/-- The task dispatcher (09): counter values and owners, the instance table, the window by slot number, the outstanding
SYNC_WAIT commands, the next instance number, the next number in the order of release and the round-robin partition of R223. -/
structure Disp where
  ctrs    : List (Nat × W32)
  owners  : List (Nat × Nat)
  insts   : List Inst
  window  : List (Nat × Slot)
  waits   : List Wait
  nextNum : Nat
  nextRel : Nat := 0
  rr      : Nat
  deriving DecidableEq, Repr

/-! ### Models, requests, steps and pages (10, 13) -/

/-- An installed model (R338): its identifier and its manifest's format version, its tile ranges (logical array, first tile, count), installed graphs, images (kind, tier,
address), graft sites (layer, point, first, count) and projections (layer, projection, K, N). `removing` marks a removal that
the next boundary makes, `lost` a model whose near-tier artefacts a stack loss took (R306). -/
structure Model where
  modelId  : Nat
  fmt      : Nat := 1
  ctxLimit : Nat
  ranges   : List (Nat × Nat × Nat)
  graphs   : List Nat
  images   : List (Nat × Nat × Nat)
  sites    : List (Nat × Nat × Nat × Nat)
  projs    : List (Nat × Nat × Nat × Nat)
  mirror   : List (Nat × Nat)
  removing : Bool
  lost     : Bool
  deriving DecidableEq, Repr, Inhabited

/-- An installed graph (R220): its model, its image, and the two local counter ranges firmware holds for it (R213). -/
structure InstGraph where
  model : Nat
  tier  : Nat
  addr  : Nat
  bases : List Nat
  deriving DecidableEq, Repr, Inhabited

/-- A request entry that is not FREE (Table 10.1) with firmware's private data. `tokens` is the token log: the prompt and the
tokens generated, the pending token last; `out` the tokens delivered and committed, with their log-probabilities. `gate` holds the
tokens decided at the last reply gate, `sampled` those of a speculative step and `spec` its drafts. `ending` is an end decided,
`accept` and `appended` what the next boundary applies, `admitting` an admission it makes. `regain` is the SEQ_LEN a re-prefill must
regain (R452), `fails` the consecutive failed steps (R451), `missedTok` and `missedEnd` the deadlines already found missed (R260),
`blocks` the prefix blocks hashed, `pfx` the prefix entries held (R285), `order` the order of admission, `logNear` and `logFar` the first
blocks of the token log's copies in the tiers and `logged` the tokens they hold (R291). -/
structure Request where
  gen        : Nat
  state      : Nat
  model      : Nat
  ctx        : Nat
  cls        : Nat
  dlPrune    : Bool
  saltSet    : Bool
  group      : Bool
  logprob    : Bool
  fullFinal  : Bool
  endReason  : Nat
  graft      : Nat
  hostTag    : W32
  seed       : W64
  salt       : W32
  stop       : W32
  maxTokens  : Nat
  promptLen  : Nat
  seqLen     : Nat
  tent       : Nat
  drafts     : List W32
  graceMs    : Nat
  firstDl    : Nat
  completeDl : Nat
  cadence    : Nat
  queuePos   : Nat
  firstTime  : Nat
  stallSince : Nat
  lastHash   : Nat
  ptAddr     : Option Nat
  ptCap      : Nat
  stepLast   : Nat
  topP       : W32
  temp       : W32
  topK       : Nat
  lastStatus : Nat
  admission  : Req
  tokens     : List W32
  out        : List (W32 × W32)
  gate       : List (W32 × W32)
  sampled    : List (W32 × W32)
  spec       : List W32
  accept     : Option Nat
  appended   : List W32
  ending     : Option Nat
  finalLate  : Bool
  admitting  : Bool
  order      : Nat
  fails      : Nat
  regain     : Nat
  missedTok  : Nat
  missedEnd  : Bool
  blocks     : Nat
  pfx        : List Nat
  logNear    : Option Nat := none
  logFar     : Option Nat := none
  logged     : Nat := 0
  deriving DecidableEq, Repr, Inhabited

/-- A row group of a step: the request (table key, generation), its first position, its positions, the drafts it appends (a row
with drafts has TENT = 1), whether its last position (every one, with drafts) is sampled, and whether its rows are dead (R245). -/
structure Row where
  req    : Nat
  gen    : Nat
  first  : Nat
  count  : Nat
  drafts : List W32
  sample : Bool
  dead   : Bool
  deriving DecidableEq, Repr, Inhabited

/-- A batch step (R243–R249): its rows, its graph instances, whether its reply gate has passed and when, its failure and
suspicion, whether it runs again in reference mode (R450), and COMMIT at its start of the pages it appends to (R248). -/
structure Step where
  rows     : List Row
  insts    : List Nat
  gated    : Bool
  gateTime : Nat
  forceRef : Bool
  failed   : Option Nat
  suspected : Bool
  commits  : List (Nat × Nat)
  deriving DecidableEq, Repr, Inhabited

/-- A KV page (R250): the space and address of its block, the context its block is owned by, and its references. -/
structure Page where
  space : Nat
  addr  : Nat
  owner : Nat
  refs  : Nat
  spill : Bool
  deriving DecidableEq, Repr, Inhabited

/-- The serving firmware (10): the request table, the generations of its entries, the deferred queue in order of arrival, the
pages, the step in flight, the step formed behind it, the rows of a suspected step to run again (R450), the models whose boundary exchange is
awaited before item 18 and since when, those whose exchange has failed and when it was last tried (R262, R380), the register
settings that change at a boundary (R121, R286), the generator keys pages have received since cast-on (R185), the requests admitted to
an entry that another is about to leave (entry, request; R240), the records this module gave the last boundary's exchange, and the requests
ended since (model, identifier, reason; R262). -/
structure Serve where
  reqs      : List (Nat × Request)
  gens      : List (Nat × Nat)
  queue     : List Nat
  nextOrder : Nat
  pages     : List (Nat × Page)
  cur       : Option Step
  next      : Option Step
  rerun     : Option (List Row)
  awaited   : List (Nat × Nat)
  exchange  : List (Nat × Nat)
  retryDis  : Bool
  pfxScope  : Bool
  pfxEn     : Bool
  lastScan  : Nat
  keys      : List Nat := []
  owed      : List (Nat × Request) := []
  records   : List BoundaryRec := []
  lateEnds  : List (Nat × Nat × Nat) := []
  deriving DecidableEq, Repr

/-! ### Grafts and prefix entries (11) -/

/-- A registered graft (R267–R277). -/
structure Graft where
  delta    : Bool
  gen      : Nat
  model    : Nat
  ctx      : Nat
  tier     : Nat
  addr     : Nat
  size     : Nat
  mirror   : Option Nat
  unreg    : Bool
  deriving DecidableEq, Repr, Inhabited

/-- A prefix table entry (Table 11.5) with its page identifiers, in layer order, and its token record; the same stands in memory. -/
structure PfxEntry where
  hash    : Nat
  prev    : Nat
  modelId : Nat
  graftId : Nat
  owner   : Nat
  users   : Nat
  lastUse : Nat
  pages   : List Nat
  tokens  : List W32
  pagesAddr : Nat := 0
  tokAddr : Nat := 0
  deriving DecidableEq, Repr, Inhabited

/-- The graft registry with its generations, the hot area (slot, registry index, last use), the prefix table (bucket times four plus
way), the near-tier blocks that hold entries' page lists (R279), the blocks freed while a delta graft names them (R275), and where the
token records stand when the far tier is withdrawn (R308). -/
structure Grafts where
  reg  : List (Nat × Graft)
  gens : List (Nat × Nat)
  hot  : List (Nat × Nat × Nat)
  pfx  : List (Nat × PfxEntry)
  lists : List Nat := []
  owed : List Nat := []
  tokRun : Option Nat := none
  deriving DecidableEq, Repr

/-! ### Tiers and regulators (12) -/

/-- The tiers: soft and hard row repairs (stack, channel, bank, row), corrected errors per row in this scrub period, failed
recalibrations in a row (device, channel), maintenance, the stacks a TEST_ACCESS has touched, the scrubbers' next addresses,
pending write-backs, the far tier's uncorrectable errors in this scrub period (package, pin, block; R305), and the buckets of every partition of every resource in
sixteenths of a byte (committed, peak). -/
structure Tiers where
  soft       : List (Nat × Nat × Nat × Nat)
  hard       : List (Nat × Nat × Nat × Nat)
  rowCe      : List (Nat × Nat)
  recalBad   : List (Nat × Nat)
  maint      : Bool
  maintWant  : List Req
  tested     : List Nat
  scrubNear  : Nat
  scrubFar   : Nat
  writebacks : List (Nat × Nat)
  farUe      : List (Nat × Nat × Nat)
  buckets    : List (Nat × Int × Int)
  deriving DecidableEq, Repr

/-! ### Power (16) -/

/-- What a bed is doing (R403): nothing, entering a state, or waking to one. -/
inductive BedMove where
  | still
  | entering (dest : Nat)
  | waking (dest : Nat)
  deriving DecidableEq, Repr, Inhabited

/-- The device states of Table 16.3. -/
inductive DevState where
  | active
  | quiet
  | off
  deriving DecidableEq, Repr, Inhabited

/-- A bind-off in progress (R421): its command (none when the management bus asked), DRAIN_DL, and whether its first boundary has
passed. -/
structure BindOff where
  req     : Option Req
  drainDl : Nat
  queued  : Bool
  deriving DecidableEq, Repr, Inhabited

/-- Clocks and power: the device state, per bed its movement, the cycle time of its last task, and a wake wanted behind an
entry, to Run or to Idle; the time since which R408 has held, the trip record kept in always-on memory (R414), a bind-off in progress, the time Quiet was
entered and the start of the maintenance window under way (R411), the throttle's last change, and whether EN is open, the main switch
closed, and a cast-on due (R475, R480, R481). -/
structure Power where
  dev       : DevState
  moves     : List (Nat × BedMove)
  lastTask  : List (Nat × Nat)
  wakeWant  : List Nat
  idleWant  : List Nat := []
  idleSince : Nat
  trip      : Option Bytes
  bindOff   : Option BindOff
  quietAt   : Nat
  windowAt  : Option Nat
  throttleAt : Nat
  enOpen    : Bool
  mainSwitch : Bool
  due       : Bool
  policyAt  : Nat := 0
  deriving DecidableEq, Repr

/-! ### Links and collectives (14) -/

/-- An installation map entry (Table 14.6). -/
structure MapEntry where
  mode     : Nat
  boardPos : Nat
  slot     : Nat
  link     : Nat
  boardId  : W32
  serial   : W64
  deriving DecidableEq, Repr, Inhabited

/-- A packet on its way over a link: its class and partition, its bytes, the words of it that are poisoned (bit `w`: bytes `16w`
to `16w + 15`), and how many of its flits have been sent. -/
structure FlitJob where
  cls    : Nat
  part   : Nat
  bytes  : Bytes
  poison : Nat
  pos    : Nat
  deriving DecidableEq, Repr, Inhabited

/-- A flit held for replay (R355): its FSEQ, its class, whether it is the last of its packet, its 256 bytes, how often it has
been sent again, and the regulator partition it is charged to. -/
structure Held where
  fseq  : Nat
  cls   : Nat
  last  : Bool
  bytes : Bytes
  tries : Nat
  part  : Nat := 0
  deriving DecidableEq, Repr, Inhabited

/-- One trellis link (R351–R366); STATE, REASON, LANES, LP_VER and the peer's place stand in LINK_STAT and LINK_PEER. Sender: the
next FSEQ, the flits not acknowledged, the packets waiting (oldest first) and those sent and not wholly acknowledged, the
credits, the peer's FREED as last seen, which of classes 0 and 1 sent last, the data flits sent since the last control flit
(`slots`, R353), and how many of the flits held, counted from the last, are due to be sent again (`again`, R355). Receiver: the FSEQ expected, whether the next
control flit asks for a replay, the buffers freed, and the packet under way in each class. Bring-up and retrains: the peer's
LINK_MASK and record, the verdict of this end and whether it has been sent, the peer's verdict, the time its state began, a periodic attempt under way (R365), a quarantine due at the next
boundary (R363), a retrain under way, those failed in a row and when the first began, and the last good control flit. -/
structure Link where
  nextSeq   : Nat
  replay    : List Held
  queue     : List FlitJob
  sent      : List FlitJob
  credits   : List Nat
  seen      : List Nat
  turn      : Nat
  rxNext    : Nat
  nak       : Bool
  freed     : List Nat
  partial_  : List (Nat × Bytes)
  partialPoison : List (Nat × Nat)
  peerMask  : Nat
  peer      : Option Identity
  mine      : Option (Nat × Nat)
  told      : Bool
  verdict   : Option (Nat × Nat)
  since     : Nat
  silent    : Bool
  requar    : Bool
  retraining : Bool
  retrains  : Nat
  firstFail : Nat
  lastCtl   : Nat
  slots     : Nat := 0
  again     : Nat := 0
  deriving DecidableEq, Repr, Inhabited

/-- The trellis: the links, the committed map (`none`: the wiring map), the packet numbers sent to and received from each
member code (R369). -/
structure Links where
  links  : List (Nat × Link)
  map    : Option (List MapEntry)
  txSeq  : List (Nat × Nat)
  rxSeq  : List (Nat × Nat × List Nat)
  deriving DecidableEq, Repr

/-- An open collective (Table 14.9) with the number of its next invocation (R372). -/
structure Coll where
  ctx   : Nat
  op    : Nat
  rack  : Bool
  redOp : Nat
  fmt   : Nat
  memb  : List Nat
  next  : Nat
  deriving DecidableEq, Repr, Inhabited

/-- A collective task that has started (R373–R376): its window slot, collective, invocation and start, its descriptor, the data
received in the order of arrival (rank, phase, offset, data), the ends of blocks whose last packet has come (rank, phase,
length), and whether its gather part has been sent. -/
structure CollRun where
  slot    : Nat
  id      : Nat
  inst    : Nat
  start   : Nat
  desc    : Bytes
  part    : Nat
  got     : List (Nat × Nat × Nat × Bytes)
  ends    : List (Nat × Nat × Nat)
  gather  : Bool
  deriving DecidableEq, Repr, Inhabited

/-- The collective engine: open collectives, tasks running, the packets that wait in the staging blocks, and those that wait in
receive buffers because the staging is full, with their link and flits (R375). -/
structure Colls where
  open_  : List (Nat × Coll)
  runs   : List CollRun
  staged : List CollPkt
  held   : List (CollPkt × Nat × Nat)
  deriving DecidableEq, Repr

/-! ### Firmware and trust (17) -/

/-- What an image's header and check give (Tables 17.4, R428). -/
structure Image where
  build   : W64
  svn     : Nat
  fmtMin  : Nat
  fmtMax  : Nat
  kctMin  : Nat
  kctMax  : Nat
  hoOut   : Nat
  hoMin   : Nat
  hoMax   : Nat
  revoke  : Nat
  digest  : Bytes
  deriving DecidableEq, Repr, Inhabited

/-- The trusted part (17). Flash: the banks (0 and 1 trusted A and B, 2 and 3 untrusted A and B, 4 a port configuration record being
staged), the boot selector with its TRIAL mark, whether the arm has not booted yet, and the records. The running images, the trusted bank
that runs, the valid images in the inactive banks (0 untrusted, 1 trusted), the measurements, the pending activation, a hand-over in progress and its
start, the half of the activation region that runs (or the boot area), a cast-on that has not reached READY, recovery mode, a cast-on that
stopped, BOOT_CODE, the device certificate, the attestations not signed yet, whether READY has been sent, and the keys revoked as the fuses had them at
power good (R387). -/
structure Trust where
  banks      : List (Nat × Memory)
  selTrusted : Nat
  selUntr    : Nat
  trial      : Bool
  armed      : Bool
  portRecord : Option Bytes
  mapRecord  : Option (List MapEntry)
  ringRecord : List Bytes
  cfgRecord  : Option W32
  records    : List (Nat × Bytes)
  running    : Image
  trusted    : Image
  runTrusted : Nat
  staged     : List (Nat × Image)
  m0         : Bytes
  m1         : Bytes
  m2         : Bytes
  pending    : Option Image
  handover   : Option Nat
  half       : Nat
  inBoot     : Bool
  casting    : Bool
  recovery   : Bool
  stopped    : Bool
  bootCode   : Nat
  cert       : Bytes
  certSig    : Bytes
  idPub      : Bytes
  attests    : List Req
  ready      : Bool
  revokedAt  : Nat := 0
  deriving DecidableEq, Repr

/-! ### Faults, tests and repair (18) -/

/-- The retirement of an array or attention unit in progress (R454): kind, logical and physical instance, the spare chosen,
whether its copy is done, whether the fault is definite, and the fault code that caused it. -/
structure Retire where
  kind     : Nat
  logical  : Nat
  phys     : Nat
  spare    : Option Nat
  copied   : Bool
  definite : Bool
  cause    : Nat
  deriving DecidableEq, Repr, Inhabited

/-- Fault handling (18): the ring (record bytes by index), the sequence of the next record, the time of the last save and the highest
severity not saved; the retirements in progress, the units whose last swatch failed, the instances retired (kind, physical instance); the
commons bank map (logical bank, spare), the copies in progress (bank, spare, cause), the blocks withdrawn for failing rows (bank, block) and the banks retired; the spare rows and columns used per
slice, corrected errors per 4 KiB slice region in this background cycle, slice lines to write back; a MARCH_RUN whose reply is due and the
reply; the full march requested and whether this cast-on made it; the background test; the host port's loss; the module-failed reason; the last check value reported and the
end of the hold; the time of the last scan of the covered set, and whether CFG_REF has been committed since the cast-on. -/
structure Ras where
  ring       : List (Nat × Bytes)
  nextSeq    : Nat
  nextIdx    : Nat
  wrapped    : Bool
  savedAt    : Nat
  dirty      : Option Nat
  retires    : List Retire
  swatchBad  : List (Nat × Nat)
  retired    : List (Nat × Nat)
  bankMap    : List (Nat × Nat)
  bankCopy   : List (Nat × Nat × Nat)
  bankDrops  : List (Nat × Nat)
  banksBad   : List Nat
  sliceRows  : List (Nat × Nat)
  regionCe   : List (Nat × Nat)
  sliceWb    : List (Nat × Nat)
  march      : Option (Req × Bytes)
  fullNext   : Bool
  marchFull  : Bool
  bgRegion   : Nat
  bgCycles   : Nat
  bgLast     : Nat
  bgHours    : Nat
  bgAt       : Nat
  downSince  : Option Nat
  downSeen   : Bool
  failed     : Option Nat
  cfgReported : Option W32
  holdUntil  : Option Nat
  scanAt     : Nat := 0
  refSet     : Bool := false
  collided   : List (Bool × Nat × Nat) := []
  deriving DecidableEq, Repr

/-- The pins and the test access port (19). -/
structure Pins where
  removeOk   : Bool
  alert      : Bool
  amber      : Bool
  resetLow   : Bool
  boardId    : W32
  tapIr      : Nat
  hbmSel     : Nat
  boundary   : Nat
  deriving DecidableEq, Repr

/-- The outcomes of a step other than a next state. No command of the KX11 stops the model: every row of the table has its
effect, or, where what it reports cannot have happened, no effect. -/
inductive Fault where
  /-- Raised by no meaning: the module defines an outcome for every command. Safe. -/
  | never
  deriving DecidableEq, Repr

/-- The refusals of a step. -/
inductive Refusal where
  /-- A command that has no meaning yet: raised by an arm of `exec` only. Safe. -/
  | notModelled (mnemonic : String)
  deriving DecidableEq, Repr

/-- The module. `regs` holds the register words by address (a word not listed holds 0), `blocks` the block table by space and
block number, `fresh` counts the free values taken (the model's own field), `pending` is the queue of commands. -/
structure State where
  pending : List Instr
  time    : Nat
  fresh   : Nat
  fuses   : Fuses
  regs    : List (Nat × W32)
  mem     : Mems
  blocks  : List (Nat × Block)
  kct     : Kct
  arr     : Arrays
  disp    : Disp
  models  : List (Nat × Model)
  graphs  : List (Nat × InstGraph)
  serve   : Serve
  graft   : Grafts
  tier    : Tiers
  power   : Power
  link    : Links
  coll    : Colls
  trust   : Trust
  ras     : Ras
  pins    : Pins
  deriving DecidableEq, Repr

/-- Context 0 as cast-on leaves it: always open, every quota the device's own limit (R213, R318, R322). -/
def Ctx.zero : Ctx :=
  { cls := 1, part := 0, ctrQuota := 16384, reqQuota := 32768, reqReserve := 0, pageReserve := 0, memQuota := 33554432,
    token := 0, h := 0, seen := [0], cache := [], started := [], sub := none, closing := [] }

def Kct.zero : Kct :=
  { ctxs := [(0, Ctx.zero)], inX := [], outX := [], buffer := [], rates := [], ece := [], proxies := [], paused := false, waiting := [],
    rrCtx := 0, rxFill := 0, pausing := false, addr4 := none, addr6 := none, router4 := 0, router6 := 0, lldpAt := 0,
    portRetrain := false, sent := [] }

def Serve.zero : Serve :=
  { reqs := [], gens := [], queue := [], nextOrder := 0, pages := [], cur := none, next := none, rerun := none, awaited := [], exchange := [],
    retryDis := false, pfxScope := false, pfxEn := true, lastScan := 0 }

def Tiers.zero : Tiers :=
  { soft := [], hard := [], rowCe := [], recalBad := [], maint := false, maintWant := [], tested := [], scrubNear := 0,
    scrubFar := 0, writebacks := [], farUe := [], buckets := [] }

def Power.zero : Power :=
  { dev := .off, moves := [], lastTask := [], wakeWant := [], idleSince := 0, trip := none, bindOff := none, quietAt := 0,
    windowAt := none, throttleAt := 0, enOpen := false, mainSwitch := true, due := true }

def Image.zero : Image :=
  { build := 0, svn := 0, fmtMin := 1, fmtMax := 1, kctMin := 1, kctMax := 1, hoOut := 1, hoMin := 1, hoMax := 1, revoke := 0,
    digest := [] }

def Trust.zero : Trust :=
  { banks := [], selTrusted := 0, selUntr := 0, trial := false, armed := false, portRecord := none, mapRecord := none,
    ringRecord := [], cfgRecord := none, records := [], running := Image.zero, trusted := Image.zero, runTrusted := 0, staged := [],
    m0 := [], m1 := [], m2 := [], pending := none, handover := none, half := 0, inBoot := false, casting := false,
    recovery := false, stopped := false, bootCode := 0, cert := [], certSig := [], idPub := [], attests := [], ready := false }

def Ras.zero : Ras :=
  { ring := [], nextSeq := 1, nextIdx := 0, wrapped := false, savedAt := 0, dirty := none, retires := [], swatchBad := [],
    retired := [], bankMap := [], bankCopy := [], bankDrops := [], banksBad := [], sliceRows := [], regionCe := [], sliceWb := [], march := none,
    fullNext := false, marchFull := false, bgRegion := 0, bgCycles := 0, bgLast := 0, bgHours := 24, bgAt := 0, downSince := none,
    downSeen := false, failed := none, cfgReported := none, holdUntil := none }

/-- The module at power good, before its cast-on (R387, R407, R416): a KX11-A of stepping B0 with blank fuses, every register
at the reset value of its table, nothing in any memory, context 0 open, the device Off. -/
def State.reset : State :=
  { pending := [], time := 0, fresh := 0,
    fuses := { variantB := false, stepA1 := false, serial := 0, debugOpen := false, keyDigests := [], trustedSvn := 0,
               untrustedSvn := 0, revoked := 0 },
    regs := resetRegs,
    mem := { commons := [], near := [], far := [], slices := [], bad := [] },
    blocks := [], kct := Kct.zero, arr := { arrays := [], slots := [] },
    disp := { ctrs := [], owners := [], insts := [], window := [], waits := [], nextNum := 0, rr := 0 },
    models := [], graphs := [], serve := Serve.zero, graft := { reg := [], gens := [], hot := [], pfx := [] },
    tier := Tiers.zero, power := Power.zero,
    link := { links := [], map := none, txSeq := [], rxSeq := [] }, coll := { open_ := [], runs := [], staged := [], held := [] },
    trust := Trust.zero, ras := Ras.zero,
    pins := { removeOk := false, alert := false, amber := false, resetLow := false, boardId := 0, tapIr := 1, hbmSel := 0,
              boundary := 0 } }

end Sys2Proof.Machine
end

