-- ==== Sys2Proof/Machine/Ops.lean ====
section
/-! DEFINITION. The shared operations: registers, memories, blocks, regulators, packets, replies, events and fault records. -/

namespace Sys2Proof.Machine

/-! ### Status codes (Table 13.11) -/

def stOK : Nat := 0x00
def stLate : Nat := 0x01
def stDeferred : Nat := 0x02
def stOpcode : Nat := 0x10
def stParam : Nat := 0x11
def stLength : Nat := 0x12
def stUnit : Nat := 0x13
def stStale : Nat := 0x14
def stNoCtx : Nat := 0x15
def stNoObj : Nat := 0x16
def stCapacity : Nat := 0x20
def stClass : Nat := 0x21
def stPages : Nat := 0x22
def stDeadline : Nat := 0x23
def stPruned : Nat := 0x24
def stLink : Nat := 0x30
def stPeer : Nat := 0x31
def stFault : Nat := 0x41
def stDrift : Nat := 0x42
def stRetired : Nat := 0x43
def stStall : Nat := 0x44

/-! ### Registers -/

/-- The stored value of a register word. -/
def rd (s : State) (a : Nat) : Nat := peekReg s.regs a

/-- The state with a register word stored. -/
def wr (s : State) (a v : Nat) : State := { s with regs := pokeReg s.regs a v }

/-- Bits [hi:lo] of a register word. -/
def fld (s : State) (a hi lo : Nat) : Nat := bits hi lo (rd s a)

/-- The state with bits [hi:lo] of a register word replaced. -/
def setFld (s : State) (a hi lo x : Nat) : State := wr s a (setBits hi lo (rd s a) x)

/-- A counter field raised by `n`, which saturates at all ones. -/
def bump (s : State) (a hi lo n : Nat) : State :=
  setFld s a hi lo (min (fld s a hi lo + n) (2 ^ (hi + 1 - lo) - 1))

/-- A 64-bit value in two words, low word first (R391). -/
def rd64 (s : State) (a : Nat) : Nat := rd s a + rd s (a + 4) * 2 ^ 32

def wr64 (s : State) (a v : Nat) : State := wr (wr s a (v % 2 ^ 32)) (a + 4) (v / 2 ^ 32 % 2 ^ 32)

/-- A 64-bit counter raised by `n`. -/
def bump64 (s : State) (a n : Nat) : State := if n = 0 then s else wr64 s a ((rd64 s a + n) % 2 ^ 64)

/-- The step counter (R264). -/
def stepCount (s : State) : Nat := rd64 s rSTEP_COUNT

/-- The module's slot and board position (LINK_INFO). -/
def mySlot (s : State) : Nat := fld s rLINK_INFO 18 16
def myPos (s : State) : Nat := fld s rLINK_INFO 21 19

/-- One of eight stacks or 24 packages lies in the mask of those in service. -/
def stackIn (s : State) (k : Nat) : Bool := bit k (fld s rNT_INFO 7 0)
def pkgIn (s : State) (k : Nat) : Bool := bit k (fld s rFT_INFO 23 0)
def stackCount (s : State) : Nat := fld s rNT_INFO 15 12
def packages (s : State) : Nat := fld s rFT_INFO 29 24

/-- Units of a kind without spares that remain of `n` (R460). -/
def unitsLeft (s : State) (kind n : Nat) : Nat := n - (s.ras.retired.filter fun x => x.1 == kind).length

/-- The unit mask CAPS_UNITS (R7): fuses, the same for the life of the module. -/
def unitMask (s : State) : Nat := if s.fuses.variantB then 0x1E7 else 0x7FF

/-! ### Memories -/

/-- In-service capacity of a space (R117, R287): 0 commons, 1 near tier, 2 far tier. -/
def capOf (s : State) (sp : Nat) : Nat :=
  match sp with
  | 0 => 2 ^ 28
  | 1 => stackCount s * 2 ^ 36
  | 2 => if s.fuses.variantB || packages s < 12 then 0 else packages s * 2 ^ 36
  | _ => 0

/-- The memory of a space. -/
def memOf (m : Mems) (sp : Nat) : Memory :=
  match sp with
  | 0 => m.commons
  | 1 => m.near
  | 2 => m.far
  | _ => m.slices

def setMem (m : Mems) (sp : Nat) (x : Memory) : Mems :=
  match sp with
  | 0 => { m with commons := x }
  | 1 => { m with near := x }
  | 2 => { m with far := x }
  | _ => { m with slices := x }

/-- `n` bytes of a space from an address. -/
def ld (s : State) (sp a n : Nat) : Bytes := peeks (memOf s.mem sp) a n

/-- The little-endian number of `n` bytes. -/
def ldN (s : State) (sp a n : Nat) : Nat := ofLE (ld s sp a n)

/-- The 64-byte lines a range touches. -/
def linesOf (a n : Nat) : List Nat :=
  if n = 0 then [] else (List.range ((a + n - 1) / 64 - a / 64 + 1)).map (· + a / 64)

/-- A word of the range is marked uncorrectable. Words have 16 bytes, the data of one code word (Table 5.1, R119, R292). -/
def badIn (s : State) (sp a n : Nat) : Bool :=
  s.mem.bad.any fun x => x.1 == sp && (n != 0 && (a / 16 ≤ x.2 && x.2 ≤ (a + n - 1) / 16))

/-- Bytes written to a space: a word written whole is no longer marked uncorrectable. -/
def st (s : State) (sp a : Nat) (bs : Bytes) : State :=
  let m := setMem s.mem sp (pokes (memOf s.mem sp) a bs)
  { s with mem := { m with bad := m.bad.filter fun x => !(x.1 == sp && (a ≤ x.2 * 16 && x.2 * 16 + 16 ≤ a + bs.length)) } }

/-- A range cleared. -/
def wipeRange (s : State) (sp a n : Nat) : State :=
  let m := setMem s.mem sp (wipe (memOf s.mem sp) a n)
  { s with mem := { m with bad := m.bad.filter fun x => !(x.1 == sp && (a ≤ x.2 * 16 && x.2 * 16 + 16 ≤ a + n)) } }

/-- A word marked uncorrectable. -/
def markBad (s : State) (sp word : Nat) : State :=
  if s.mem.bad.contains (sp, word) then s else { s with mem := { s.mem with bad := (sp, word) :: s.mem.bad } }

/-- The marks of a range of one space set at another place. -/
def copyMarks (s : State) (bad : List (Nat × Nat)) (sp a n dsp d : Nat) : State :=
  bad.foldl (fun s x => if x.1 = sp ∧ a ≤ x.2 * 16 ∧ x.2 * 16 < a + n then markBad s dsp ((x.2 * 16 - a + d) / 16) else s) s

/-- A range copied from one place to another: a word that does not decode stays so in the copy, never delivered as valid (R294). -/
def copyRange (s : State) (sp a n dsp d : Nat) : State :=
  let cells := ((memOf s.mem sp).filter fun c => a ≤ c.1 && c.1 < a + n).map fun c => (c.1 - a + d, c.2)
  let w := wipeRange s dsp d n
  let w := { w with mem := setMem w.mem dsp (cells.foldl (fun m c => poke m c.1 c.2) (memOf w.mem dsp)) }
  copyMarks w s.mem.bad sp a n dsp d

/-! ### Reserved regions (Table 12.3) -/

/-- The near-tier start of the reserved regions: the shadow copy, the prefix table, the graft registry and the activation
region follow one another from SHADOW_BASE, and on a KX11-B the prefix token records (log 8). -/
def shadowBase (s : State) : Nat := fld s rSHADOW_BASE 19 0 * 2 ^ 20
def mib : Nat := 2 ^ 20
def registryBase (s : State) : Nat := shadowBase s + 3328 * mib
def activationBase (s : State) : Nat := shadowBase s + 4352 * mib
def nearReserved (s : State) : Nat := (if s.fuses.variantB then 5088 else 4576) * mib
/-- The hot area and the collective engine's staging, the top 24 MiB of the commons, granted to context 0 (log 8). -/
def hotBase : Nat := 2 ^ 28 - 24 * 2 ^ 20

/-- The reserved part of a space: its start and size. -/
def reservedOf (s : State) (sp : Nat) : Nat × Nat :=
  match sp with
  | 1 => if stackCount s = 0 then (0, 0) else (shadowBase s, nearReserved s)
  | 2 => if capOf s 2 = 0 then (0, 0) else (capOf s 2 - 512 * mib, 512 * mib)
  | _ => (0, 0)

/-- The far-tier blocks that hold the install mirror (R291). -/
def mirrorBlocks (s : State) : List Nat :=
  (s.models.flatMap fun m => m.2.mirror.flatMap fun x => (List.range x.2).map (· + x.1))
  ++ s.graft.reg.filterMap fun g => g.2.mirror

/-- A range touches a reserved region (R291). -/
def inReserved (s : State) (sp a n : Nat) : Bool :=
  overlap a n (reservedOf s sp).1 (reservedOf s sp).2
  || (sp == 2 && (mirrorBlocks s).any fun b => overlap a n (b * 65536) 65536)

/-! ### Blocks (R124, R125) -/

def blockKey (sp b : Nat) : Nat := sp * 2 ^ 32 + b
def noBlock : Block := { owner := none, granted := false, withdrawn := false, repaired := false }
def blockAt (s : State) (sp b : Nat) : Block := (look s.blocks (blockKey sp b)).getD noBlock
/-- The block table with one block's entry replaced. -/
def putBlock (s : State) (sp b : Nat) (x : Block) : State :=
  { s with blocks := if x = noBlock then del s.blocks (blockKey sp b) else put s.blocks (blockKey sp b) x }

/-- The block is granted to the context now. -/
def owns (s : State) (c sp b : Nat) : Bool := (blockAt s sp b).granted && (blockAt s sp b).owner == some c

/-- Every block of a range is one the context may name: granted to it, or, for context 0, any block (R331). -/
def mayName (s : State) (c sp a n : Nat) : Bool :=
  a + n ≤ capOf s sp &&
  (c == 0 || n == 0 || (List.range ((a + n - 1) / 65536 - a / 65536 + 1)).all fun i => owns s c sp (a / 65536 + i))

/-- Every block of a range is granted to the context. -/
def ownsRange (s : State) (c sp a n : Nat) : Bool :=
  a + n ≤ capOf s sp &&
  (n == 0 || (List.range ((a + n - 1) / 65536 - a / 65536 + 1)).all fun i => owns s c sp (a / 65536 + i))

/-- Blocks a context holds now (MEM_QUOTA, Table 13.4). -/
def blocksHeld (s : State) (c : Nat) : Nat := (s.blocks.filter fun b => b.2.granted && b.2.owner == some c).length

/-- Blocks `b` to `b+n-1` of a space can be granted: within the capacity, not reserved, none granted or withdrawn. -/
def freeRun (s : State) (sp b n : Nat) : Bool :=
  (b + n) * 65536 ≤ capOf s sp && !inReserved s sp (b * 65536) (n * 65536) &&
  s.blocks.all fun x => !((x.2.granted || x.2.withdrawn) && blockKey sp b ≤ x.1 && x.1 < blockKey sp b + n)

/-- No task in the dispatch window names a block of the run, but for blocks the context owned last (R126). -/
def untouched (s : State) (c sp b n : Nat) : Bool :=
  s.disp.window.all fun w => w.2.names.all fun r =>
    r.1 != sp || (List.range n).all fun i => (blockAt s sp (b + i)).owner == some c || !overlap r.2.1 r.2.2 ((b + i) * 65536) 65536

/-- A contiguous run of free blocks for a context: the free choice where it fits, else the lowest run (log 3). -/
def findRun (s : State) (c sp n : Nat) : Option Nat :=
  let starts := sortBy id (0 :: (((reservedOf s sp).1 + (reservedOf s sp).2) / 65536)
    :: s.blocks.filterMap fun x => if x.1 / 2 ^ 32 == sp then some (x.1 % 2 ^ 32 + 1) else none)
  let ok := fun b => freeRun s sp b n && untouched s c sp b n
  let b := Config.place s.fresh
  if ok b then some b else starts.find? ok

/-! ### Regulators (R297–R299) -/

/-- The rate of a resource's buckets by a word of the partition: link `n` is resource 3 + n, every link has the words of LK_REG, and a
DEGRADED link adds half, rounded down (Table 12.5, R366). -/
def rateNow (s : State) (res p off : Nat) : Nat :=
  let v := rd s (rREG (min res 3) p + off)
  if 3 ≤ res ∧ fld s (rLINK_STAT (res - 3)) 2 0 = 5 then v / 2 else v

/-- The committed and peak buckets of a partition, in sixteenths of a byte. A bucket not listed has not been used and its BURST has not
been written: it is full. -/
def bucketOf (s : State) (res p : Nat) : Int × Int :=
  ((look s.tier.buckets (res * 8 + p)).getD ((rd s (rREG (min res 3) p + 8) * 16384 : Nat), 65536))

/-- What a bucket holds after `b` bytes in accesses of 64 bytes drawn while it is above zero. -/
def drawn (c : Int) (b : Nat) : Int :=
  if c ≤ 0 then c else max (c - (b * 16 : Nat)) (c - (((c.toNat + 1023) / 1024 * 1024 : Nat) : Int))

/-- ok(p): without a peak limit, or with the peak bucket above zero, the partition's accesses are granted (R299). -/
def peakOk (s : State) (res p : Nat) : Bool := rd s (rREG (min res 3) p + 4) == 0 || 0 < (bucketOf s res p).2
/-- The partition's next access is green (R299). -/
def greenAt (s : State) (res p : Nat) : Bool := 0 < (bucketOf s res p).1

/-- `b` bytes of a partition's traffic charged to a resource: to the committed bucket while it is above zero, and all of it to the peak
bucket when there is a peak limit. What a command moves at once beyond the peak bucket stands as its debt, and the partition's next
work waits until refills have paid it (log 58). -/
def charge (s : State) (res p b : Nat) : State :=
  if b = 0 then s else
  let k := bucketOf s res p
  let e := if rd s (rREG (min res 3) p + 4) = 0 then k.2 else k.2 - (b * 16 : Nat)
  { s with tier := { s.tier with buckets := put s.tier.buckets (res * 8 + p) (drawn k.1 b, e) } }

/-- The resource a space's traffic is regulated under (Table 12.5). -/
def resOf (sp : Nat) : Nat := match sp with
  | 0 => 2
  | 1 => 0
  | _ => 1

/-- One tick, 68 cycles, of refill of a partition's buckets (R299). -/
def refill (s : State) (res p : Nat) : State :=
  match look s.tier.buckets (res * 8 + p) with
  | none => s
  | some k =>
    let c := min (k.1 + (68 * rateNow s res p 0 : Nat)) (rd s (rREG (min res 3) p + 8) * 16384 : Nat)
    let pk := rateNow s res p 4
    let e := if pk = 0 then k.2 else min (k.2 + (68 * pk : Nat)) 65536
    { s with tier := { s.tier with buckets := put s.tier.buckets (res * 8 + p) (c, e) } }

/-! ### Grants -/

/-- A block of a space zeroed by the trusted core, whose accesses to the tiers are regulated, as partition 0's (R125, R297, log 58). -/
def zeroBlock (s : State) (sp b : Nat) : State :=
  charge (wipeRange s sp (b * 65536) 65536) (resOf sp) 0 (if sp = 0 then 0 else 65536)

/-- One block granted to a context: zeroed first when another context owned it (R125). -/
def grantBlock (s : State) (c sp b : Nat) : State :=
  let o := (blockAt s sp b).owner
  let s := if o == none || o == some c then s else zeroBlock s sp b
  putBlock s sp b { blockAt s sp b with owner := some c, granted := true }

/-- A run of blocks granted, lowest first. -/
def grantRun (s : State) (c sp b : Nat) : Nat → State
  | 0 => s
  | n + 1 => grantRun (grantBlock s c sp b) c sp (b + 1) n

/-- One block returned to its pool; it keeps its recorded owner. A withdrawn block whose row has been repaired is zeroed and is
withdrawn no longer (R295). -/
def freeNow (s : State) (sp b : Nat) : State :=
  let x := blockAt s sp b
  if x.withdrawn && x.repaired then
    putBlock (zeroBlock s sp b) sp b { x with granted := false, withdrawn := false, repaired := false }
  else putBlock s sp b { x with granted := false }

/-- A registered delta graft names a block: its image stands there uncopied (R275). -/
def deltaNames (s : State) (sp b : Nat) : Bool :=
  s.graft.reg.any fun g => g.2.delta && g.2.tier == sp && overlap g.2.addr g.2.size (b * 65536) 65536

/-- One block given up by its context: returned, unless a delta graft names it; then it stays owned until that graft is freed (R275). -/
def freeBlock (s : State) (sp b : Nat) : State :=
  if deltaNames s sp b then
    { s with graft := { s.graft with owed := blockKey sp b :: s.graft.owed.filter (· != blockKey sp b) } }
  else freeNow s sp b

def freeRunOf (s : State) (sp b : Nat) : Nat → State
  | 0 => s
  | n + 1 => freeRunOf (freeBlock s sp b) sp (b + 1) n

/-- A block taken for firmware as context 0, with the allocation's free choice used up. -/
def takeRun (s : State) (sp n : Nat) : Option (Nat × State) :=
  (findRun s 0 sp n).map fun b => (b, grantRun { s with fresh := s.fresh + 1 } 0 sp b n)

/-! ### Contexts -/

def ctxOf (s : State) (c : Nat) : Option Ctx := look s.kct.ctxs c
def setCtx (s : State) (c : Nat) (x : Ctx) : State := { s with kct := { s.kct with ctxs := put s.kct.ctxs c x } }
def modCtx (s : State) (c : Nat) (f : Ctx → Ctx) : State := { s with kct := { s.kct with ctxs := modify s.kct.ctxs c f } }

/-- A host port register as it is in force: a write acts after the reply to its REG_WRITE has been sent (R339). -/
def hpWord (s : State) (a : Nat) : W32 := (look s.kct.held a).getD (BitVec.ofNat 32 (rd s a))
def hpFld (s : State) (a hi lo : Nat) : Nat := bits hi lo (hpWord s a).toNat

/-- The token of a context; that of context 0 is KCT_TOKEN0 (R319). -/
def tokenOf (s : State) (c : Nat) : W32 :=
  if c = 0 then hpWord s rTOKEN0 else match ctxOf s c with
    | some x => x.token
    | none => 0

/-- The regulator partition of a context (R298). -/
def partOf (s : State) (c : Nat) : Nat := match ctxOf s c with
  | some x => x.part
  | none => 0

/-! ### Packets -/

/-- The module can put packets on its host port. -/
def portUp (s : State) : Bool := fld s rHP_STAT 0 0 == 1

/-- Something other than a packet of the command transport's own put on a port. -/
def put1 (s : State) (o : Out) : State := { s with kct := { s.kct with sent := o :: s.kct.sent } }

/-! ### Trellis links: what a module sends (R352–R356, R368, R369) -/

/-- The board link to a slot (R348). -/
def linkToSlot (s : State) (t : Nat) : Nat := (Nat.xor (mySlot s) t) - 1
def linkState (s : State) (n : Nat) : Nat := fld s (rLINK_STAT n) 2 0
def linkOk (s : State) (n : Nat) : Bool := linkState s n == 4 || linkState s n == 5
/-- Member codes: the board position over the slot (R368). -/
def memberCode (pos slot : Nat) : Nat := pos * 8 + slot
def myCode (s : State) : Nat := memberCode (myPos s) (mySlot s)

/-- A link with its buffers empty and every credit (R356, R357). -/
def Link.zero : Link :=
  { nextSeq := 0, replay := [], queue := [], sent := [], credits := [512, 512, 64], seen := [0, 0, 0], turn := 1, rxNext := 0,
    nak := false, freed := [0, 0, 0], partial_ := [], partialPoison := [], peerMask := 0, peer := none, mine := none, told := false,
    verdict := none,    since := 0, silent := false, requar := false, retraining := false, retrains := 0, firstFail := 0, lastCtl := 0 }
def linkOf (s : State) (n : Nat) : Link := (look s.link.links n).getD Link.zero
def setLink (s : State) (n : Nat) (l : Link) : State := { s with link := { s.link with links := put s.link.links n l } }
def modLink (s : State) (n : Nat) (f : Link → Link) : State := setLink s n (f (linkOf s n))

/-- A flit (Table 14.2): header, payload padded with zeros, CRC over bytes 0–11 and 16–255. -/
def flitBytes (typ cls : Nat) (last : Bool) (len fseq poison : Nat) (payload : Bytes) : Bytes :=
  let h := toLE 1 (typ * 16 + cls * 4 + b2n last * 2) ++ toLE 1 len ++ toLE 2 fseq ++ toLE 2 poison ++ zeros 6
  let pl := sliceOf payload 0 240
  h ++ toLE 4 (crc32 (h ++ pl)) ++ pl

/-- The packet of a class whose flit goes next, with a credit held: the one under way, else the oldest whose partition is green, else the
oldest yellow one. A flit whose partition has spent its peak bucket waits (R299, R356, log 58). -/
def jobOf (s : State) (n : Nat) (l : Link) (c : Nat) : Option FlitJob :=
  let js := l.queue.filter fun j => j.cls == c
  let ok := fun (j : FlitJob) => peakOk s (3 + n) j.part
  if l.credits.getD c 0 = 0 then none
  else match js.find? fun j => j.pos != 0 with
    | some j => if ok j then some j else none
    | none => match js.find? fun j => ok j && greenAt s (3 + n) j.part with
      | some j => some j
      | none => js.find? ok

/-- The flit that goes next: management, then board and rack in turn (R356). -/
def nextJob (s : State) (n : Nat) (l : Link) : Option FlitJob :=
  match jobOf s n l 2 with
  | some j => some j
  | none => match jobOf s n l (1 - l.turn) with
    | some j => some j
    | none => jobOf s n l l.turn

/-- The list with the first entry that meets a test changed, or gone. -/
def dropJob (p : FlitJob → Bool) : List FlitJob → Option FlitJob → List FlitJob
  | [], _ => []
  | j :: js, x => if p j then (match x with
      | some y => y :: js
      | none => js) else j :: dropJob p js x

/-- One flit of a packet sent: held for replay, a credit used, charged to the packet's partition. -/
def sendFlit (s : State) (n : Nat) (l : Link) (j : FlitJob) : State :=
  let chunk := (j.bytes.drop (240 * j.pos)).take 240
  let last := j.bytes.length ≤ 240 * (j.pos + 1)
  let b := flitBytes (if j.pos = 0 then 1 else 2) j.cls last chunk.length l.nextSeq (j.poison / 2 ^ (15 * j.pos) % 2 ^ 15) chunk
  let l := { l with
    nextSeq := (l.nextSeq + 1) % 65536
    replay := l.replay ++ [{ fseq := l.nextSeq, cls := j.cls, last := last, bytes := b, tries := 0, part := j.part }]
    credits := modAt l.credits j.cls (· - 1), turn := if j.cls < 2 then j.cls else l.turn, slots := l.slots + 1
    queue := dropJob (· == j) l.queue (if last then none else some { j with pos := j.pos + 1 })
    sent := if last then l.sent ++ [{ j with pos := 0 }] else l.sent }
  bump64 (put1 (charge (setLink s n l) (3 + n) j.part chunk.length) (.flit n b)) (rLINK_PERF n) chunk.length

/-- A retrain begins (R364). -/
def startRetrain (s : State) (n : Nat) : State :=
  let l := linkOf s n
  if !linkOk s n || l.retraining then s
  else modLink (bump s (rLINK_ERR n) 15 8 1) n fun l =>
    { l with retraining := true, since := s.time, retrains := 0, replay := l.replay.map fun h => { h with tries := 0 } }

/-- The oldest flit that is due again is sent again; one sent again 8 times without an acknowledgement starts a retrain (R355,
R364). -/
def sendAgain (s : State) (n : Nat) (l : Link) : State :=
  let k := l.replay.length - l.again
  match l.replay[k]? with
  | none => setLink s n { l with again := 0 }
  | some h =>
    let s := setLink s n { l with again := l.again - 1, slots := l.slots + 1,
                                  replay := modAt l.replay k fun h => { h with tries := h.tries + 1 } }
    let s := bump64 (put1 (charge s (3 + n) h.part (num h.bytes 1 1)) (.flit n h.bytes)) (rLINK_PERF n + 16) 1
    if 8 ≤ h.tries + 1 then startRetrain s n else s

/-- The data flits that go now: while the link carries traffic, up to the 20 slots before the next control flit (R353); flits due again
first, then new ones while the replay buffer has room (R355). -/
def pumpLink (s : State) (n : Nat) : Nat → State
  | 0 => s
  | k + 1 =>
    let l := linkOf s n
    if !linkOk s n || l.retraining || 20 ≤ l.slots then s
    else if l.again ≠ 0 then pumpLink (sendAgain s n l) n k
    else if 1024 ≤ l.replay.length then s
    else match nextJob s n l with
      | some j => pumpLink (sendFlit s n l j) n k
      | none => s

/-- Flits that one event lets go at most: the slots between two control flits. -/
def pumpFuel : Nat := 20

/-- A packet put on a link. -/
def queueOn (s : State) (n : Nat) (j : FlitJob) : State :=
  pumpLink (modLink s n fun l => { l with queue := l.queue ++ [j] }) n pumpFuel

/-- A packet header (Table 14.8). -/
def pktHead (c : CollPkt) : Bytes :=
  toLE 1 c.kind ++ toLE 1 (c.hops % 32 * 8 + c.part % 8) ++ toLE 1 c.src ++ toLE 1 c.dst ++ toLE 2 c.collId ++ zeros 2
  ++ toLE 4 c.inst ++ toLE 4 c.pktSeq ++ toLE 4 c.offset ++ toLE 4 c.length ++ toLE 2 c.block ++ toLE 1 c.phase ++ zeros 5

/-- A packet as a link carries it. -/
def jobOfPkt (c : CollPkt) : FlitJob :=
  { cls := c.cls, part := c.part, bytes := pktHead c ++ c.data, poison := c.poison * 4, pos := 0 }

/-- The next packet number to a destination taken (R369). -/
def takePktSeq (s : State) (dst : Nat) : Nat × State :=
  let q := (look s.link.txSeq dst).getD 0
  (q, { s with link := { s.link with txSeq := put s.link.txSeq dst ((q + 1) % 2 ^ 32) } })

/-- The bytes of a KCT packet (Table 13.2). `Hdr.rsv` holds the reserved bits: bit 0 that of byte 1, bits [4:1] those of bytes 2–3,
bits [9:5] those of byte 28, bits [33:10] bytes 29–31. -/
def kctBytes (h : Hdr) (payload : Bytes) : Bytes :=
  toLE 1 h.version
  ++ toLE 1 (b2n h.reply * 128 + b2n h.event * 64 + b2n h.ack * 32 + b2n h.seg * 16 + b2n h.stream * 8 + b2n h.ece * 4
             + b2n h.proxy * 2 + h.rsv % 2)
  ++ toLE 2 (bits 4 1 h.rsv * 4096 + h.ctx % 4096) ++ toLE 4 h.token.toNat ++ toLE 4 h.seq.toNat ++ toLE 2 h.opcode
  ++ toLE 1 h.status ++ toLE 1 h.detail ++ toLE 4 h.hostTag.toNat ++ toLE 2 h.plen ++ toLE 2 h.segment ++ toLE 2 h.segLast
  ++ toLE 2 h.credit ++ toLE 1 (bits 9 5 h.rsv * 8 + h.proxySlot % 8) ++ toLE 3 (bits 33 10 h.rsv) ++ payload

/-- A KCT packet sent over a board link: management class, partition 0 (R344, R345). -/
def sendKctOn (s : State) (n : Nat) (h : Hdr) (payload : Bytes) : State :=
  let dst := memberCode (myPos s) (Nat.xor (mySlot s) (n + 1))
  let q := takePktSeq s dst
  let d := kctBytes h payload
  queueOn q.2 n (jobOfPkt { kind := 2, hops := 0, part := 0, src := myCode s, dst := dst, collId := 0, inst := 0, pktSeq := q.1,
                            offset := 0, length := d.length, block := 0, phase := 0, cls := 2, data := d, poison := 0 })

/-- The KCT bytes of what the host port transmits, counted in TX (Table 13.18). -/
def outBytes : Out → Nat
  | .kct p => 32 + p.payload.length
  | .fromLink _ _ d => 32 + d.length
  | .raw d => d.length
  | _ => 0

/-- The host port transmits: it holds an address, and does not honour a pause (R312). -/
def paused (s : State) : Bool := s.kct.paused && hpFld s rHP_CFG 3 3 == 1
def hasAddr (s : State) : Bool := fld s rHP_STAT 3 3 == 1

/-- The 802.1Q tag and the ECN field a frame leaves with: VLAN_ID, and ECT(0) in an IP header (R312). -/
def tagOf (s : State) : Out → Nat × Nat
  | .neighbor _ _ _ => (hpFld s rHP_CFG 15 4, 0)
  | _ => (hpFld s rHP_CFG 15 4, 2)

/-- A frame sent by the host port. -/
def wire (s : State) (o : Out) : State :=
  put1 { s with kct := { s.kct with tags := tagOf s o :: s.kct.tags } } o

/-- A packet put on the host port: sent, kept while the port is paused, or discarded while it is down or has no address (R312, R467). -/
def hostSend (s : State) (o : Out) : State :=
  if !portUp s || !hasAddr s then s
  else if paused s then { s with kct := { s.kct with waiting := s.kct.waiting ++ [o] } }
  else bump64 (wire s o) (rHP_PERF + 8) (outBytes o)

/-- A packet of the command transport sent by the host port or over a link. -/
def emit (s : State) (p : OutPkt) : State :=
  match p.via with
  | some n => sendKctOn s n p.hdr p.payload
  | none => hostSend s (.kct p)

/-- ECE for the next ACK or reply to a source, and the state with the debt paid (R330). -/
def takeEce (s : State) (dst : Endpoint) : Bool × State :=
  (s.kct.ece.contains dst, { s with kct := { s.kct with ece := s.kct.ece.filter (· != dst) } })

/-- The largest payload of one packet on a path, and the segment size the device uses: a multiple of 64 (R325). -/
def pathMax (s : State) (dst : Endpoint) : Nat :=
  min 8192 (hpFld s rHP_CFG2 13 0 - (if dst.fam == 6 then 80 else 60))
def segSize (s : State) (dst : Endpoint) : Nat := max 64 (pathMax s dst / 64 * 64)

/-- The header of what the device sends in answer to a command (R316); PROXY_SLOT names the target's slot, which the command named
(Table 13.2, R344). -/
def answerHdr (p : Pkt) (status detail credit plen : Nat) : Hdr :=
  { version := 1, reply := true, event := false, ack := false, seg := false, stream := false, ece := false,
    proxy := p.hdr.proxy, rsv := 0, ctx := p.hdr.ctx, token := p.hdr.token, seq := p.hdr.seq, opcode := p.hdr.opcode,
    status := status, detail := detail, hostTag := p.hdr.hostTag, plen := plen, segment := 0, segLast := 0, credit := credit,
    proxySlot := if p.hdr.proxy then p.hdr.proxySlot else 0 }

/-- CREDIT of a reply: the commands its context may still start (R324). -/
def creditOf (s : State) (c : Nat) : Nat := match ctxOf s c with
  | some x => 256 - x.started.length
  | none => 0

/-- A reply sent with no trace in a context: the answers of the receive checks before a command is accepted. -/
def bareReply (s : State) (r : Req) (status detail : Nat) : State :=
  let e := takeEce s r.pkt.src
  emit e.2 { via := r.via, dst := r.pkt.src, payload := [],
             hdr := { answerHdr r.pkt status detail (creditOf s r.pkt.hdr.ctx) 0 with ece := e.1 } }

/-- One segment of an outbound transfer. -/
def sendSegment (s : State) (x : OutXfer) (i : Nat) : State :=
  let d := (x.data.drop (i * x.size)).take x.size
  let last := (x.data.length - 1) / x.size
  let e := takeEce s x.dst
  emit e.2 { via := x.via, dst := x.dst, payload := d,
             hdr := { x.hdr with seg := true, segment := i, segLast := last, plen := d.length, ece := e.1 } }

/-- New segments of a transfer sent while fewer than 256 are unacknowledged (R328). -/
def pump (s : State) (x : OutXfer) : Nat → State × OutXfer
  | 0 => (s, x)
  | n + 1 =>
    if x.next * x.size < max 1 x.data.length && x.next - x.base - x.got.length < 256 && x.next ≤ x.base + 2047 then
      pump (sendSegment s x x.next) { x with next := x.next + 1 } n
    else (s, x)

/-- A segmented transfer to a destination begun (R325, R328). -/
def beginXfer (s : State) (via : Option Nat) (dst : Endpoint) (h : Hdr) (data : Bytes) : State :=
  let x : OutXfer := { via := via, dst := dst, hdr := h, data := data, size := segSize s dst, base := 0, got := [], next := 0,
                       tries := [], moved := s.time }
  let r := pump s x 257
  { r.1 with kct := { r.1.kct with outX := r.1.kct.outX ++ [r.2] } }

/-- The one reply of a command (R316): sent to the command's source, counted off the commands started, kept in the reply cache
when its payload is 256 B or less (R323), and segmented when it exceeds one packet. -/
def replyTo (s : State) (r : Req) (status detail : Nat) (payload : Bytes) : State :=
  let c := r.pkt.hdr.ctx
  let s := modCtx s c fun x => { x with started := x.started.erase r.pkt.hdr.seq }
  let credit := creditOf s c
  let h := answerHdr r.pkt status detail credit payload.length
  if payload.length ≤ pathMax s r.pkt.src then
    let e := takeEce s r.pkt.src
    let out : OutPkt := { via := r.via, dst := r.pkt.src, hdr := { h with ece := e.1 }, payload := payload }
    let s := if payload.length ≤ 256 then modCtx e.2 c fun x => { x with cache := (out :: x.cache).take 32 } else e.2
    emit s out
  else if 65536 * segSize s r.pkt.src < payload.length then
    let e := takeEce s r.pkt.src
    emit e.2 { via := r.via, dst := r.pkt.src, payload := [],
               hdr := { answerHdr r.pkt stLength 0 credit 0 with ece := e.1 } }
  else beginXfer s r.via r.pkt.src h payload

/-- A reply of a status alone. -/
def fail (s : State) (r : Req) (status : Nat) (detail : Nat := 0) : State := replyTo s r status detail []

/-! ### Events (R341–R345) -/

/-- The payload of an event (R341). -/
def eventPayload (s : State) (code sev : Nat) (body : Bytes) : Bytes :=
  toLE 2 code ++ toLE 1 sev ++ zeros 5 ++ toLE 8 s.time ++ body

/-- The link the events of a module whose port is down travel by (R345): to the lowest-numbered slot whose link is UP. -/
def relayLink (s : State) : Option Nat :=
  ((List.range 8).find? fun t => t != mySlot s && linkState s (linkToSlot s t) == 4).map (linkToSlot s)

/-- The way an event of a context leaves now: by the host port, or for context 0 by a neighbour. -/
def eventVia (s : State) (c : Nat) : Option (Option Nat) :=
  if portUp s then (if paused s || !hasAddr s then none else some none)
  else if c = 0 then (relayLink s).map some else none

/-- One event of a subscription sent, its sequence taken. -/
def sendEvent (s : State) (c : Nat) (via : Option Nat) (b : Sub) (e : EventMsg) : State :=
  let h : Hdr := { version := 1, reply := false, event := true, ack := false, seg := false, stream := false, ece := false,
                   proxy := false, rsv := 0, ctx := c, token := tokenOf s c, seq := BitVec.ofNat 32 b.seq, opcode := e.code,
                   status := 0, detail := e.detail, hostTag := e.hostTag, plen := e.payload.length, segment := 0, segLast := 0,
                   credit := 0, proxySlot := 0 }
  let s := emit s { via := via, dst := b.dst, hdr := h, payload := e.payload }
  modCtx s c fun x => { x with sub := some { b with seq := b.seq + 1, queue := b.queue.drop 1 } }

/-- A subscription's queue sent, oldest first. -/
def flushSub (s : State) (c : Nat) : Nat → State
  | 0 => s
  | n + 1 =>
    match ctxOf s c, eventVia s c with
    | some x, some via =>
      match x.sub with
      | some b =>
        match b.queue with
        | e :: _ => flushSub (sendEvent s c via b e) c n
        | [] => s
      | none => s
    | _, _ => s

/-- An event put into a subscription's queue, which holds 256 (R343): a full queue drops and counts it, and once there is space
an EVENTS_LOST event with the count goes ahead of the next event. -/
def enqueue (s : State) (b : Sub) (e : EventMsg) : Sub :=
  if 256 ≤ b.queue.length then { b with lost := b.lost + 1 }
  else if b.lost = 0 then { b with queue := b.queue ++ [e] }
  else
    let l : EventMsg := { code := 0x0A1D, detail := 0, hostTag := 0, payload := eventPayload s 0x0A1D 1 (toLE 4 b.lost) }
    let q := if bit 13 b.mask then b.queue ++ [l] else b.queue
    if 256 ≤ q.length then { b with queue := q, lost := 1 } else { b with queue := q ++ [e], lost := 0 }

/-- An event for one context, if it has subscribed to the code: queued, and sent when the port can send (R342, R343). -/
def notify (s : State) (c code : Nat) (tag : W32) (sev : Nat) (body : Bytes) (detail : Nat := 0) : State :=
  match ctxOf s c with
  | none => s
  | some x =>
    match x.sub with
    | none => s
    | some b =>
      if bit (code - 0x0A10) b.mask then
        let e : EventMsg := { code := code, detail := detail, hostTag := tag, payload := eventPayload s code sev body }
        flushSub (setCtx s c { x with sub := some (enqueue s b e) }) c 258
      else s

/-- An event for every context that has subscribed. -/
def notifyAll (s : State) (code sev : Nat) (body : Bytes) : State :=
  s.kct.ctxs.foldl (fun s c => notify s c.1 code 0 sev body) s

/-! ### Fault records (R442–R444) -/

/-- The parts of a fault record (Table 18.1) that its cause gives. -/
structure FaultRec where
  code    : Nat
  sev     : Nat
  unit    : Nat
  inst    : Nat := 0xFFFF
  status  : Nat := 0
  flags   : Nat := 0
  ctx     : Nat := 0xFFFF
  logical : Nat := 0xFFFF
  object  : Nat := 0xFFFFFFFF
  addr    : Nat := 0
  space   : Nat := 0xFF
  chan    : Nat := 0
  bank    : Nat := 0
  row     : Nat := 0
  task    : Nat := 0xFFFFFFFF
  data    : Nat := 0
  deriving DecidableEq, Repr

/-- The 64 bytes of a record (Table 18.1). -/
def faultBytes (seq time step : Nat) (f : FaultRec) : Bytes :=
  toLE 4 seq ++ toLE 2 f.code ++ toLE 1 f.sev ++ toLE 1 f.unit ++ toLE 8 time ++ toLE 2 f.inst ++ toLE 1 f.status
  ++ toLE 1 f.flags ++ toLE 2 f.ctx ++ toLE 2 f.logical ++ toLE 4 f.object ++ toLE 4 step ++ toLE 8 f.addr ++ toLE 1 f.space
  ++ toLE 1 f.chan ++ toLE 1 f.bank ++ [0] ++ toLE 4 f.row ++ toLE 4 f.task ++ toLE 8 f.data ++ zeros 4

/-- The ring with a record at NEXT (R444). -/
def pushRecord (s : State) (b : Bytes) : State :=
  { s with ras := { s.ras with
      ring := put s.ras.ring s.ras.nextIdx b, wrapped := s.ras.wrapped || (look s.ras.ring s.ras.nextIdx).isSome,
      nextIdx := (s.ras.nextIdx + 1) % 256,
      nextSeq := if s.ras.nextSeq + 1 = 2 ^ 32 then 1 else s.ras.nextSeq + 1 } }

/-- The host tag of the request or the graph instance that a record concerns, or 0 (R341). -/
def recTag (s : State) (f : FaultRec) : W32 :=
  if f.code = 0x0602 then match s.serve.reqs.find? fun r => r.1 % 32768 == f.object % 32768 && r.2.gen == f.object / 32768 with
    | some r => r.2.hostTag
    | none => 0
  else if bit 3 f.flags || bit 4 f.flags then match s.disp.insts.find? fun i => i.num == f.object with
    | some i => i.hdr.hostTag
    | none => 0
  else 0

/-- The trusted core writes a fault record: the ring, the count of its unit, the FAULT event to context 0, and the alert that a
record of SEVERITY 2 latches (R442, R482). -/
def record (s : State) (f : FaultRec) : State :=
  let b := faultBytes s.ras.nextSeq s.time (stepCount s % 2 ^ 32) f
  let s := pushRecord s b
  let s := if bit 0 f.flags then bump s (rRAS_CNT f.unit) 7 0 1
           else if f.sev = 2 then bump s (rRAS_CNT f.unit) 15 8 1 else s
  let s := { s with ras := { s.ras with dirty := some (match s.ras.dirty with
                                                        | some d => max d f.sev
                                                        | none => f.sev) } }
  let s := if f.sev = 2 then { s with pins := { s.pins with alert := true } } else s
  notify s 0 0x0A11 (recTag s f) f.sev b

/-- Corrected errors of a unit kind (Table 18.8). -/
def corrected (s : State) (unit n : Nat) : State := bump s (rRAS_CNT unit) 31 16 n

/-- What happens in the powered domains happens only while the device is not Off (Table 16.3). -/
def whenOn (s : State) (f : State → State) : State := if s.power.dev = .off then s else f s

/-- A free number, which the model's counter makes a fresh one (log 1). -/
def takeFree (s : State) : Nat × State := (Config.free s.fresh, { s with fresh := s.fresh + 1 })

/-- A module in the module-failed state of R308 and R461. -/
def moduleFailed (s : State) : Bool := s.ras.failed.isSome

/-- The module enters the module-failed state for the loss of a unit kind: a record, the MODULE_FAILED event, whose reason byte the
spec does not number (log 1), and the amber indicator, once (R308, R461, R482). -/
def failModule (s : State) (unit : Nat) : State :=
  if moduleFailed s then s else
  let r := takeFree s
  let s := { r.2 with ras := { r.2.ras with failed := some (r.1 % 256) }, pins := { r.2.pins with amber := true } }
  let s := record s { code := 0x0805, sev := 2, unit := unit }
  notifyAll s 0x0A1A 2 (toLE 1 r.1)

end Sys2Proof.Machine
end

