-- ==== Sys2Proof/Machine/Regs.lean ====
section
/-! DEFINITION. Reading the registers, and checking and storing what is written to them (15). What a write sets in motion stands
in RegWrite.lean. -/

namespace Sys2Proof.Machine

/-! ### Values computed when read -/

/-- The bytes of a fault record in the ring as a word (Table 18.9). -/
def ringWord (s : State) (a : Nat) : Nat :=
  match look s.ras.ring ((a - rFAULT_RING) / 64) with
  | some b => num b ((a - rFAULT_RING) % 64) 4
  | none => 0

/-- The resources a regulator's words apply to: LK_REG's to every link (Table 12.5). -/
def resources (res : Nat) : List Nat := if res = 3 then (List.range 11).map (3 + ·) else [res]

/-- LEVEL of a regulator partition: the committed bucket in whole bytes, two's complement (Table 12.14); of the links, whose buckets differ,
the lowest (log 58). -/
def levelWord (s : State) (a : Nat) : Nat :=
  let res := if a < 0x40000 then 3 else if a < 0x50000 then 0 else if a < 0x60000 then 1 else 2
  let p := a % 0x100 / 16
  let ls := (resources res).map fun q => (bucketOf s q p).1
  wrapInt 32 (ls.foldl min (bucketOf s res p).1 / 16)

/-- Arrays and attention units in service: logical instances that are mapped (R6, R456). -/
def arraysIn (s : State) : Nat := ((List.range 96).filter fun n => fld s (rARRAY_MAP n) 7 7 == 1).length
def attnIn (s : State) : Nat := ((List.range 16).filter fun n => fld s (rATTN_MAP n) 5 5 == 1).length

/-- Blocks of a space withdrawn (Table 12.12). -/
def withdrawnIn (s : State) (sp : Nat) : Nat :=
  (s.blocks.filter fun b => b.1 / 2 ^ 32 == sp && b.2.withdrawn).length

/-- Free blocks of a space: not reserved, not granted, not withdrawn. One KV page fills one block (R182). -/
def freePages (s : State) (sp : Nat) : Nat :=
  (capOf s sp - (reservedOf s sp).2) / 65536 - (s.blocks.filter fun b => b.1 / 2 ^ 32 == sp && (b.2.granted || b.2.withdrawn)).length

/-- Requests in a state, and entries not FREE. Keys from 32,768 on are the requests of placements that another module leads. -/
def reqsIn (s : State) (st : Nat) : Nat := (s.serve.reqs.filter fun r => r.1 < 32768 && r.2.state == st).length
def entriesUsed (s : State) : Nat := (s.serve.reqs.filter fun r => r.1 < 32768).length

/-- CFG_STAT.HOLD: the hold of R395 runs. -/
def holding (s : State) : Bool := match s.ras.holdUntil with
  | some t => s.time < t
  | none => false

/-- SEC_STAT (Table 17.8): STAGE_RESULT is the stored field. -/
def secStat (s : State) : Nat :=
  fld s rSEC_STAT 15 12 * 4096 + s.trust.revokedAt % 16 * 256 + b2n s.fuses.debugOpen * 128 + b2n s.trust.recovery * 64
  + b2n s.trust.pending.isSome * 32 + b2n s.trust.trial * 16 + s.trust.runTrusted % 2 * 8 + s.trust.selUntr % 2 * 4
  + b2n (look s.trust.staged 1).isSome * 2 + b2n (look s.trust.staged 0).isSome

/-- A word of the measurements M0, M1, M2 (Table 17.10). -/
def measWord (s : State) (a : Nat) : Nat :=
  let i := (a - rMEAS 0) / 4
  let m := if i < 8 then s.trust.m0 else if i < 16 then s.trust.m1 else s.trust.m2
  num m (4 * (i % 8)) 4

/-- The words of the identity and capabilities block (Table 15.5, Table 0.2). -/
def identityWord (s : State) (a : Nat) : Nat :=
  match a with
  | 0x00 => 0x0B111C7A
  | 0x04 => b2n s.fuses.variantB * 256 + (if s.fuses.stepA1 then 1 else 2)
  | 0x08 => s.fuses.serial.toNat % 2 ^ 32
  | 0x0C => s.fuses.serial.toNat / 2 ^ 32
  | 0x10 => unitMask s
  | 0x14 => fld s rCOMMONS_INFO 7 0 * 2 ^ 24 + attnIn s * 2 ^ 16 + arraysIn s
  | 0x18 => s.trust.running.fmtMax % 65536 * 65536 + s.trust.running.fmtMin % 65536
  | 0x1C => s.trust.running.kctMax % 256 * 256 + s.trust.running.kctMin % 256
  | 0x20 => capOf s 1 % 2 ^ 32
  | 0x24 => capOf s 1 / 2 ^ 32
  | 0x28 => capOf s 2 % 2 ^ 32
  | 0x2C => capOf s 2 / 2 ^ 32
  | 0x30 => s.pins.boardId.toNat
  | 0x38 => s.trust.running.build.toNat % 2 ^ 32
  | 0x3C => s.trust.running.build.toNat / 2 ^ 32
  | _ => 0

/-- A spare-row word NT_SPARE (Table 12.11). -/
def spareWord (s : State) (k : Nat) : Nat :=
  let soft := (s.tier.soft.filter fun x => x.1 == k).length
  let hard := (s.tier.hard.filter fun x => x.1 == k).length
  soft * 65536 + (4096 - soft - hard)

/-- The value of the word at a block-range address (R384, R387, R398). -/
def readWord (s : State) (a : Nat) : Nat :=
  if a < 0x10000 then identityWord s a
  else if s.fuses.variantB && 0x50000 ≤ a && a < 0x60000 then 0
  else if a == rTIME then s.time % 2 ^ 32
  else if a == rTIME + 4 then s.time / 2 ^ 32 % 2 ^ 32
  else if s.fuses.variantB && rLINK_STAT 7 ≤ a && a ≤ rLINK_STAT 10 then 0x06001E00
  else if s.fuses.variantB && rLINK_CTL 7 ≤ a && a ≤ rLINK_CTL 10 then 0
  else if a == rCOLL_INFO then s.coll.open_.length
  else if [0x30200, 0x40200, 0x50200, 0x80200].any (fun b => b ≤ a && a < b + 128 && a % 16 == 12) then levelWord s a
  else if rNT_SPARE 0 ≤ a && a ≤ rNT_SPARE 7 then spareWord s ((a - rNT_SPARE 0) / 4)
  else if a == rNT_WITHDRAWN then withdrawnIn s 1
  else if a == rFT_WITHDRAWN then withdrawnIn s 2
  else if rARRAY_STAT 0 ≤ a && a ≤ rARRAY_STAT 103 then
    setBits 8 8 (rd s a) (match look s.arr.arrays ((a - rARRAY_STAT 0) / 4) with
      | some x => b2n x.run.isSome
      | none => 0)
  else if a == rDISP_STAT then s.disp.insts.length * 65536 + s.disp.window.length
  else if a == rSYNC_INFO then 16384 - s.disp.owners.length
  else if a == rREQ_COUNT then reqsIn s 1 * 65536 + entriesUsed s
  else if rPAGE_FREE 0 ≤ a && a ≤ rPAGE_FREE 2 then freePages s ((a - rPAGE_FREE 0) / 4)
  else if a == rGRAFT_INFO then s.graft.hot.length * 2 ^ 17 + s.graft.reg.length
  else if a == rPFX_COUNT then s.graft.pfx.length
  else if a == rFAULT_PTR then b2n s.ras.wrapped * 2 ^ 31 + s.ras.ring.length * 256 + s.ras.nextIdx
  else if rFAULT_RING ≤ a && a < rFAULT_RING + 0x4000 then ringWord s a
  else if a == rCFG_STAT then setBits 2 2 (rd s a) (b2n (holding s))
  else if a == rSEC_STAT then secStat s
  else if a == rSEC_SVN then s.fuses.trustedSvn * 65536 + s.fuses.untrustedSvn
  else if rMEAS 0 ≤ a && a ≤ rMEAS 23 then measWord s a
  else rd s a

/-! ### Addresses and aliases (R383, R389) -/

def isBlockAddr (a : Nat) : Bool := a < 0x100000
def isAlias (a : Nat) : Bool := 0x40000000 ≤ a && a < 0x42000000
/-- The word and the bit an alias names. -/
def aliasWord (x : Nat) : Nat := (x - 0x40000000) / 128 * 4
def aliasBit (x : Nat) : Nat := (x - 0x40000000) / 4 % 32
/-- The address test of R383. -/
def goodAddr (a : Nat) : Bool := a % 4 == 0 && (isBlockAddr a || isAlias a)
/-- The word an address reaches. -/
def wordOf (a : Nat) : Nat := if isAlias a then aliasWord a else a
/-- A word only context 0 may read (R386). -/
def restricted (a : Nat) : Bool := 0xB0000 ≤ wordOf a && wordOf a < 0xD0000

/-- One read: its value, and the state with the RC fields cleared when the reader clears them (R383, R386, R390). -/
def readReg (s : State) (clear : Bool) (a : Nat) : Nat × State :=
  if isAlias a then (readWord s (aliasWord a) / 2 ^ aliasBit a % 2, s)
  else
    let rc := (regRow a).rc
    (readWord s a, if clear && rc != 0 then wr s a (Nat.land (rd s a) (allBits - rc)) else s)

/-- Reads in payload order. -/
def readRegs (s : State) (clear : Bool) : List Nat → List Nat × State
  | [] => ([], s)
  | a :: as =>
    let r := readReg s clear a
    let rest := readRegs r.2 clear as
    (r.1 :: rest.1, rest.2)

/-! ### Writes -/

/-- The stored value a write starts from: every far-tier word of a KX11-B counts as 0 (R309). -/
def storedFor (s : State) (a : Nat) : Nat := if s.fuses.variantB && 0x50000 ≤ a && a < 0x60000 then 0 else rd s a

/-- CAP of a resource: that of the near tier falls in proportion to the stacks in service (R306). -/
def capNow (s : State) (res : Nat) : Nat :=
  if res = 0 then regCap 0 * stackCount s / 8 else regCap res

/-- The resource and partition of a RATE word. -/
def rateOf (a : Nat) : Option (Nat × Nat) :=
  ((List.range 4).flatMap fun res => (List.range 8).map fun p => (res, p)).find? fun x => rREG x.1 x.2 == a

/-- The resource and partition of a BURST word, and whether a word is one. -/
def burstOf (a : Nat) : Option (Nat × Nat) :=
  ((List.range 4).flatMap fun res => (List.range 8).map fun p => (res, p)).find? fun x => rREG x.1 x.2 + 8 == a
def isBurst (a : Nat) : Bool := (burstOf a).isSome

/-- Before a BURST is written, what its buckets hold: one not yet used is full at the old BURST, and fills only at its rate (R299, R300). -/
def keepLevels (s : State) (a : Nat) : State :=
  match burstOf a with
  | none => s
  | some (res, p) => (resources res).foldl (fun s q =>
      { s with tier := { s.tier with buckets := put s.tier.buckets (q * 8 + p) (bucketOf s q p) } }) s

/-- TARGET = 3 is refused for a bed (R405): an array of it retiring, under test or receiving a copy, or a logical array it
serves without a valid shadow image. -/
def bedMayOff (s : State) (b : Nat) : Bool :=
  (List.range 8).all fun i =>
    let a := 8 * b + i
    let st := fld s (rARRAY_STAT a) 2 0
    let lg := fld s (rARRAY_STAT a) 15 9
    !(st == 2 || st == 4) && !(s.ras.retires.any fun r => r.kind == 0 && r.spare == some a && !r.copied) &&
    (lg ≥ 96 || bit (lg % 32) (rd s (rSHADOW_VALID (lg / 32))))

/-- The range a register's own rule sets, for the fields that a write under the mask `m` touches: the value `v` that would result
(R300, R347, R390, R402, R422 and the register tables). -/
def regRule (s : State) (a m v : Nat) : Bool :=
  let on := fun (hi lo : Nat) (ok : Nat → Bool) => bits hi lo m == 0 || ok (bits hi lo v)
  if a == rHP_CFG then on 15 4 (· != 4095)
  else if a == rHP_CFG2 then on 31 30 (· != 3) && on 21 16 (· ≤ 32) && on 13 0 fun x => 1280 ≤ x && x ≤ 9216
  else if a == rDISP_CTL then on 14 0 (· ≤ 16320) && on 31 16 fun x => 1 ≤ x && x ≤ 16384
  else if a == rSERVE_CTL then on 31 16 (· ≤ 32768)
  else if a == rSERVE_LIMIT then 1 ≤ v && v ≤ 16384
  else if a == rGRAFT_CTL || a == rCOLL_CTL then v != 0
  else if a == rNT_CTL || a == rFT_CTL then on 15 8 (· != 0)
  else if a == rPWR_LIMIT then on 10 0 fun x => 300 ≤ x && x ≤ 1200
  else if rBED_CTL 0 ≤ a && a ≤ rBED_CTL 12 then on 1 0 fun x => x != 3 || bedMayOff s ((a - rBED_CTL 0) / 4)
  else if isBurst a then v != 0
  else match rateOf a with
    | some (res, p) =>
      sumOf ((List.range 8).map fun q => if q = p then v else storedFor s (rREG res q)) ≤ capNow s res
    | none => true

/-- A write keeps the reserved bits 0 and the register's rule; one that reaches no RW bit has no field to check. -/
def checkWrite (s : State) (a m v new : Nat) : Bool :=
  Nat.land (Nat.land v m) (reservedBits a) == 0 && (Nat.land m (regRow a).rw == 0 || regRule s a m new)

/-- The word after a write of the bits of `v` under the mask `m`: RW bits take the value, W1C bits clear on 1, and the rest keep
what they hold. -/
def newWord (a m v old : Nat) : Nat :=
  let r := regRow a
  let rw := Nat.land r.rw m
  let w1c := Nat.land (Nat.land r.w1c m) v
  Nat.lor (Nat.land (Nat.land old (allBits - rw)) (allBits - w1c)) (Nat.land v rw)

/-- Nothing is stored: a far-tier word of a KX11-B (R309), an absent rack link's control (R350). -/
def storesNothing (s : State) (a : Nat) : Bool :=
  s.fuses.variantB && ((0x50000 ≤ a && a < 0x60000) || (rLINK_CTL 7 ≤ a && a ≤ rLINK_CTL 10))

/-- The write of a covered word starts or restarts the hold (R395). -/
def startHold (s : State) : State :=
  let s := setFld s rCFG_STAT 1 1 1
  let ms := rd s rCFG_CTL
  { s with ras := { s.ras with holdUntil := if ms = 0 then none else some (s.time + ms * 25000) } }

/-- FT_CTL's AUTO_PPR reads 0 (Table 12.9). -/
def keptWord (a v : Nat) : Nat := if a == rFT_CTL then setBits 1 1 v 0 else v

/-- A pair checked and stored: the state, and the bits that trigger an action; `none` when the pair fails (R385). -/
def storeReg (s : State) (addr v : Nat) : Option (State × Nat × Nat) :=
  if !goodAddr addr then none
  else
    let a := wordOf addr
    let m := if isAlias addr then 2 ^ aliasBit addr else allBits
    let x := if isAlias addr then v % 2 * 2 ^ aliasBit addr else v
    let new := newWord a m x (storedFor s a)
    if !checkWrite s a m x new then none
    else
      let acts := if storesNothing s a then 0 else Nat.land (Nat.land x m) (regRow a).wo
      let s1 := if storesNothing s a then s else wr (keepLevels s a) a (keptWord a new)
      some (if isCovered a then startHold s1 else s1, a, acts)

/-! ### The configuration check (R392–R396) -/

/-- The covered set as R393 takes it: 8 bytes for each word. -/
def coveredBytes (s : State) : Bytes :=
  coveredSet.flatMap fun a => toLE 4 a ++ toLE 4 (Nat.land (readWord s a) (allBits - (regRow a).wo))

/-- The check value of the covered set now (R393). -/
def checkValue (s : State) : Nat := crc32c (coveredBytes s)

/-- A commit under MODE 0: a fresh scan becomes the reference (R394). -/
def commitCfg (s : State) : State :=
  let v := checkValue s
  let s := wr (wr s rCFG_CUR v) rCFG_REF v
  let s := setFld (setFld s rCFG_STAT 0 0 0) rCFG_STAT 1 1 0
  { s with ras := { s.ras with cfgReported := none, refSet := true } }

/-- A change that the device itself made to covered words is committed when nothing is uncommitted (R396). -/
def deviceCommit (s : State) : State := if fld s rCFG_STAT 1 1 = 0 then commitCfg s else s

end Sys2Proof.Machine
end

