-- ==== Sys2Proof/Machine/Kct.lean ====
section
/-! DEFINITION. Receiving a KCT packet: the checks of Table 13.3, sequence numbers, the reply cache, access, payload lengths,
and the start of segmented transfers (13). -/

namespace Sys2Proof.Machine

/-! ### Opcodes (Table 13.9) -/

def opOPEN : Nat := 0x0001
def opCLOSE : Nat := 0x0002
def opCAPS : Nat := 0x0003
def opWRITE : Nat := 0x0101
def opREAD : Nat := 0x0102
def opALLOC : Nat := 0x0103
def opINSTALL : Nat := 0x0201
def opWEIGHTS : Nat := 0x0202
def opGRAFT : Nat := 0x0203
def opREMOVE : Nat := 0x0204
def opADMIT : Nat := 0x0301
def opAPPEND : Nat := 0x0302
def opPRUNE : Nat := 0x0303
def opACCEPT : Nat := 0x0304
def opQUERY : Nat := 0x0305
def opSUBMIT : Nat := 0x0401
def opWAIT : Nat := 0x0402
def opSIGNAL : Nat := 0x0403
def opSALLOC : Nat := 0x0404
def opRREAD : Nat := 0x0501
def opRWRITE : Nat := 0x0502
def opCFG : Nat := 0x0503
def opMAP : Nat := 0x0601
def opCOPEN : Nat := 0x0602
def opCCLOSE : Nat := 0x0603
def opPOWER : Nat := 0x0701
def opTIME : Nat := 0x0702
def opMARCH : Nat := 0x0801
def opHBM : Nat := 0x0803
def opSTAGE : Nat := 0x0901
def opACTIVATE : Nat := 0x0902
def opATTEST : Nat := 0x0903
def opSUB : Nat := 0x0A01
def opUNSUB : Nat := 0x0A02

/-- The opcodes every context may use. -/
def anyOps : List Nat :=
  [opCLOSE, opCAPS, opWRITE, opREAD, opALLOC, opGRAFT, opADMIT, opAPPEND, opPRUNE, opACCEPT, opQUERY, opSUBMIT, opWAIT, opSIGNAL,
   opSALLOC, opRREAD, opCOPEN, opCCLOSE, opTIME, opATTEST, opSUB, opUNSUB]
/-- The opcodes of context 0 alone. -/
def zeroOps : List Nat :=
  [opOPEN, opINSTALL, opWEIGHTS, opREMOVE, opRWRITE, opCFG, opMAP, opPOWER, opMARCH, opHBM, opSTAGE, opACTIVATE]
/-- The opcodes whose command payload may be segmented. -/
def bulkOps : List Nat := [opWRITE, opINSTALL, opWEIGHTS, opADMIT, opAPPEND, opSTAGE]

/-- The opcodes of recovery mode (R431); OP and TARGET are judged by the commands. -/
def recoveryOps : List Nat := [opCAPS, opRREAD, opTIME, opATTEST, opSTAGE, opACTIVATE]

/-- An opcode is defined and permitted to a context (R331, R337, R431). -/
def permitted (s : State) (c op : Nat) : Bool :=
  if s.trust.recovery then recoveryOps.contains op
  else anyOps.contains op || (c == 0 && zeroOps.contains op)

/-- The length of an HBM_REPAIR payload (Table 13.13). -/
def hbmLength (p : Bytes) : Nat :=
  match num p 0 1 with
  | 1 => 12
  | 2 => 12
  | 4 => 12 + ceilDiv (num p 8 2) 8
  | _ => 4

/-- Payload length agrees with the opcode's layout (check 9). -/
def lengthOk (op : Nat) (p : Bytes) : Bool :=
  let n := p.length
  if op == opOPEN then n == 32
  else if op == opCAPS || op == opTIME || op == opUNSUB then n == 0
  else if op == opCLOSE || op == opREMOVE || op == opPRUNE || op == opCCLOSE then n == 4
  else if op == opACCEPT || op == opSIGNAL || op == opSALLOC || op == opCFG then n == 8
  else if op == opREAD || op == opALLOC || op == opGRAFT || op == opWAIT || op == opPOWER || op == opMARCH || op == opACTIVATE then
    n == 16
  else if op == opWRITE then 16 ≤ n
  else if op == opINSTALL || op == opADMIT then 64 ≤ n
  else if op == opWEIGHTS then 8 ≤ n
  else if op == opAPPEND then 12 ≤ n && n == 12 + 4 * num p 8 4
  else if op == opQUERY then n == 12
  else if op == opSUBMIT then 16 ≤ n && n == 16 + 4 * num p 4 4
  else if op == opRREAD then 4 ≤ n && n == 4 + 4 * num p 0 4
  else if op == opRWRITE then 4 ≤ n && n == 4 + 8 * num p 0 4
  else if op == opMAP then n == 280
  else if op == opCOPEN then 16 ≤ n && n == 16 + ceilDiv (num p 6 1) 4 * 4
  else if op == opHBM then 4 ≤ n && n == hbmLength p
  else if op == opSTAGE then 8 ≤ n && n == 8 + num p 4 4
  else if op == opATTEST then n == 32
  else if op == opSUB then n == 28
  else false

/-! ### Sequence numbers (R322) -/

inductive SeqVerdict where
  | ahead
  | behind
  | duplicate
  | stale
  deriving DecidableEq, Repr

/-- Where a sequence stands against a context's record. -/
def seqVerdict (c : Ctx) (q : W32) : SeqVerdict :=
  let d := (q - c.h).toNat
  if 1 ≤ d ∧ d ≤ 2 ^ 31 - 1 then .ahead
  else if 1024 ≤ (c.h - q).toNat then .stale
  else if c.seen.contains q then .duplicate else .behind

/-- The record with a sequence accepted: sequences more than 1,023 behind H leave it. -/
def acceptSeq (c : Ctx) (q : W32) : Ctx :=
  let h := if seqVerdict c q = .ahead then q else c.h
  { c with h := h, seen := q :: c.seen.filter fun x => (h - x).toNat ≤ 1023 }

/-! ### The receive checks (R315) -/

inductive Verdict where
  | notReceived                       -- the port is down, or the device is Off
  | dropFrame                         -- checks 1, 2
  | dropQuiet                         -- a TCP segment; an ACK or a later segment, which are no commands
  | dropToken                         -- check 5
  | badVersion                        -- check 3
  | answer (status : Nat)             -- checks 4, 6
  | stale
  | cached (o : OutPkt)
  | duplicate
  | full                              -- R324
  | refuse (status : Nat)             -- checks 8, 9: after acceptance
  | forward                           -- another module's (R344)
  | accept
  deriving DecidableEq, Repr

/-- Header fields that must be 0 in a command (checks 6, Table 13.2). -/
def headerClean (h : Hdr) : Bool :=
  h.rsv == 0 && !h.reply && !h.event && !h.stream && h.status == 0 && h.detail == 0 && h.credit == 0
  && (h.seg || (h.segment == 0 && h.segLast == 0)) && (h.proxy || h.proxySlot == 0)

/-- The checks from the context on (4 to 9), for a command that is not a later segment. -/
def ctxVerdict (s : State) (op : Nat) (p : Pkt) : Verdict :=
  match ctxOf s p.hdr.ctx with
  | none => .answer stNoCtx
  | some c =>
    if !c.closing.isEmpty || (s.trust.recovery && p.hdr.ctx != 0) then .answer stNoCtx
    else if p.hdr.token != tokenOf s p.hdr.ctx then .dropToken
    else if !headerClean p.hdr then .answer stParam
    else if p.hdr.ack || (p.hdr.seg && p.hdr.segment != 0) then .dropQuiet
    else match seqVerdict c p.hdr.seq with
      | .stale => .stale
      | .duplicate =>
        match c.cache.find? fun o => o.hdr.seq == p.hdr.seq with
        | some o => .cached o
        | none => .duplicate
      | _ =>
        if 256 ≤ c.started.length then .full
        else if !permitted s p.hdr.ctx op then .refuse stOpcode
        else if p.hdr.seg then (if bulkOps.contains op then .accept else .refuse stLength)
        else if !lengthOk op p.payload then .refuse stLength
        else .accept

/-- The checks in the order of Table 13.3 for a command with opcode `op`. -/
def verdict (s : State) (op : Nat) (r : Req) : Verdict :=
  let p := r.pkt
  if r.via.isSome then ctxVerdict s op p
  else if s.power.dev == .off || !portUp s || fld s rHP_STAT 3 3 == 0 then .notReceived
  else if p.vlan != hpFld s rHP_CFG 15 4 then .notReceived   -- another VLAN's frame (R312, log 23)
  else match p.frame with
    | .tcp => .dropQuiet
    | .badFrame => .dropFrame
    | .fragment => .dropFrame
    | .good =>
      if p.dport != hpFld s rHP_CFG 31 16 then .dropFrame
      else if p.payload.length != p.hdr.plen || 8192 < p.hdr.plen then .dropFrame
      else if p.hdr.version < s.trust.running.kctMin || s.trust.running.kctMax < p.hdr.version then .badVersion
      else if p.hdr.proxy && p.hdr.proxySlot != mySlot s then .forward
      else ctxVerdict s op p

/-! ### Rates (R330) -/

/-- The transmit rate to a destination, `changed` when it was last raised or an ECE came; full line rate until it has been lowered. -/
def rateTo (s : State) (d : Endpoint) : Rate :=
  (s.kct.rates.find? fun x => x.dst == d).getD { dst := d, num := 100, exp := 0, halved := 0, changed := 0 }

def setRate (s : State) (x : Rate) : State :=
  { s with kct := { s.kct with rates := x :: s.kct.rates.filter fun y => y.dst != x.dst } }

/-- A command or ACK with ECE halves the rate to its source, at most once per 50 µs, not below 1 % of line rate. -/
def halveRate (s : State) (d : Endpoint) : State :=
  let x := rateTo s d
  if (s.kct.rates.any fun y => y.dst == d) && s.time < x.halved + 1250 then setRate s { x with changed := s.time }
  else if x.num < 2 ^ (x.exp + 1) then setRate s { x with num := 1, exp := 0, halved := s.time, changed := s.time }
  else setRate s { x with exp := x.exp + 1, halved := s.time, changed := s.time }

/-! ### Leaving Quiet (R410) -/

/-- The device returns from Quiet to Active: the engines and buffers come up cleared, the beds stay where they are. -/
def wakeDevice (s : State) : State :=
  if s.power.dev = .quiet then { s with power := { s.power with dev := .active, idleSince := s.time, windowAt := none } } else s

/-! ### Acceptance -/

/-- The FEC code words of a frame counted (Table 13.18). -/
def fecCount (s : State) (p : Pkt) : State :=
  if p.fecCorr = 0 ∧ p.fecBad = 0 then s else bump64 (bump64 s (rHP_PERF + 32) p.fecCorr) (rHP_PERF + 40) p.fecBad

/-- What every datagram that passes checks 1 and 2 leaves: bytes counted, a CE mark remembered, ECE honoured, Quiet left. -/
def arrived (s : State) (r : Req) : State :=
  if r.via.isSome then s
  else
    let s := fecCount (wakeDevice s) r.pkt
    let s := bump64 s rHP_PERF (32 + r.pkt.payload.length)
    let s := if r.pkt.ce && !s.kct.ece.contains r.pkt.src then { s with kct := { s.kct with ece := r.pkt.src :: s.kct.ece } } else s
    if r.pkt.hdr.ece then halveRate s r.pkt.src else s

/-- A command accepted: its sequence recorded and the command counted as started (R322, R324). -/
def accepted (s : State) (r : Req) : State :=
  modCtx (arrived s r) r.pkt.hdr.ctx fun c => { acceptSeq c r.pkt.hdr.seq with started := r.pkt.hdr.seq :: c.started }

/-- A cached reply sent again, to the source and by the path of the duplicate it answers (R316, R323, R344). -/
def resend (s : State) (r : Req) (o : OutPkt) : State :=
  let e := takeEce s r.pkt.src
  let h := r.pkt.hdr
  emit e.2 { o with via := r.via, dst := r.pkt.src,
                    hdr := { o.hdr with ece := e.1, proxy := h.proxy, proxySlot := if h.proxy then h.proxySlot else 0 } }

/-- The forwarder's part of the proxy path (R344): checks 1 to 3 have passed. -/
def forwardPkt (s : State) (r : Req) : State :=
  if r.pkt.hdr.ctx != 0 then bareReply s r stParam 0
  else
    let n := linkToSlot s r.pkt.hdr.proxySlot
    if !linkOk s n then bareReply s r stLink 0
    else
      let s := sendKctOn s n r.pkt.hdr r.pkt.payload
      let same := fun (x : Proxy) => x.slot == r.pkt.hdr.proxySlot && x.req.pkt.hdr.seq == r.pkt.hdr.seq && x.req.pkt.src == r.pkt.src
      if r.pkt.hdr.ack || s.kct.proxies.any same then s
      else { s with kct := { s.kct with
               proxies := s.kct.proxies ++ [{ req := r, slot := r.pkt.hdr.proxySlot, link := n, at_ := s.time, answered := false }] } }

/-- What a verdict other than acceptance does. -/
def rejected (s : State) (r : Req) : Verdict → State
  | .notReceived => s
  | .dropQuiet => s
  | .dropFrame => bump (fecCount s r.pkt) rKCT_STAT 31 24 1
  | .dropToken => bump (arrived s r) rKCT_STAT 23 16 1
  | .badVersion =>
    let s := arrived s r
    let e := takeEce s r.pkt.src
    emit e.2 { via := r.via, dst := r.pkt.src, payload := [],
               hdr := { answerHdr r.pkt stOpcode 0 (creditOf s r.pkt.hdr.ctx) 0 with version := s.trust.running.kctMax, ece := e.1 } }
  | .answer st => bareReply (arrived s r) r st 0
  | .stale => bareReply (bump (arrived s r) rKCT_STAT 7 0 1) r stStale 0
  | .cached o => resend (arrived s r) r o
  | .duplicate => bump (arrived s r) rKCT_STAT 15 8 1
  | .full =>
    let s := modCtx (arrived s r) r.pkt.hdr.ctx fun c => acceptSeq c r.pkt.hdr.seq
    replyTo s r stCapacity 3 []
  | .refuse st => replyTo (accepted s r) r st 0 []
  | .forward => forwardPkt (arrived s r) r
  | .accept => s

/-! ### Inbound transfers (R325–R329) -/

/-- The ACK payload (Table 13.5). -/
def ackPayload (got : List Nat) (last : Nat) : Bytes :=
  let base := (leastBelow (fun i => !got.contains i) (last + 2)).getD (last + 1)
  toLE 2 base ++ zeros 6 ++ toLE 256 (ofBits ((got.filter fun i => base < i).map fun i => i - base - 1))

/-- An ACK of a transfer sent to its source (R326). -/
def sendAck (s : State) (x : InXfer) : State :=
  let e := takeEce s x.req.pkt.src
  let pl := ackPayload x.got x.last
  let h := answerHdr x.req.pkt 0 0 0 pl.length
  emit e.2 { via := x.req.via, dst := x.req.pkt.src, payload := pl, hdr := { h with reply := false, ack := true, ece := e.1 } }

def sameXfer (c : Nat) (q : W32) (x : InXfer) : Bool := x.req.pkt.hdr.ctx == c && x.req.pkt.hdr.seq == q
def findIn (s : State) (c : Nat) (q : W32) : Option InXfer := s.kct.inX.find? (sameXfer c q)
def dropIn (s : State) (c : Nat) (q : W32) : State :=
  { s with kct := { s.kct with inX := s.kct.inX.filter fun x => !sameXfer c q x } }
def putIn (s : State) (x : InXfer) : State :=
  { s with kct := { s.kct with
      inX := s.kct.inX.map fun y => if sameXfer x.req.pkt.hdr.ctx x.req.pkt.hdr.seq y then x else y } }

/-- The payload gathered in a transfer's staging blocks (R329). -/
def stagedPayload (s : State) (x : InXfer) : Bytes :=
  match x.staging with
  | some (b, _) => ld s 1 (b * 65536) (x.last * x.size + x.lastLen)
  | none => x.req.pkt.payload

/-- A transfer ended: its staging blocks return to the pool. -/
def endIn (s : State) (x : InXfer) : State :=
  let s := dropIn s x.req.pkt.hdr.ctx x.req.pkt.hdr.seq
  match x.staging with
  | some (b, n) => freeRunOf s 1 b n
  | none => s

/-- The opcodes whose segments go to their destination as they arrive (R329). -/
def directOps : List Nat := [opWRITE, opSTAGE]

/-- Segment 0 of a transfer of several segments, accepted (R325, R329). `first` says what segment 0 does at once: a status to
answer with, or the state after it. -/
def beginIn (s : State) (r : Req) (op : Nat) (first : State → Except Nat State) : State :=
  let h := r.pkt.hdr
  let size := r.pkt.payload.length
  let mine := (s.kct.inX.filter fun x => x.req.pkt.hdr.ctx == h.ctx).length
  if size = 0 ∨ size % 64 ≠ 0 ∨ pathMax s r.pkt.src < size then fail s r stLength
  else if 4 ≤ mine ∨ 64 ≤ s.kct.inX.length then fail s r stCapacity 3
  else
    let need := ceilDiv ((h.segLast + 1) * size) 65536
    let x : InXfer := { req := { r with pkt := { r.pkt with payload := if directOps.contains op then r.pkt.payload else [] } },
                        size := size, last := h.segLast, got := [0], lastLen := 0,
                        staging := none, sinceAck := 1, arrived := s.time, acked := false }
    if directOps.contains op then
      match first s with
      | .error st => fail s r st
      | .ok s => { s with kct := { s.kct with inX := s.kct.inX ++ [x] } }
    else
      match takeRun s 1 need with
      | none => fail s r stCapacity 3
      | some (b, s) =>
        let s := st s 1 (b * 65536) r.pkt.payload
        { s with kct := { s.kct with inX := s.kct.inX ++ [{ x with staging := some (b, need) }] } }

/-! ### The port's buffers (R312, R313, R435) -/

/-- A packet waits in the receive buffer of 16 MiB; at three quarters full the port sends pause, and a frame with no room is dropped. -/
def bufferPkt (s : State) (r : Req) : State :=
  let n := 32 + r.pkt.payload.length
  if 16777216 < s.kct.rxFill + n then bump64 s (rHP_PERF + 16) 1
  else
    let s := { s with kct := { s.kct with buffer := s.kct.buffer ++ [r], rxFill := s.kct.rxFill + n } }
    if hpFld s rHP_CFG 3 3 = 1 && !s.kct.pausing && 12582912 ≤ s.kct.rxFill then
      put1 { s with kct := { s.kct with pausing := true } } (.pfc (hpFld s rHP_CFG 2 0) true)
    else s

/-- The receive buffer emptied: the pause it caused is released. -/
def bufferTaken (s : State) : State :=
  let was := s.kct.pausing
  let s := { s with kct := { s.kct with buffer := [], rxFill := 0, pausing := false } }
  if was then put1 s (.pfc (hpFld s rHP_CFG 2 0) false) else s

/-- The context a waiting packet belongs to, and whether it is an event or an acknowledgement. -/
def outCtx : Out → Nat
  | .kct p => p.hdr.ctx
  | .fromLink _ h _ => h.ctx
  | _ => 4096
def outFirst : Out → Bool
  | .kct p => p.hdr.event || p.hdr.ack
  | .fromLink _ h _ => h.event || h.ack
  | _ => false

/-- The packet that goes next: events and acknowledgements first, then one of each context in turn (R313). -/
def nextOut (rr : Nat) (l : List Out) : Option Out :=
  match l.find? outFirst with
  | some o => some o
  | none => (sortBy (fun o => (outCtx o + 8192 - (rr + 1)) % 8192) l).head?

/-- Everything that waits is sent. -/
def drainWaiting (s : State) : Nat → State
  | 0 => s
  | n + 1 =>
    match nextOut s.kct.rrCtx s.kct.waiting with
    | none => s
    | some o =>
      let s := { s with kct := { s.kct with waiting := s.kct.waiting.erase o, rrCtx := if outFirst o then s.kct.rrCtx else outCtx o } }
      drainWaiting (hostSend s o) n

/-- The port may send again: the events queued go, then what waits (R313). -/
def portResumes (s : State) : State :=
  if paused s then s
  else
    let s := s.kct.ctxs.foldl (fun s c => flushSub s c.1 258) s
    drainWaiting s s.kct.waiting.length

/-- A command of opcode `op`: the checks, then its run; segment 0 of a longer transfer begins one instead. During a hand-over it waits
in the receive buffer (R435). -/
def receiveWith (s : State) (op : Nat) (r : Req) (run : State → Req → State) (first : State → Except Nat State) : State :=
  if s.trust.handover.isSome then bufferPkt s r
  else match verdict s op r with
  | .accept =>
    let s := accepted s r
    if r.pkt.hdr.seg && r.pkt.hdr.segLast != 0 then
      beginIn s r op first
    else if r.pkt.hdr.seg && !lengthOk op r.pkt.payload then fail s r stLength
    else run s r
  | v => rejected s r v

/-- A command as the table's row gives it: its opcode is the row's. -/
def rowReq (op : Nat) (p : Pkt) : Req := { pkt := { p with hdr := { p.hdr with opcode := op } }, via := none }

/-- A command whose payload is never written as it arrives. -/
def receive (s : State) (op : Nat) (p : Pkt) (run : State → Req → State) : State :=
  receiveWith s op (rowReq op p) run fun s => .ok s

end Sys2Proof.Machine
end

