-- ==== Sys2Proof/Machine/TierOps.lean ====
section
/-! DEFINITION. The tiers: the published interleave, what corrected and uncorrectable errors do, withdrawal and soft repair (12). -/

namespace Sys2Proof.Machine

/-! ### Interleave (R288–R290) -/

/-- Where a byte of a tier lies: device, channel, bank, row, grain in the row and byte in the grain. -/
structure Place where
  dev   : Nat
  chan  : Nat
  bank  : Nat
  row   : Nat
  grain : Nat
  byte  : Nat
  deriving DecidableEq, Repr

/-- Channel number and local address with all eight stacks in service (R288). -/
def nearMap8 (a : Nat) : Nat × Nat :=
  let c := Nat.xor (Nat.xor (bits 15 8 a) (bits 23 16 a)) (Nat.xor (bits 31 24 a) (bits 38 32 a))
  (c, a / 65536 * 256 + a % 256)

/-- The byte fold of a quotient: at most eight bytes. -/
def foldBytes : Nat → Nat → Nat
  | 0, _ => 0
  | n + 1, x => Nat.xor (x % 256) (foldBytes n (x / 256))

/-- The modulo form over `n` channels (R289). -/
def modMap (a n : Nat) : Nat × Nat :=
  let g := a / 256
  let q := g / n
  ((g % n + foldBytes 8 q % n) % n, q * 256 + a % 256)

/-- The numbers of the stacks or packages in service, ascending. -/
def stackList (s : State) : List Nat := bitList 8 (fld s rNT_INFO 7 0)
def pkgList (s : State) : List Nat := bitList 24 (fld s rFT_INFO 23 0)

/-- The place of a near-tier or far-tier address (R288–R290). -/
def placeOf (s : State) (sp a : Nat) : Place :=
  if sp = 1 then
    let l := stackList s
    let cl := if l.length = 8 then nearMap8 a else modMap a (max 1 (32 * l.length))
    let k := max 1 l.length
    { dev := if l.length = 8 then cl.1 % 8 else l.getD (cl.1 % k) 0
      chan := if l.length = 8 then cl.1 / 8 else cl.1 / k
      bank := Nat.xor (bits 16 11 cl.2) (bits 22 17 cl.2), row := bits 30 17 cl.2
      grain := bits 10 8 cl.2, byte := bits 7 0 cl.2 }
  else
    let l := pkgList s
    let k := max 1 l.length
    let cl := modMap a (4 * k)
    { dev := l.getD (cl.1 % k) 0, chan := cl.1 / k, bank := Nat.xor (bits 14 11 cl.2) (bits 18 15 cl.2), row := bits 33 15 cl.2
      grain := bits 10 8 cl.2, byte := bits 7 0 cl.2 }

/-- The bank and row of a commons address (R117). -/
def commonsBank (a : Nat) : Nat := Nat.xor (bits 13 7 a) (bits 20 14 a)
def commonsRow (a : Nat) : Nat := bits 27 14 a

/-- The error counter word of a tier's device. -/
def errReg (sp dev : Nat) : Nat := if sp = 1 then rNT_ERR dev else rFT_ERR dev

/-! ### Repair of rows (R295, R302) -/

/-- Spare rows left in a bank: two per bank. -/
def spareRows (s : State) (dev chan bank : Nat) : Nat :=
  2 - ((s.tier.soft ++ s.tier.hard).filter fun x => x.1 == dev && x.2.1 == chan && x.2.2.1 == bank).length

/-- A soft repair of a near-tier row, recorded in the repair map; its content is preserved (R302, R303). -/
def softRepair (s : State) (p : Place) (addr : Nat) : State :=
  let s := { s with tier := { s.tier with soft := (p.dev, p.chan, p.bank, p.row) :: s.tier.soft } }
  record s { code := 0x0503, sev := 0, unit := 14, inst := p.dev, flags := 2, addr := addr, space := 1, chan := p.chan,
             bank := p.bank, row := p.row }

/-- A block of the tier is withdrawn from granting, with its record, once. -/
def withdrawBlock (s : State) (sp b : Nat) (p : Place) (addr : Nat) : State :=
  if (blockAt s sp b).withdrawn then s
  else
    let s := record s { code := 0x0502, sev := 1, unit := 13 + sp, inst := p.dev, addr := addr, space := sp, chan := p.chan,
                        bank := p.bank, row := p.row }
    putBlock s sp b { blockAt s sp b with withdrawn := true }

/-- The block that holds an uncorrectable error withdrawn; in the near tier, with AUTO_PPR and a spare row left, its row is
soft-repaired, and once every failing row of the block is, the block returns zeroed to its pool: at once when no one uses it, and never
while it lies in a reserved region (R291, R295). -/
def withdraw (s : State) (sp addr : Nat) : State :=
  let b := addr / 65536
  let p := placeOf s sp addr
  let old := blockAt s sp b
  let s := withdrawBlock s sp b p addr
  if sp = 1 && fld s rNT_CTL 1 1 == 1 && spareRows s p.dev p.chan p.bank != 0 then
    let s := softRepair s p addr
    let s := putBlock s sp b { blockAt s sp b with repaired := old.repaired || !old.withdrawn }
    if (blockAt s sp b).granted || !(blockAt s sp b).repaired || inReserved s sp (b * 65536) 65536 then s else freeBlock s sp b
  else putBlock s sp b { blockAt s sp b with repaired := false }

/-! ### The symbol code on the pins (R292, Table 12.4)

A read's verdict, which a command of the table carries as its operand, is what the code makes of the symbols that are wrong. -/

/-- The symbol of a code word that a bit lies in: near tier by pin over two beats, far tier by pin and beat of the word. -/
def symbolOf (sp pin beat : Nat) : Nat := if sp = 1 then pin / 2 else 3 * pin + beat / 4

/-- What the code makes of the symbols of one word that hold errors: none, one corrected, two detected; more is beyond its guarantee. -/
def codeVerdict (sp addr : Nat) (syms : List Nat) : Option Ecc :=
  match (dedup syms).length with
  | 0 => some .clean
  | 1 => some (.corrected sp addr)
  | 2 => some (.uncorrectable sp addr)
  | _ => none

/-! ### Errors met by reads -/

/-- A corrected error in a tier: counted, and its line due to be written back; a near-tier row that meets 16 in one scrub
period is soft-repaired with AUTO_PPR, its data kept (R293, R296). -/
def tierCe (s : State) (sp addr : Nat) : State :=
  let p := placeOf s sp addr
  let s := corrected (bump s (errReg sp p.dev) 31 16 1) (13 + sp) 1
  let s := if s.tier.writebacks.contains (sp, addr / 64) then s
           else { s with tier := { s.tier with writebacks := (sp, addr / 64) :: s.tier.writebacks } }
  if sp = 1 then
    let key := ((p.dev * 32 + p.chan) * 64 + p.bank) * 16384 + p.row
    let n := (look s.tier.rowCe key).getD 0 + 1
    let s := { s with tier := { s.tier with rowCe := put s.tier.rowCe key n } }
    if n = 16 && fld s rNT_CTL 1 1 == 1 && spareRows s p.dev p.chan p.bank != 0 then softRepair s p addr else s
  else s

/-- What a fault record says of the work that met an error. -/
structure Blame where
  ctx    : Nat := 0xFFFF
  object : Nat := 0xFFFFFFFF
  task   : Nat := 0xFFFFFFFF
  flags  : Nat := 0
  deriving DecidableEq, Repr

/-- An uncorrectable far-tier error remembered for R305 with its pin, which a command does not report and is therefore free (log 1). -/
def notePin (s : State) (p : Place) (addr : Nat) : State :=
  let f := takeFree s
  { f.2 with tier := { f.2.tier with farUe := (p.dev, p.chan * 24 + f.1 % 24, addr / 65536) :: f.2.tier.farUe } }

/-- An uncorrectable error met by a read of the commons or a tier: one record, of the code and unit given or else COMMONS_UE or
TIER_UE, the count of the tier's device, and the withdrawal of a tier's block (R294, R295, R443, R490). -/
def readUeAs (s : State) (sp addr : Nat) (b : Blame) (as : Option (Nat × Nat)) : State :=
  if sp = 0 then
    let cu := as.getD (0x0301, 2)
    record s { code := cu.1, sev := 2, unit := cu.2, inst := if as.isSome then 0xFFFF else commonsBank addr, status := stFault,
               flags := b.flags, ctx := b.ctx, object := b.object, addr := addr, space := 0, bank := commonsBank addr,
               row := commonsRow addr, task := b.task }
  else
    let p := placeOf s sp addr
    let cu := as.getD (0x0501, 13 + sp)
    let s := bump (if sp = 2 then notePin s p addr else s) (errReg sp p.dev) 15 0 1
    let s := record s { code := cu.1, sev := 2, unit := cu.2, inst := p.dev, status := stFault, flags := b.flags,
                        ctx := b.ctx, object := b.object, addr := addr, space := sp, chan := p.chan, bank := p.bank,
                        row := p.row, task := b.task }
    withdraw s sp addr

/-- The same, recorded as COMMONS_UE or TIER_UE. -/
def readUe (s : State) (sp addr : Nat) (b : Blame) : State := readUeAs s sp addr b none

/-- A corrected error met by a read: counted in its unit, and in a tier due to be written back (R293, R442). -/
def readCe (s : State) (sp addr : Nat) : State :=
  if sp = 1 || sp = 2 then tierCe s sp addr else corrected s 2 1

/-- The first address of a range whose word is marked uncorrectable. -/
def firstBad (s : State) (sp a n : Nat) : Option Nat :=
  if badIn s sp a n then
    ((sortBy id (s.mem.bad.filterMap fun x => if x.1 == sp && a / 16 ≤ x.2 && x.2 ≤ (a + n - 1) / 16 then some x.2 else none)).head?).map
      fun l => max a (l * 16)
  else none

/-- A copy that firmware makes: an uncorrectable word it reads is counted and recorded, its block withdrawn, and the copy of it does not
decode (R294, R295). -/
def firmCopy (s : State) (sp a n dsp d : Nat) : State :=
  match firstBad s sp a n with
  | some x => copyRange (readUe s sp x {}) sp a n dsp d
  | none => copyRange s sp a n dsp d

/-- A command's read met an uncorrectable word: the record names the command's context, and the command completes with
FAULT_UNCORRECTABLE and no effect (R490). -/
def cmdUe (s : State) (r : Req) (sp addr : Nat) : State :=
  fail (readUe s sp addr { ctx := r.pkt.hdr.ctx }) r stFault

end Sys2Proof.Machine
end

