-- ==== Sys2Proof/Machine/Operands.lean ====
section
/-! DEFINITION. What the engines share: reading a task descriptor's operands, the regions a check tests, and a job: the reads and
writes of one task, which stop at the first word that does not decode (R149–R151, R178, R294). -/

namespace Sys2Proof.Machine

/-! ### Descriptors (R206) -/

def dEngine (d : Bytes) : Nat := num d 0 1
/-- A commons region lies within the commons, its start aligned (R117, R149). A region of no bytes has no extent to test. -/
def inCommons (a n align : Nat) : Bool := a % align == 0 && (n == 0 || a + n ≤ 2 ^ 28)
/-- The bytes that `n` rows of `b` bytes at a stride reach over. -/
def extent (n stride b : Nat) : Nat := if n = 0 ∨ b = 0 then 0 else (n - 1) * stride + b
/-- The largest capacity of each space a mover may name (R175). -/
def spaceMax (sp : Nat) : Nat := match sp with
  | 0 => 2 ^ 28
  | 1 => 512 * 2 ^ 30
  | _ => 1536 * 2 ^ 30

/-! ### Flags and status of an engine's run -/

/-- The partition whose regulators an instance's work draws on: STEP_PART for a step (R298). -/
def instPart (s : State) (i : Inst) : Nat := if i.step.isSome then fld s rREG_CTL 2 0 else i.part

/-- IN_STEP or IN_GRAPH of a fault record (Table 18.1). -/
def instFlags (i : Inst) : Nat := if i.step.isSome then 8 else 16

def instOf (s : State) (n : Nat) : Option Inst := s.disp.insts.find? fun i => i.num == n

/-- What a record says of a task. -/
def blameOf (i : Inst) (sl : Slot) : Blame :=
  { ctx := i.ctx, object := i.num, task := sl.index, flags := instFlags i }

/-! ### Jobs -/

/-- A rule a task failed at run time: the fault record's code, unit and data, the place it names, and the task's status. -/
structure JobFail where
  code   : Nat := 0x0401
  unit   : Nat
  data   : Nat
  space  : Nat := 0xFF
  addr   : Nat := 0
  status : Nat := stParam
  deriving DecidableEq, Repr

/-- A task's work as it goes: the memories, the verdict of the symbol code over its reads, the first word that did not decode,
the corrected words, the bytes read and written per space, the counts, and what it leaves besides. -/
structure Job where
  mem     : Mems
  verdict : Ecc
  ue      : Option (Nat × Nat)
  ce      : List (Nat × Nat)
  traffic : List (Nat × Nat)
  sat     : Nat
  nan     : Nat
  rescue  : Nat
  counts  : List (Nat × Nat × Nat × Nat)
  failed  : Option JobFail
  outs    : List Bytes
  ghosts  : List (Nat × Nat) := []
  deriving DecidableEq, Repr

/-! ### Collided reads that nothing retries (R121) -/

/-- What a side's engine gets of a commons line: the undefined data of a collided read, from a first free number on, where one is
held for the line (log 1); else the line. -/
def ghostByte (g : List (Nat × Nat)) (x : Nat) (b : Byte) : Byte :=
  match g.find? fun h => h.1 == x / 64 with
  | some h => BitVec.ofNat 8 (Config.free (h.2 + x % 64))
  | none => b

/-- Collided reads of a side whose data its engines have yet to get: line, and first free number. -/
def ghostsOf (s : State) (sideB : Bool) : List (Nat × Nat) := s.ras.collided.filterMap fun g => if g.1 == sideB then some g.2 else none

/-- Commons bytes as a side's engines read them now. -/
def ldSide (s : State) (sideB : Bool) (a n : Nat) : Bytes :=
  if s.ras.collided.isEmpty then ld s 0 a n
  else ((ld s 0 a n).zip (List.range n)).map fun x => ghostByte (ghostsOf s sideB) (a + x.2) x.1

/-- The range takes in bytes of the line. -/
def onLine (a n l : Nat) : Bool := n != 0 && a / 64 ≤ l && l ≤ (a + n - 1) / 64

/-- A read of a side's engine has had the undefined data of its lines. -/
def delivered (s : State) (sideB : Bool) (a n : Nat) : State :=
  { s with ras := { s.ras with collided := s.ras.collided.filter fun g => !(g.1 == sideB && onLine a n g.2.1) } }

/-! ### A job -/

def Job.start (m : Mems) (e : Ecc) : Job :=
  { mem := m, verdict := e, ue := none, ce := [], traffic := [], sat := 0, nan := 0, rescue := 0, counts := [], failed := none,
    outs := [] }

/-- The job of a task that starts now, on an engine of a side. -/
def startJob (s : State) (e : Ecc) (sideB : Bool) : Job := { Job.start s.mem e with ghosts := ghostsOf s sideB }

/-- The range covers the word of an address. -/
def covers (a n x : Nat) : Bool := n != 0 && a / 16 ≤ x / 16 && x / 16 ≤ (a + n - 1) / 16

/-- The first address of a range whose word does not decode: by a mark, or by the verdict. -/
def Job.hit (j : Job) (sp a n : Nat) : Option Nat :=
  let marked := (sortBy id (j.mem.bad.filterMap fun x => if x.1 == sp && covers a n (x.2 * 16) then some x.2 else none)).head?
  match marked, j.verdict with
  | some l, _ => some (max a (l * 16))
  | none, .uncorrectable vs va => if vs == sp && covers a n va then some va else none
  | none, _ => none

/-- A read: what it delivers, and the job with the read accounted for. A word that does not decode stops the job. -/
def Job.rd (j : Job) (sp a n : Nat) : Bytes × Job :=
  if j.ue.isSome then (zeros n, j)
  else match j.hit sp a n with
    | some x => (zeros n, { j with ue := some (sp, x) })
    | none =>
      let ce := match j.verdict with
        | .corrected vs va => if vs == sp && covers a n va && j.ce.isEmpty then [(sp, va)] else j.ce
        | _ => j.ce
      let bs := peeks (memOf j.mem sp) a n
      let j := { j with ce := ce, traffic := (sp, n) :: j.traffic }
      if sp != 0 || j.ghosts.isEmpty then (bs, j)
      else ((bs.zip (List.range n)).map fun x => ghostByte j.ghosts (a + x.2) x.1,
            { j with ghosts := j.ghosts.filter fun g => !onLine a n g.1 })

/-- A write; a stopped job writes nothing. -/
def Job.wr (j : Job) (sp a : Nat) (bs : Bytes) : Job :=
  if j.ue.isSome then j
  else
    let m := setMem j.mem sp (pokes (memOf j.mem sp) a bs)
    { j with
      mem := { m with bad := m.bad.filter fun x => !(x.1 == sp && (a ≤ x.2 * 16 && x.2 * 16 + 16 ≤ a + bs.length)) }
      traffic := (sp, bs.length) :: j.traffic }

/-- A count of a status register raised. -/
def Job.tally (j : Job) (reg hi lo n : Nat) : Job :=
  if j.ue.isSome || n = 0 then j else { j with counts := (reg, hi, lo, n) :: j.counts }

/-- Clamps and NaNs of conversions (R81), chunks recomputed (R93). -/
def Job.conv (j : Job) (sat nan : Nat) : Job := if j.ue.isSome then j else { j with sat := j.sat + sat, nan := j.nan + nan }
def Job.rescued (j : Job) (n : Nat) : Job := if j.ue.isSome then j else { j with rescue := j.rescue + n }

/-- A packet for the host port queued (R176). -/
def Job.out (j : Job) (bs : Bytes) : Job := if j.ue.isSome then j else { j with outs := j.outs ++ [bs] }

/-- The rows of a task in an order: each row's work sees what the rows before it wrote. -/
def Job.rows (j : Job) (order : List Nat) (f : Job → Nat → Job) : Job :=
  order.foldl (fun j r => if j.ue.isSome then j else f j r) j

/-- How many free numbers a task may use: none is used by two tasks (log 1). -/
def freeBlockSize : Nat := 2 ^ 60

/-- The order rows are taken in: where a task's own regions overlap the spec gives none, and the order is free (R151, log 2). -/
def rowOrder (s : State) (n : Nat) (clash : Bool) : List Nat :=
  if clash then sortBy (Config.rank (s.fresh + freeBlockSize - 1)) (List.range n) else List.range n

/-! ### Ending a task -/

/-- A task's status set in its window slot: its engine has stopped. -/
def endTask (s : State) (slot st : Nat) : State :=
  { s with disp := { s.disp with window := modify s.disp.window slot fun x => { x with result := some st } } }

/-- The counts of a job added to the registers. -/
def addCounts (s : State) (j : Job) : State :=
  let s := j.counts.foldl (fun s c => bump s c.1 c.2.1 c.2.2.1 c.2.2.2) s
  let s := if j.sat = 0 then s else bump s rNUM_SAT 31 0 j.sat
  let s := if j.nan = 0 then s else bump s rNUM_NAN 31 0 j.nan
  if j.rescue = 0 then s else bump s rACC_STAT 15 0 j.rescue

/-- A job's traffic charged to the partition (R297): the tiers, and the commons for engines on side B. -/
def chargeJob (s : State) (part : Nat) (sideB : Bool) (j : Job) : State :=
  [0, 1, 2].foldl (fun s sp =>
    if sp = 0 && !sideB then s
    else charge s (resOf sp) part (sumOf ((j.traffic.filter fun x => x.1 == sp).map (·.2)))) s

/-- Accesses of the job wait: its partition has spent the peak bucket of a resource it uses (R299). -/
def jobWaits (s : State) (part : Nat) (sideB : Bool) (j : Job) : Bool :=
  [0, 1, 2].any fun sp => !(sp == 0 && !sideB) && (j.traffic.any fun x => x.1 == sp && x.2 != 0) && !peakOk s (resOf sp) part

/-- The collided reads of a side that are left after a job. -/
def keepGhosts (s : State) (sideB : Bool) (j : Job) : State :=
  { s with ras := { s.ras with collided := (s.ras.collided.filter fun g => g.1 != sideB) ++ j.ghosts.map (sideB, ·) } }

/-- What a job leaves: its writes, counts and traffic; a word that did not decode fails the task with FAULT_UNCORRECTABLE
(R294), a run-time rule with its own record, ENGINE_RUN for most engines (R144, R155, R164). While its accesses wait it has not run. The packets
of a serving step's reply tasks have gone at the gate (R246 item 3, log 7). -/
def finishJob (s : State) (slot : Nat) (sl : Slot) (i : Inst) (sideB : Bool) (as : Option (Nat × Nat)) (j : Job) : State :=
  if jobWaits s (instPart s i) sideB j then s else
  let s := addCounts (chargeJob { keepGhosts s sideB j with mem := j.mem, fresh := s.fresh + freeBlockSize } (instPart s i) sideB j) j
  let s := j.ce.foldl (fun s c => readCe s c.1 c.2) s
  let s := if i.step.isSome then s else j.outs.foldl (fun s b => hostSend s (.raw b)) s
  match j.ue with
  | some (sp, a) => endTask (readUeAs (markBad s sp (a / 16)) sp a (blameOf i sl) as) slot stFault
  | none =>
    match j.failed with
    | some f =>
      endTask (record s { code := f.code, sev := 2, unit := f.unit, status := f.status, flags := instFlags i, ctx := i.ctx,
                          object := i.num, addr := f.addr, space := f.space, task := sl.index, data := f.data }) slot f.status
    | none => endTask s slot stOK

/-- The unit that starts tasks one after another in release order (R224): a logical array by itself, every other engine as a
whole. -/
def startsWith (d e : Bytes) : Bool := dEngine d == dEngine e && (dEngine d != 1 || num d 20 1 % 128 == num e 20 1 % 128)

/-- How many instances of an engine take tasks: a mover task runs on one channel, a task of another engine on all of it (R178,
log 54). -/
def startWays (s : State) (d : Bytes) : Nat := if dEngine d = 8 then unitsLeft s 9 32 else 1

/-- A released task may begin: those released before it to the same unit that have not begun leave an instance for it (R224). -/
def inTurn (s : State) (sl : Slot) : Bool :=
  (s.disp.window.filter fun w => w.2.released && w.2.result.isNone && !w.2.begun && w.2.order < sl.order
    && startsWith w.2.desc sl.desc).length < max 1 (startWays s sl.desc)

/-- A task released to an engine, whose turn has come and which has not begun, whose descriptor names the engine and meets the row's
condition. -/
def released (s : State) (slot eng : Nat) (sel : Bytes → Bool) : Option (Slot × Inst) :=
  match look s.disp.window slot with
  | none => none
  | some sl =>
    if sl.released && sl.result.isNone && !sl.begun && inTurn s sl && dEngine sl.desc == eng && sel sl.desc then
      (instOf s sl.inst).map fun i => (sl, i)
    else none

/-- A task's engine has begun it. -/
def beginTask (s : State) (slot : Nat) : State :=
  { s with disp := { s.disp with window := modify s.disp.window slot fun sl => { sl with begun := true } } }

/-- An engine's row of the table: the task it names runs; where no such task waits, nothing happens (log 11). -/
def engineTask (s : State) (slot : Nat) (e : Ecc) (eng : Nat) (sideB : Bool) (as : Option (Nat × Nat)) (sel : Bytes → Bool)
    (run : State → Bytes → Job → Job) : State :=
  match released s slot eng sel with
  | none => s
  | some (sl, i) => finishJob s slot sl i sideB as (run s sl.desc (startJob s e sideB))

/-! ### Elements and sums -/

/-- The codes of `n` elements of a format, packed from the start of a byte string; int4 packs two to a byte (R65). -/
def elems (code : Nat) (bs : Bytes) (n : Nat) : List Nat :=
  if code = 0x44 then (bs.flatMap fun b => [b.toNat % 16, b.toNat / 16]).take n
  else ((chunksOf (elemSize code) n bs).map ofLE).take n

/-- The bytes of `n` elements. -/
def elemBytes (code n : Nat) : Nat := if code = 0x44 then ceilDiv n 2 else elemSize code * n

/-- An element's value; int4 is two's complement (R65). -/
def valOf (code b : Nat) : Val := if code = 0x44 then ofInt (sext 4 b) else elemVal code b

/-- One conversion of an exact value to a destination format: the element's bytes, clamps and NaNs counted (R62, R71, R72). -/
structure OutElem where
  bytes : Bytes
  sat   : Nat
  nan   : Nat
  deriving DecidableEq, Repr

def outElem (code : Nat) (mode : RMode) (sat : Bool) (v : Val) : OutElem :=
  if code = 0x48 ∨ code = 0x50 then
    let c := toInt mode (intRange code).1 (intRange code).2 v
    let w := 8 * elemSize code
    ⟨toLE (elemSize code) (wrapInt w c.val), c.sat, c.nan⟩
  else ⟨toLE (elemSize code) (roundVal (fmtOf code) mode sat v).1, 0, 0⟩

/-- A row of exact values converted; element `n` rounds under the mode that `mode n` names. -/
def outRow (code : Nat) (mode : Nat → RMode) (sat : Bool) (vs : List Val) : OutElem :=
  let os := (vs.zip (List.range vs.length)).map fun x => outElem code (mode x.2) sat x.1
  ⟨os.flatMap (·.bytes), sumOf (os.map (·.sat)), sumOf (os.map (·.nan))⟩

/-- An integer sum, exact, times an FP32 scale and an FP16 scale where they apply (R88). -/
def scaled (x : Int) (st cn : Option Nat) : Val :=
  let a := match st with
    | some v => (ofInt x).mul (decode f32 v)
    | none => ofInt x
  match cn with
  | some v => a.mul (decode f16 v)
  | none => a

/-- A row written, with its conversions counted. -/
def Job.putRow (j : Job) (sp a : Nat) (o : OutElem) : Job := (j.wr sp a o.bytes).conv o.sat o.nan

/-- A value of a format rounded to nearest even, and whether a finite value overflowed. -/
def narrow (f : Fmt) (v : Val) : Nat × Bool := roundVal f .nearest false v

/-- One level of the pairwise tree: neighbours added, each sum rounded (R92 step 3). -/
def pairUp (f : Fmt) : List Nat → List Nat × Bool
  | a :: b :: rest =>
    let x := narrow f ((decode f a).add (decode f b))
    let r := pairUp f rest
    (x.1 :: r.1, x.2 || r.2)
  | l => (l, false)

/-- A chunk's terms added by the tree of neighbours, and whether an addition overflowed. Six levels add 64 terms. -/
def treeSum (f : Fmt) : Nat → List Nat → Nat × Bool
  | 0, l => (l.headD 0, false)
  | n + 1, l =>
    let x := pairUp f l
    let r := treeSum f n x.1
    (r.1, x.2 || r.2)

def isFin : Val → Bool
  | .fin _ _ _ => true
  | _ => false

/-- A chunk of at most 64 exact products as FP32, and whether it was recomputed (R92, R93). -/
def chunkSum (f : Fmt) (ps : List Val) : Nat × Bool :=
  let rs := ps.map (narrow f)
  let t := treeSum f 6 (rs.map (·.1))
  if (t.2 || rs.any (·.2)) && ps.all isFin then ((treeSum f32 6 (ps.map fun p => (narrow f32 p).1)).1, true)
  else (widen f t.1, false)

/-- A list cut into runs of 64. -/
def runs64 {α : Type} : Nat → List α → List (List α)
  | 0, _ => []
  | n + 1, l => if l.isEmpty then [] else l.take 64 :: runs64 n (l.drop 64)

/-- The chunk sums in the order they complete, which the spec leaves open: a free order, which matters from three chunks on
(R92 step 5, log 2). -/
def completionOrder (fresh : Nat) (l : List Nat) : List Nat :=
  if l.length < 3 then l
  else (sortBy (fun x => Config.rank fresh x.2) (l.zip (List.range l.length))).map (·.1)

/-- A chunked sum of exact products: the FP32 total and the chunks recomputed (R92, R93). -/
def chunkedSum (fresh : Nat) (f : Fmt) (ps : List Val) : Nat × Nat :=
  let cs := (runs64 (ps.length / 64 + 1) ps).map (chunkSum f)
  let total := match completionOrder fresh (cs.map (·.1)) with
    | [] => 0
    | c :: rest => rest.foldl add32 c
  (total, (cs.filter (·.2)).length)

/-- The exact maximum of FP32 values; a NaN makes it NaN (R162). -/
def maxAll (l : List Nat) : Nat := match l with
  | [] => 0
  | x :: xs => xs.foldl max32 x

/-! ### Activation formats (Table 3.1, R63) -/

/-- Whether an activation code has a sign plane, its magnitude planes, and its largest magnitude. -/
def actFmt (code : Nat) : Option (Bool × Nat × Nat) :=
  if code = 0x01 ∨ code = 0x12 then some (true, 1, 1)
  else if 0x13 ≤ code ∧ code ≤ 0x18 then some (true, code - 0x11, 2 ^ (code - 0x11) - 1)
  else if 0x21 ≤ code ∧ code ≤ 0x28 then some (false, code - 0x20, 2 ^ (code - 0x20) - 1)
  else none

/-- The planes of a token record: sign plane and magnitude planes. -/
def actPlanes (code : Nat) : Nat := match actFmt code with
  | some (sg, p, _) => (if sg then 1 else 0) + p
  | none => 0

/-- Bit `k` of the 64-byte plane that starts at `o`. -/
def planeBit (bs : Bytes) (o k : Nat) : Bool := bit (k % 8) ((bs.getD (o + k / 8) 0).toNat)

end Sys2Proof.Machine
end

