-- ==== Sys2Proof/Machine/GraphOps.lean ====
section
/-! DEFINITION. Graph images, counters, and what becomes of an instance: signals, readiness, failure, voiding and completion
(09, R206–R234). -/

namespace Sys2Proof.Machine

/-! ### Images (R216, R220) -/

/-- The header a graph image's first 64 bytes hold (Table 9.3). -/
def hdrOf (b : Bytes) : GHdr :=
  let f := num b 2 1
  { fmt := num b 0 2, statusEn := bit 3 f, statusTier := b2n (bit 2 f), dlAbort := bit 1 f, doneEn := bit 0 f,
    tasks := num b 4 4, ctrBase := num b 8 2, ctrCount := num b 10 2, done := num b 12 2, patchCount := num b 14 2,
    deadline := num b 16 8, statusAddr := num b 24 8, patchOff := num b 32 8, hostTag := BitVec.ofNat 32 (num b 40 4) }

/-- The device counter that a counter field names (R212). -/
def ctrOf (base f : Nat) : Nat := if bit 14 f then f % 16384 else base + f % 16384

/-- A counter field is one the context may hold (R212). -/
def ctrFieldOk (s : State) (ctx count f : Nat) : Bool :=
  !bit 15 f && (if bit 14 f then ctx == 0 || look s.disp.owners (f % 16384) == some ctx else f % 16384 < count)

/-- A field that is enabled and good, or disabled and 0 (R209). -/
def ctrUse (s : State) (ctx count : Nat) (en : Bool) (f : Nat) : Bool := if en then ctrFieldOk s ctx count f else f == 0

/-- An image header lies within Table 9.3, R11 and R209; only an installed graph has patches (R221). -/
def hdrOk (s : State) (ctx : Nat) (installed : Bool) (b : Bytes) : Bool :=
  let h := hdrOf b
  num b 2 1 < 16 && num b 3 1 == 0 && h.tasks ≤ 1048576 && h.ctrBase < 16384 && h.ctrBase + h.ctrCount ≤ 16384
  && ctrUse s ctx h.ctrCount h.doneEn h.done && h.patchCount ≤ (if installed then 4096 else 0)
  && h.statusAddr % 32 == 0 && h.patchOff % 16 == 0 && allZero b 44 20

/-- A task's header lies within Table 9.1, R209 and R212. -/
def taskHeadOk (s : State) (ctx count : Nat) (d : Bytes) : Bool :=
  let f := num d 1 1
  num d 0 1 ≤ 10 && f % 4 == 0 && num d 14 2 == 0
  && ctrUse s ctx count (bit 7 f) (num d 2 2) && (bit 7 f || num d 4 2 == 0)
  && ctrUse s ctx count (bit 6 f) (num d 6 2) && (bit 6 f || num d 8 2 == 0)
  && ctrUse s ctx count (bit 5 f) (num d 10 2) && ctrUse s ctx count (bit 4 f) (num d 12 2)

/-- The enabled waits and signals of a task: counter fields, the waits with their thresholds. -/
def waitFields (d : Bytes) : List (Nat × Nat) :=
  (if bit 7 (num d 1 1) then [(num d 2 2, num d 4 2)] else []) ++ (if bit 6 (num d 1 1) then [(num d 6 2, num d 8 2)] else [])
def signalFields (d : Bytes) : List Nat :=
  (if bit 5 (num d 1 1) then [num d 10 2] else []) ++ (if bit 4 (num d 1 1) then [num d 12 2] else [])

/-- Where task `k` of an image stands. -/
def taskAddr (addr k : Nat) : Nat := addr + 64 + 64 * k

/-- A patch entry (Table 9.5). -/
structure Patch where
  first : Nat
  count : Nat
  step  : Nat
  off   : Nat
  width : Nat
  param : Nat
  deriving DecidableEq, Repr

def patchOf (b : Bytes) : Patch :=
  { first := num b 0 4, count := num b 4 4, step := num b 8 4, off := num b 12 1 % 64, width := num b 13 1, param := num b 14 1 }

/-- The patch table of an image. -/
def patchesOf (s : State) (tier addr : Nat) (h : GHdr) : List Patch :=
  (List.range h.patchCount).map fun e => patchOf (ld s tier (addr + h.patchOff + 16 * e) 16)

/-- A patch touches task `k`. -/
def Patch.touches (p : Patch) (k : Nat) : Bool := p.first ≤ k && (k - p.first) % p.step == 0 && (k - p.first) / p.step < p.count

/-- A descriptor with the patches of its task made (R220). -/
def patched (ps : List Patch) (params : List Nat) (k : Nat) (d : Bytes) : Bytes :=
  ps.foldl (fun d p => if p.touches k then d.take p.off ++ toLE p.width (params.getD p.param 0) ++ d.drop (p.off + p.width) else d) d

/-- Task `k` of an instance as the dispatcher reads it now. -/
def taskOf (s : State) (i : Inst) (k : Nat) : Bytes :=
  let d := ld s i.tier (taskAddr i.addr k) 64
  match i.params with
  | some ps => patched (patchesOf s i.tier i.addr i.hdr) ps k d
  | none => d

/-! ### Counters (R210, R211, R214, R215) -/

def ctrVal (s : State) (c : Nat) : Nat := ((look s.disp.ctrs c).getD 0).toNat

/-- A counter's value stored; a counter at 0 is not listed. -/
def putCtr (s : State) (c v : Nat) : State :=
  { s with disp := { s.disp with
      ctrs := if v = 0 then del s.disp.ctrs c else put s.disp.ctrs c (BitVec.ofNat 32 v) } }

/-- Every enabled wait of a descriptor is satisfied (R211). -/
def waitsMet (s : State) (base : Nat) (d : Bytes) : Bool :=
  (waitFields d).all fun w => w.2 ≤ ctrVal s (ctrOf base w.1)

/-- The waits of the tasks in the window evaluated again; a ready task stays ready (R211). -/
def refreshReady (s : State) : State :=
  { s with disp := { s.disp with
      window := s.disp.window.map fun x =>
        (x.1, { x.2 with ready := x.2.ready || (match instOf s x.2.inst with
                                                | some i => waitsMet s i.hdr.ctrBase x.2.desc
                                                | none => false) }) } }

/-- The SYNC_WAIT commands on a counter that has reached their value, answered (R215). -/
def answerWaits (s : State) (c : Nat) : State :=
  let due := s.disp.waits.filter fun w => w.ctr == c && w.value ≤ ctrVal s c
  let s := { s with disp := { s.disp with waits := s.disp.waits.filter fun w => !(w.ctr == c && w.value ≤ ctrVal s c) } }
  due.foldl (fun s w => replyTo s w.req stOK 0 (toLE 4 (ctrVal s c))) s

/-- A counter given a value, with all that follows. -/
def setCtr (s : State) (c v : Nat) : State := answerWaits (refreshReady (putCtr s c v)) c

/-- One signal (R210). -/
def signalCtr (s : State) (c : Nat) : State :=
  if ctrVal s c = 0xFFFFFFFF then bump s rDISP_FAULT 15 8 1 else setCtr s c (ctrVal s c + 1)

/-- The signals of a task that was admitted. -/
def signalTask (s : State) (i : Inst) (d : Bytes) : State :=
  (signalFields d).foldl (fun s f => signalCtr s (ctrOf i.hdr.ctrBase f)) s

/-- The signals of a task voided before it was admitted: each enabled field that passes its checks (R227). -/
def signalUnread (s : State) (i : Inst) (k : Nat) : State :=
  if badIn s i.tier (taskAddr i.addr k) 16 then s
  else (signalFields (ld s i.tier (taskAddr i.addr k) 64)).foldl
    (fun s f => if ctrFieldOk s i.ctx i.hdr.ctrCount f then signalCtr s (ctrOf i.hdr.ctrBase f) else s) s

/-! ### Instances -/

def modInst (s : State) (n : Nat) (f : Inst → Inst) : State :=
  { s with disp := { s.disp with insts := s.disp.insts.map fun i => if i.num = n then f i else i } }

/-- The step an instance belongs to, changed. -/
def modStepOf (s : State) (inst : Nat) (f : Step → Step) : State :=
  let g := fun (o : Option Step) => o.map fun st => if st.insts.contains inst then f st else st
  { s with serve := { s.serve with cur := g s.serve.cur, next := g s.serve.next } }

/-- The unreleased tasks of an instance in the window, by index. -/
def unreleased (s : State) (n : Nat) : List (Nat × Slot) :=
  sortBy (fun x => x.2.index) (s.disp.window.filter fun x => x.2.inst == n && !x.2.released)

/-- Every unreleased task of an instance voided, admitted or not (R227, R228). -/
def voidRest (s : State) (n : Nat) : State :=
  match instOf s n with
  | none => s
  | some i =>
    let w := unreleased s n
    let late := i.hdr.tasks - i.admitted
    let s := { s with disp := { s.disp with window := s.disp.window.filter fun x => !(x.2.inst == n && !x.2.released) } }
    let s := w.foldl (fun s x => signalTask s i x.2.desc) s
    let s := (List.range late).foldl (fun s k => signalUnread s i (i.admitted + k)) s
    let s := bump64 s (rDISP_PERF + 16) (w.length + late)
    modInst s n fun i => { i with admitted := i.hdr.tasks, ended := i.ended + w.length + late, voided := i.voided + w.length + late }

/-- An instance fails: the first failure sets its status and failing task, and the rest is voided (R228). -/
def failInst (s : State) (n status task : Nat) : State :=
  match instOf s n with
  | none => s
  | some i =>
    let s := if i.status = 0 then modInst s n fun i => { i with status := status, failTask := task } else s
    let s := if i.step.isSome then modStepOf s n fun st => { st with failed := some (st.failed.getD status) } else s
    voidRest s n

/-- The status an instance completes with (R230, R450). -/
def finalStatus (s : State) (i : Inst) : Nat × Nat :=
  if i.status ≠ 0 then (i.status, i.failTask)
  else match i.suspect with
    | some t => (stFault, t)
    | none => (if i.hdr.deadline ≠ 0 ∧ i.hdr.deadline < s.time then stLate else stOK, 0xFFFFFFFF)

/-- The completion record (Table 9.7). -/
def completionRecord (s : State) (i : Inst) : Bytes :=
  let f := finalStatus s i
  toLE 1 f.1 ++ zeros 3 ++ toLE 4 f.2 ++ toLE 8 i.start ++ toLE 8 s.time ++ toLE 4 i.hdr.hostTag.toNat ++ toLE 4 i.voided

/-- The dispatcher's accesses to the near tier are regulated; those to the commons are not on side B (R297, Table 12.5). -/
def chargeNear (s : State) (sp part n : Nat) : State := if sp = 1 then charge s 0 part n else s

/-- The place of a record lies in blocks the context may write (Table 9.4 check 1, R229). -/
def recordPlaceOk (s : State) (ctx sp a : Nat) : Bool := mayName s ctx sp a 32 && !inReserved s sp a 32

/-- Maintenance is reached: steps are no longer formed, and nothing is in flight (R302). -/
def inMaint (s : State) : Bool := s.tier.maint && s.disp.insts.isEmpty

/-- The MAINT_ENTER commands that wait, answered once maintenance is reached. -/
def answerMaint (s : State) : State :=
  if inMaint s then
    s.tier.maintWant.foldl (fun s r => fail s r stOK) { s with tier := { s.tier with maintWant := [] } }
  else s

/-- No graph instance is admitted: maintenance has been asked for or holds (R302). -/
def maintHolds (s : State) : Bool := s.tier.maint || !s.tier.maintWant.isEmpty

/-- What a completed instance does before it leaves the table: record, DONE, event (R229); nothing when its context closes (R231). -/
def completeInst (s : State) (i : Inst) : State :=
  let s :=
    if i.closing then s
    else
      let b := completionRecord s i
      let s := if i.hdr.statusEn && recordPlaceOk s i.ctx i.hdr.statusTier i.hdr.statusAddr
               then chargeNear (st s i.hdr.statusTier i.hdr.statusAddr b) i.hdr.statusTier (instPart s i) 32 else s
      let s := if i.hdr.doneEn then signalCtr s (ctrOf i.hdr.ctrBase i.hdr.done) else s
      let ok := (finalStatus s i).1 < 2
      if i.step.isSome then s
      else notify s i.ctx 0x0A13 i.hdr.hostTag (if ok then 0 else 2) (b ++ toLE 4 i.num)
  answerMaint { s with disp := { s.disp with insts := s.disp.insts.filter fun x => x.num != i.num } }

/-- An instance all of whose tasks have ended completes (R229). -/
def tryComplete (s : State) (n : Nat) : State :=
  match instOf s n with
  | none => s
  | some i => if i.ended = i.hdr.tasks then completeInst s i else s

/-- An instance fails and completes if nothing of it runs on. -/
def failNow (s : State) (n status task : Nat) : State := tryComplete (failInst s n status task) n

/-- An instance or its step is marked suspected (R447, R450). -/
def suspectInst (s : State) (n task : Nat) : State :=
  match instOf s n with
  | none => s
  | some i =>
    let s := modInst s n fun i => { i with suspect := some (i.suspect.getD task) }
    if i.step.isSome then modStepOf s n fun st => { st with failed := some (st.failed.getD stFault), suspected := true } else s

/-! ### The end of a task (R227) -/

/-- A task whose engine has stopped signals, leaves its slot, and with a failure fails its instance. -/
def retireTask (s : State) (slot : Nat) (sl : Slot) (i : Inst) (status : Nat) : State :=
  let s := { s with disp := { s.disp with window := del s.disp.window slot } }
  let s := signalTask s i sl.desc
  let s := modInst s i.num fun i => { i with ended := i.ended + 1 }
  let s := if status = stOK then s else failInst s i.num status sl.index
  tryComplete s i.num

end Sys2Proof.Machine
end

