-- ==== Sys2Proof/Machine/Beds.lean ====
section
/-! DEFINITION. Beds of arrays: their power states, the reload of their slices from the shadow copy, and firmware's choice of
targets (05, 16). -/

namespace Sys2Proof.Machine

/-! ### Arrays and slices (R98, R99, Table 5.1) -/

def Arr.zero : Arr :=
  { active := none, filling := none, halves := [], acc := [], out := [], ret := [], latches := [], run := none }

def arrOf (s : State) (n : Nat) : Arr := (look s.arr.arrays n).getD Arr.zero
/-- An array in the cleared state is not listed. -/
def setArr (s : State) (n : Nat) (a : Arr) : State :=
  { s with arr := { s.arr with arrays := if a = Arr.zero then del s.arr.arrays n else put s.arr.arrays n a } }

/-- Slots of a slice, bytes of a slot, the directory's offset. -/
def sliceSlots : Nat := 1254
def slotBytes : Nat := 26752
def dirOff : Nat := 33547008
/-- The address of a slice in the slice space, and of a logical array's shadow image in the near tier (R110). -/
def sliceBase (a : Nat) : Nat := a * 2 ^ 25
def imageBase (s : State) (lg : Nat) : Nat := shadowBase s + lg * 2 ^ 25
/-- A directory entry of a slice, or of an image. -/
def dirEntry (s : State) (sp base t : Nat) : Nat := ldN s sp (base + dirOff + 4 * t) 4
/-- The bytes a loader reads of a record, by its directory entry (R100, R101). -/
def recordLen (entry : Nat) : Nat := if bit 8 entry then min slotBytes (128 * (entry % 256)) else slotBytes
/-- The tile whose written record holds an offset of a slice or an image, if one does. -/
def recordAt (s : State) (sp base o : Nat) : Option Nat :=
  let t := o / slotBytes
  if o < dirOff && dirEntry s sp base t != 0 && o % slotBytes < recordLen (dirEntry s sp base t) then some t else none
/-- An offset that a reload reads: of the directory, or of a written record (R112). -/
def reloadReads (s : State) (sp base o : Nat) : Bool :=
  (dirOff ≤ o && o < dirOff + 4 * sliceSlots) || (recordAt s sp base o).isSome

/-- A line of a slice written: a write-back that waits for it is dropped (R103). -/
def dropSliceWb (s : State) (a n : Nat) : State :=
  { s with ras := { s.ras with sliceWb := s.ras.sliceWb.filter fun x => !overlap (x.2 * 64) 64 a n } }
/-- Bytes written to the slices, and a range of them cleared. -/
def stSlice (s : State) (a : Nat) (bs : Bytes) : State := dropSliceWb (st s 3 a bs) a bs.length
def wipeSlice (s : State) (a n : Nat) : State := dropSliceWb (wipeRange s 3 a n) a n

/-- A corrected error on a slice's feed: seen, counted, its line to be written back (R32, R103). -/
def sliceCe (s : State) (a x : Nat) : State :=
  let s := corrected (setFld s (rARRAY_STAT a) 7 7 1) 0 1
  let line := x / 64
  let reg := x / 4096
  { s with ras := { s.ras with
      sliceWb := if s.ras.sliceWb.contains (a, line) then s.ras.sliceWb else (a, line) :: s.ras.sliceWb,
      regionCe := put s.ras.regionCe reg ((look s.ras.regionCe reg).getD 0 + 1) } }

/-- The logical array a physical one serves, 127 when none (Table 2.8), and the physical array of a logical one. -/
def logicalOf (s : State) (a : Nat) : Nat := fld s (rARRAY_STAT a) 15 9
def physOf (s : State) (n : Nat) : Nat := fld s (rARRAY_MAP n) 6 0
def arrState (s : State) (a : Nat) : Nat := fld s (rARRAY_STAT a) 2 0

/-! ### Bed states (R402, R403) -/

def bedState (s : State) (b : Nat) : Nat := fld s (rBED_STAT b) 1 0
def moveOf (s : State) (b : Nat) : BedMove := (look s.power.moves b).getD .still

/-- The bed's movement set, and BED_STAT.BUSY with it. -/
def setMove (s : State) (b : Nat) (m : BedMove) : State :=
  setFld { s with power := { s.power with moves := if m = .still then del s.power.moves b else put s.power.moves b m } }
    (rBED_STAT b) 2 2 (b2n (m != .still))

/-- The contents of an array's registers, buffers and accumulators are lost (Table 16.2). Its task keeps its place. -/
def arrLost (s : State) (a : Nat) : State :=
  setArr s a { Arr.zero with run := (arrOf s a).run.map fun r => { r with loaded := false, fetched := false, ahead := false } }
def bedLost (s : State) (b : Nat) : State := (List.range 8).foldl (fun s i => arrLost s (8 * b + i)) s

/-- A bed enters a state and is still. -/
def bedEnter (s : State) (b st : Nat) : State := setMove (setFld s (rBED_STAT b) 1 0 st) b .still

/-- The bed is in Run, and no movement is in progress: its arrays can work. -/
def bedRuns (s : State) (b : Nat) : Bool := bedState s b == 0 && moveOf s b == .still

/-- A wake wanted behind an entry in progress, to Run or to Idle. -/
def wantRun (s : State) (b : Nat) : State :=
  if s.power.wakeWant.contains b then s else { s with power := { s.power with wakeWant := b :: s.power.wakeWant } }
def wantIdle (s : State) (b : Nat) : State :=
  if s.power.idleWant.contains b then s else { s with power := { s.power with idleWant := b :: s.power.idleWant } }

/-- A bed raised to Run, as by a task released to one of its arrays (R47, R403, R405). An entry in progress completes first. -/
def raiseBed (s : State) (b : Nat) : State :=
  match moveOf s b with
  | .entering _ => wantRun s b
  | .waking _ => setMove s b (.waking 0)
  | .still => if bedState s b = 0 then s else setMove s b (.waking 0)

/-- A bed brought to Idle for a write or a copy: from Doze at once, its registers cleared, on its way to Run if it was; from Off it
begins to wake. An entry that has begun completes first (R108, R403, R404, log 14). -/
def bedToIdle (s : State) (b : Nat) : State :=
  match moveOf s b with
  | .entering _ => wantIdle s b
  | m =>
    if bedState s b = 2 then
      let s := bedEnter (bedLost (bump s (rBED_STAT b) 23 16 1) b) b 1
      if m = .waking 0 then setMove s b m else s
    else if bedState s b = 3 && m == .still then setMove s b (.waking 1)
    else s

/-- The bed of an array is powered and its slices hold their content: not Off, not entering Off, not clearing or reloading. -/
def bedPowered (s : State) (b : Nat) : Bool := bedState s b != 3 && moveOf s b != .entering 3

/-- A task released to the bed's arrays and not ended holds the bed. -/
def bedWanted (s : State) (b : Nat) : Bool :=
  (List.range 8).any (fun i => let x := arrOf s (8 * b + i); x.run.isSome || !x.out.isEmpty || !x.ret.isEmpty) ||
  s.disp.window.any fun w =>
    w.2.released && w.2.result.isNone && dEngine w.2.desc == 1 && physOf s (num w.2.desc 20 1 % 128) / 8 == b

/-- A bed without a task for 256 cycles moves to its target; a deeper target is entered, a shallower one woken to (R403). -/
def bedIdleEntry (s : State) (b : Nat) : State :=
  let tgt := fld s (rBED_CTL b) 1 0
  let last := (look s.power.lastTask b).getD 0
  if 12 < b ∨ moveOf s b ≠ .still ∨ bedWanted s b ∨ s.time < last + 4 ∨ tgt = bedState s b ∨ (tgt = 3 ∧ !bedMayOff s b) then s
  else if tgt < bedState s b && 2 ≤ bedState s b then setMove s b (.waking tgt)
  else if tgt < 2 then bedEnter s b tgt
  else setMove s b (.entering tgt)

def execBedIdleEntry (bed : Nat) (s : State) : Host.Outcome State Fault Refusal := .next (whenOn s fun s => bedIdleEntry s bed)

/-- An entry into Doze or Off is complete (R403). -/
def bedEntryComplete (s : State) (b : Nat) : State :=
  match moveOf s b with
  | .entering d =>
    let run := s.power.wakeWant.contains b
    let idle := s.power.idleWant.contains b
    let s := bedLost (bedEnter s b d) b
    if run || idle then
      setMove { s with power := { s.power with wakeWant := s.power.wakeWant.filter (· != b),
                                                 idleWant := s.power.idleWant.filter (· != b) } } b (.waking (if run then 0 else 1))
    else s
  | _ => s

def execBedEntryComplete (bed : Nat) (s : State) : Host.Outcome State Fault Refusal := .next (whenOn s fun s => bedEntryComplete s bed)

/-! ### Waking and reload (R112) -/

def clearing (s : State) (b : Nat) : Bool := bit b (rd s rWS_STAT)
def reloading (s : State) (b : Nat) : Bool := bit (16 + b) (rd s rWS_STAT)
def setWs (s : State) (b : Nat) (clr rel : Bool) : State :=
  setFld (setFld s rWS_STAT b b (b2n clr)) rWS_STAT (16 + b) (16 + b) (b2n rel)

/-- The slices of a bed cleared to zero data. -/
def wipeSlices (s : State) (b : Nat) : State :=
  (List.range 8).foldl (fun s i => wipeSlice s (sliceBase (8 * b + i)) (2 ^ 25)) s

/-- A bed's wake completes: from Idle or Doze it runs; from Off its slices begin to be cleared, and, that done, to be reloaded
(Table 5.4). -/
def bedWake (s : State) (b : Nat) : State :=
  match moveOf s b with
  | .waking d =>
    if bedState s b = 3 then
      if clearing s b then setWs s b false true
      else if reloading s b then s
      else setWs (wipeSlices (bedLost s b) b) b true false
    else
      let s := if bedState s b = 2 then bedLost (bump s (rBED_STAT b) 23 16 1) b else s
      let s := bedEnter s b d
      { s with power := { s.power with lastTask := put s.power.lastTask b s.time } }
  | _ => s

def execBedWake (bed : Nat) (s : State) : Host.Outcome State Fault Refusal := .next (whenOn s fun s => bedWake s bed)

/-- The SHADOW_VALID bit of an image in which an uncorrectable error was found is cleared, with a fault event (R111). -/
def shadowBit (s : State) (lg addr : Nat) : State :=
  if bit (lg % 32) (rd s (rSHADOW_VALID (lg / 32))) then
    let p := placeOf s 1 addr
    record (setFld s (rSHADOW_VALID (lg / 32)) (lg % 32) (lg % 32) 0)
      { code := 0x0107, sev := 1, unit := 14, inst := p.dev, logical := lg, addr := addr, space := 1, chan := p.chan,
        bank := p.bank, row := p.row }
  else s

/-- A reload or a copy meets an uncorrectable error in an image: counted, the image invalid, its block withdrawn (R111, R294, R295). -/
def shadowInvalid (s : State) (lg addr : Nat) : State :=
  withdraw (shadowBit (bump s (errReg 1 (placeOf s 1 addr).dev) 15 0 1) lg addr) 1 addr

/-- The bytes of an image that a reload takes: the directory, and every record whose entry is not 0; of a repair copy, all. -/
def imageCells (s : State) (lg : Nat) (all : Bool) : Memory :=
  let base := imageBase s lg
  (s.mem.near.filter fun c => base ≤ c.1 && c.1 < base + 2 ^ 25 && (all || reloadReads s 1 base (c.1 - base))).map
    fun c => (c.1 - base, c.2)

/-- The words of an image that a reading of it meets and that do not decode, by a mark or by the verdict of the reading. -/
def imageBad (s : State) (lg : Nat) (all : Bool) (e : Ecc) : List Nat :=
  let base := imageBase s lg
  let marked := s.mem.bad.filterMap fun x =>
    if x.1 == 1 && base ≤ x.2 * 16 && x.2 * 16 < base + 2 ^ 25 then some (x.2 * 16 - base) else none
  let met := match e with
    | .uncorrectable 1 a => if base ≤ a ∧ a < base + 2 ^ 25 then (a / 16 * 16 - base) :: marked else marked
    | _ => marked
  met.filter fun o => all || reloadReads s 1 base o

/-- The number of bytes a reading of an image takes. -/
def imageBytes (s : State) (lg : Nat) (all : Bool) : Nat :=
  if all then 2 ^ 25
  else 4 * sliceSlots + sumOf ((List.range sliceSlots).map fun t =>
    let e := dirEntry s 1 (imageBase s lg) t
    if e = 0 then 0 else recordLen e)

/-- A slice loaded from the shadow image of a logical array. Words that do not decode are written uncorrectable, and clear the
image's valid bit (R111). -/
def loadSlice (s : State) (a lg : Nat) (all : Bool) (e : Ecc) : State :=
  let cells := imageCells s lg all
  let bad := imageBad s lg all e
  let ce := match e with
    | .corrected 1 x => imageBase s lg ≤ x && x < imageBase s lg + 2 ^ 25 && (all || reloadReads s 1 (imageBase s lg) (x - imageBase s lg))
    | _ => false
  let s := charge s 0 0 (imageBytes s lg all)
  let s := wipeSlice s (sliceBase a) (2 ^ 25)
  let s := { s with mem := { s.mem with slices := cells.foldl (fun m c => poke m (sliceBase a + c.1) c.2) s.mem.slices } }
  let s := bad.foldl (fun s o => markBad (markBad s 3 ((sliceBase a + o) / 16)) 1 ((imageBase s lg + o) / 16)) s
  let s := match e with
    | .corrected 1 x => if ce then readCe s 1 x else s
    | _ => s
  match bad with
  | o :: _ => shadowInvalid s lg (imageBase s lg + o)
  | [] => s

/-- Every slice of a bed reloaded: the bed runs (R112). -/
def bedReloadComplete (s : State) (b : Nat) (e : Ecc) : State :=
  match moveOf s b with
  | .waking d =>
    if clearing s b || reloading s b then
      let s := (List.range 8).foldl (fun s i =>
        let lg := logicalOf s (8 * b + i)
        if lg < 96 then loadSlice s (8 * b + i) lg false e else s) s
      let s := bedEnter (bump (setWs s b false false) (rBED_STAT b) 31 24 1) b d
      { s with power := { s.power with lastTask := put s.power.lastTask b s.time } }
    else s
  | _ => s

def execBedReloadComplete (bed : Nat) (ecc : Ecc) (s : State) : Host.Outcome State Fault Refusal :=
  .next (whenOn s fun s => bedReloadComplete s bed ecc)

/-! ### Targets (R405, R406) -/

/-- A bed holds a tile of an installed model that has a request outside FREE. -/
def bedServes (s : State) (b : Nat) : Bool :=
  (List.range 8).any fun i =>
    let lg := logicalOf s (8 * b + i)
    s.models.any fun m => (m.2.ranges.any fun r => r.1 == lg) && s.serve.reqs.any fun q => q.2.model == m.1

/-- The deepest target R406 allows, kept to FLOOR. -/
def bedTarget (s : State) (forecast : List Nat) (b : Nat) : Nat :=
  let deep := if !bedServes s b && bedMayOff s b then 3 else if !forecast.contains b then 2 else 1
  min (fld s (rBED_CTL b) 3 2) deep

/-- Firmware sets the targets of the beds it may, and wakes those a forecast step needs (R406). -/
def bedPolicy (s : State) (forecast : List Nat) : State :=
  (List.range 13).foldl (fun s b =>
    let s := if fld s (rBED_CTL b) 4 4 = 1 then s else setFld s (rBED_CTL b) 1 0 (bedTarget s forecast b)
    if forecast.contains b && 2 ≤ bedState s b then raiseBed s b else s) s

/-! ### Shadow rebuild (R111) -/

/-- The logical array's slice copied into its image, and the bit set; a record of the slice that does not decode stops it, with a fault
event that names the model and the tile. Words outside every written record hold nothing a load reads: the directory is taken from the
loader's copy (R101), other such words are written as zeros (log 57). The bed must be powered. -/
def shadowRebuild (s : State) (lg : Nat) (e : Ecc) : State :=
  let a := physOf s lg
  let base := sliceBase a
  if 96 ≤ lg ∨ bit (lg % 32) (rd s (rSHADOW_VALID (lg / 32))) ∨ fld s (rARRAY_MAP lg) 7 7 = 0 ∨ !bedPowered s (a / 8)
     ∨ stackCount s = 0 then s
  else
    let marked := s.mem.bad.filterMap fun x =>
      if x.1 == 3 && base ≤ x.2 * 16 && x.2 * 16 < base + 2 ^ 25 then some (x.2 * 16) else none
    let bad := match e with
      | .uncorrectable 3 x => if base ≤ x ∧ x < base + 2 ^ 25 then x / 16 * 16 :: marked else marked
      | _ => marked
    match sortBy id (bad.filter fun x => (recordAt s 3 base (x - base)).isSome) with
    | x :: _ =>
      let t := (x - base) / slotBytes
      let m := (s.models.find? fun m => m.2.ranges.any fun r => r.1 == lg && r.2.1 ≤ t && t < r.2.1 + r.2.2).map (·.1)
      record (markBad s 3 (x / 16))
        { code := 0x0108, sev := 2, unit := 0, inst := a, logical := lg, object := m.getD 0xFFFFFFFF, addr := x - base,
          space := 3, data := t }
    | [] =>
      let s := match e with
        | .corrected 3 x => if base ≤ x ∧ x < base + 2 ^ 25 then sliceCe s a x else s
        | _ => s
      let s := charge (copyRange s 3 base (2 ^ 25) 1 (imageBase s lg)) 0 0 (2 ^ 25)
      let s := { s with mem := { s.mem with bad := s.mem.bad.filter fun x =>
                   !(x.1 == 1 && imageBase s lg ≤ x.2 * 16 && x.2 * 16 < imageBase s lg + 2 ^ 25) } }
      let s := (bad.filter fun x => x - base < dirOff).foldl (fun s x => wipeRange s 1 (imageBase s lg + (x - base)) 16) s
      setFld s (rSHADOW_VALID (lg / 32)) (lg % 32) (lg % 32) 1

def execShadowRebuild (logical : Nat) (ecc : Ecc) (s : State) : Host.Outcome State Fault Refusal :=
  .next (whenOn s fun s => shadowRebuild s logical ecc)

end Sys2Proof.Machine
end

