-- ==== Sys2Proof/Machine/RasOps.lean ====
section
/-! DEFINITION. Suspicion and retirement of arrays and attention units, the repair copy and the remap (18, R447–R457). -/

namespace Sys2Proof.Machine

/-! ### Units with spares -/

/-- The status word of a unit: arrays are kind 0, attention units kind 1. -/
def unitStat (kind a : Nat) : Nat := if kind = 0 then rARRAY_STAT a else rATTN_STAT a
def unitState (s : State) (kind a : Nat) : Nat := fld s (unitStat kind a) 2 0
def setUnitState (s : State) (kind a st : Nat) : State := setFld s (unitStat kind a) 2 0 st
/-- How many physical units there are, and the logical number that stands for none. -/
def unitCount (kind : Nat) : Nat := if kind = 0 then 104 else 18
def noLogical (kind : Nat) : Nat := if kind = 0 then 127 else 31
def logicalUnit (s : State) (kind a : Nat) : Nat := if kind = 0 then logicalOf s a else fld s (rATTN_STAT a) 13 9
def setLogical (s : State) (kind a lg : Nat) : State :=
  if kind = 0 then setFld s (rARRAY_STAT a) 15 9 lg else setFld s (rATTN_STAT a) 13 9 lg
/-- A logical unit mapped to a physical one, or to none: VALID 0 (R456). -/
def mapUnit (s : State) (kind lg : Nat) (phys : Option Nat) : State :=
  match phys with
  | some p => if kind = 0 then wr s (rARRAY_MAP lg) (128 + p) else wr s (rATTN_MAP lg) (32 + p)
  | none => if kind = 0 then setFld s (rARRAY_MAP lg) 7 7 0 else setFld s (rATTN_MAP lg) 5 5 0

/-- The spares of a kind: in STATE 0. -/
def sparesOf (s : State) (kind : Nat) : List Nat := (List.range (unitCount kind)).filter fun a => unitState s kind a == 0

/-- A unit retired for good: STATE 3, kept in the repair map. -/
def retireForGood (s : State) (kind a : Nat) : State :=
  let s := setUnitState s kind a 3
  { s with ras := { s.ras with retired := if s.ras.retired.contains (kind, a) then s.ras.retired else (kind, a) :: s.ras.retired } }

/-- The spare chosen: the lowest whose last swatch passed, for arrays one whose bed is in Run or Idle before the others (R454). -/
def chooseSpare (s : State) (kind : Nat) : Option Nat :=
  let l := (sparesOf s kind).filter fun a => !s.ras.swatchBad.contains (kind, a)
  match l.find? fun a => kind == 1 || bedState s (a / 8) < 2 with
  | some a => some a
  | none => l.head?

/-- A spare taken for a logical unit: under test, and for an array its bed woken to Idle for the copy (R404). -/
def takeSpare (s : State) (kind : Nat) : Option Nat × State :=
  match chooseSpare s kind with
  | some a =>
    let s := setUnitState s kind a 4
    (some a, if kind = 0 then bedToIdle s (a / 8) else s)
  | none => (none, s)

/-- No spare remains: the record, and a logical array is no longer mapped; an attention unit's map changes at the next boundary (R180,
R456, R457). -/
def exhausted (s : State) (kind lg a : Nat) : State :=
  let s := record s { code := 0x0804, sev := 2, unit := kind, inst := a, logical := lg }
  if kind = 0 then mapUnit s kind lg none else s

/-- Retirement of a unit in service starts at once (R453, R454, R457); of one already retiring, the fault may become definite. -/
def startRetire (s : State) (kind a : Nat) (definite : Bool) (cause : Nat) : State :=
  if unitCount kind ≤ a then s
  else if unitState s kind a = 2 then
    { s with ras := { s.ras with
        retires := s.ras.retires.map fun r => if r.kind == kind && r.phys == a then { r with definite := r.definite || definite } else r } }
  else if unitState s kind a ≠ 1 then s
  else
    let lg := logicalUnit s kind a
    let t := takeSpare (setUnitState s kind a 2) kind
    let r : Retire := { kind := kind, logical := lg, phys := a, spare := t.1, copied := kind == 1 || t.1.isNone,
                        definite := definite, cause := cause }
    let s := { t.2 with ras := { t.2.ras with retires := t.2.ras.retires ++ [r] } }
    if t.1.isNone then exhausted s kind lg a else s

/-- What the record of a finding on a task says besides. -/
def taskRec (i : Inst) (sl : Slot) (f : FaultRec) : FaultRec :=
  { f with flags := f.flags + instFlags i, ctx := i.ctx, object := i.num, task := sl.index }

/-- A finding that casts suspicion (R447, R448): a record with SUSPECT, and the instance or step marked. -/
def suspectTask (s : State) (i : Inst) (sl : Slot) (f : FaultRec) : State :=
  suspectInst (record s { taskRec i sl f with flags := f.flags + 1 + instFlags i }) i.num sl.index

/-! ### The repair copy (R113, R455) -/

/-- A retirement with its spare replaced. -/
def setRetire (s : State) (lg : Nat) (f : Retire → Retire) : State :=
  { s with ras := { s.ras with retires := s.ras.retires.map fun r => if r.kind == 0 && r.logical == lg then f r else r } }

/-- The copy into the spare of logical array `lg` ends: with an uncorrectable word in the spare, the spare is retired and the next
chosen; with one in the image, the image is invalid and the copy waits for its rebuild; else the remap is due at the next
boundary. -/
def repairCopyComplete (s : State) (lg : Nat) (e : Ecc) : State :=
  match s.ras.retires.find? fun r => r.kind == 0 && r.logical == lg && !r.copied with
  | none => s
  | some r =>
    match r.spare with
    | none => s
    | some sp =>
      if !bedPowered s (sp / 8) || fld s (rSHADOW_VALID (lg / 32)) (lg % 32) (lg % 32) = 0 then s
      else
        let spareBad := match e with
          | .uncorrectable 3 a => sliceBase sp ≤ a && a < sliceBase sp + 2 ^ 25
          | _ => false
        if spareBad then
          let t := takeSpare (retireForGood s 0 sp) 0
          let s := setRetire t.2 lg fun r => { r with spare := t.1, copied := t.1.isNone }
          if t.1.isNone then exhausted s 0 lg r.phys else s
        else
          match imageBad s lg true e with
          | o :: _ => shadowInvalid (markBad s 1 ((imageBase s lg + o) / 16)) lg (imageBase s lg + o)
          | [] => setRetire (loadSlice s sp lg true e) lg fun r => { r with copied := true }

def execRepairCopyComplete (logical : Nat) (ecc : Ecc) (s : State) : Host.Outcome State Fault Refusal :=
  .next (whenOn s fun s => repairCopyComplete s logical ecc)

/-! ### The remap at a boundary (R22, R454 steps 4 to 6) -/

/-- The UNIT_RETIRED record and event. -/
def unitRetired (s : State) (kind a : Nat) (spare : Option Nat) (lg left cause : Nat) : State :=
  let sev := if spare.isSome then 1 else 2
  let s := record s { code := 0x0801, sev := sev, unit := kind, inst := a, logical := lg, data := cause }
  notify s 0 0x0A18 0 sev
    (toLE 1 kind ++ toLE 1 left ++ toLE 2 a ++ toLE 2 (spare.getD 0xFFFF) ++ toLE 2 lg ++ toLE 2 cause)

/-- An instance of a kind without spares leaves service (R460). -/
def dropInstance (s : State) (kind a cause : Nat) : State :=
  let s := { s with ras := { s.ras with retired := if s.ras.retired.contains (kind, a) then s.ras.retired else (kind, a) :: s.ras.retired } }
  unitRetired s kind a none 0xFFFF 0 cause

/-- A released task that has not begun and names the logical array wakes the bed it will now run in (R47). -/
def wakeFor (s : State) (lg sp : Nat) : State :=
  if s.disp.window.any fun w => w.2.released && !w.2.begun && w.2.result.isNone && dEngine w.2.desc == 1
      && num w.2.desc 20 1 % 128 == lg then raiseBed s (sp / 8) else s

/-- A logical unit is served by the spare brought in for it, or, of an attention unit without one, by none. -/
def bringIn (s : State) (r : Retire) : State :=
  match r.spare with
  | some sp =>
    let s := mapUnit s r.kind r.logical (some sp)
    let s := setLogical (setUnitState s r.kind sp 1) r.kind sp r.logical
    if r.kind = 0 then wakeFor s r.logical sp else s
  | none => if r.kind = 1 then mapUnit s 1 r.logical none else s

/-- One retirement that is ready takes effect. Of a logical unit that no unit served, a spare is only brought in. -/
def remapOne (s : State) (r : Retire) : State :=
  if 2 ≤ r.kind then dropInstance s r.kind r.phys r.cause
  else
    let s := bringIn s r
    if unitCount r.kind ≤ r.phys then s
    else
      let s := setLogical s r.kind r.phys (noLogical r.kind)
      let s := if r.definite then retireForGood s r.kind r.phys else setUnitState s r.kind r.phys 4
      unitRetired s r.kind r.phys r.spare r.logical (sparesOf s r.kind).length r.cause

/-- Every retirement that is ready takes effect, the lower physical unit first. -/
def remapAll (s : State) : State :=
  let due := sortBy (fun r => r.phys) (s.ras.retires.filter (·.copied))
  due.foldl remapOne { s with ras := { s.ras with retires := s.ras.retires.filter fun r => !r.copied } }

/-- The spare that already holds the copy of a logical array and is to serve it from the next boundary on. -/
def copiedSpare (s : State) (lg : Nat) : Option Nat :=
  (s.ras.retires.find? fun r => r.kind == 0 && r.logical == lg && r.copied).bind (·.spare)

/-- Logical arrays that a definite fault keeps from being used until their remap (R454 step 3). -/
def barredArrays (s : State) : List Nat :=
  (s.ras.retires.filter fun r => r.kind == 0 && r.definite).map (·.logical)

/-! ### Commons banks (R14, R458, Table 5.14) -/

/-- The physical bank that serves a logical one. -/
def bankOf (s : State) (b : Nat) : Nat := (look s.ras.bankMap b).getD b
/-- The logical bank a physical one serves. -/
def bankServed (s : State) (p : Nat) : Option Nat := (List.range 128).find? fun b => bankOf s b == p
/-- Spare banks not yet brought into service. -/
def spareBanks (s : State) : List Nat :=
  (List.range 4).filterMap fun i =>
    let p := 128 + i
    if s.ras.banksBad.contains p || (s.ras.bankMap.any fun x => x.2 == p) || (s.ras.bankCopy.any fun x => x.2.1 == p) then none else some p
/-- COMMONS_INFO as the bank map has it. -/
def bankInfo (s : State) : State :=
  let lost := ((List.range 128).filter fun b => s.ras.banksBad.contains (bankOf s b)).length
  wr s rCOMMONS_INFO ((spareBanks s).length * 256 + (128 - lost))
/-- A physical bank replaced at once by a spare, where one remains; without one its logical bank is out of service. -/
def replaceBank (s : State) (p : Nat) : State :=
  let s := { s with ras := { s.ras with banksBad := if s.ras.banksBad.contains p then s.ras.banksBad else p :: s.ras.banksBad } }
  bankInfo (match bankServed s p, spareBanks s with
    | some b, q :: _ => { s with ras := { s.ras with bankMap := put s.ras.bankMap b q } }
    | _, _ => s)

end Sys2Proof.Machine
end

