-- ==== Sys2Proof/Machine/Arrays.lean ====
section
/-! DEFINITION. The ternary arrays: tiles, activation blocks, passes, spills, the reduction network and the drains (02, 03, 04,
06). -/

namespace Sys2Proof.Machine

/-! ### Array tasks (R37, R38, R87) -/

def aFIRST (d : Bytes) : Nat := num d 16 2 % 2048
def aCOUNT (d : Bytes) : Nat := num d 18 2 % 2048
def aARRAY (d : Bytes) : Nat := num d 20 1 % 128
def aMODE (d : Bytes) : Nat := num d 21 1 % 8
def aWSHIFT (d : Bytes) : Nat := bits 3 3 (num d 21 1)
def aSTART (d : Bytes) : Nat := bits 5 4 (num d 21 1)
def aEND (d : Bytes) : Nat := bits 7 6 (num d 21 1)
def aTOKENS (d : Bytes) : Nat := num d 22 1 % 128
def aACT (d : Bytes) : Nat := num d 24 4
def aKS (d : Bytes) : Nat := num d 28 4
def aSLOT (d : Bytes) : Nat := num d 32 2 % 1024
def aHOME (d : Bytes) : Bool := bit 7 (num d 34 1)
def aCONTRIB (d : Bytes) : Nat := num d 34 1 % 128
def aSPILL (d : Bytes) : Nat := num d 36 4
def aOUT (d : Bytes) : Nat := num d 40 4
def aSCALE (d : Bytes) : Nat := num d 44 4
def aSTAT (d : Bytes) : Nat := num d 48 4
def aQS (d : Bytes) : Nat := num d 52 4
def aOSTR (d : Bytes) : Nat := num d 56 2
def aFMT (d : Bytes) : Nat := num d 58 1
def aDF (d : Bytes) : Nat := num d 59 1
def aSTATABS (d : Bytes) : Bool := bit 7 (aDF d)
def aSTATEN (d : Bytes) : Bool := bit 6 (aDF d)
def aSAT (d : Bytes) : Bool := bit 5 (aDF d)
def aCOL (d : Bytes) : Bool := bit 4 (aDF d)
def aTOK (d : Bytes) : Bool := bit 3 (aDF d)
def aRM (d : Bytes) : RMode := rmodeOf (aDF d % 4) 0 0 0
def aSSTR (d : Bytes) : Nat := if num d 60 2 = 0 then 16 else num d 60 2
def aInt (d : Bytes) : Bool := aFMT d == 0x48 || aFMT d == 0x50
/-- The bytes of a spill row, and of a spill buffer. -/
def spillRow : Nat := 1536
def spillBytes (t : Nat) : Nat := 64 + spillRow * t

/-- The drain control of a home task (R87). -/
def drainCheck (d : Bytes) : Bool :=
  let t := aTOKENS d
  aEND d == 0 && (aInt d || aFMT d == 0x80 || aFMT d == 0x81 || aFMT d == 0x82) && aDF d % 4 < 2 && !bit 2 (aDF d)
  && num d 62 2 == 0 && aOUT d % 64 == 0 && aOSTR d % 64 == 0 && 256 * elemSize (aFMT d) ≤ aOSTR d
  && inCommons (aOUT d) (extent t (aOSTR d) (256 * elemSize (aFMT d))) 64
  && (!aTOK d || inCommons (aSCALE d) (4 * t) 4)
  && (!aSTATEN d || (aSSTR d % 16 == 0 && inCommons (aSTAT d) (extent t (aSSTR d) 16) 16))
  && (!(aInt d && (aTOK d || aCOL d)) || (isFinite f32 (aQS d) && lt32 0 (aQS d)))

/-- An array task passes the check of its operand area (R38). -/
def arrayCheck (s : State) (d : Bytes) : Bool :=
  num d 16 2 < 2048 && num d 18 2 < 2048 && num d 20 1 < 128 && aARRAY d < 96 && fld s (rARRAY_MAP (aARRAY d)) 7 7 == 1
  && 1 ≤ aCOUNT d && aFIRST d + aCOUNT d ≤ sliceSlots && aEND d < 2 && aSTART d < 2 && aMODE d < 3
  && num d 22 1 < 128 && aTOKENS d ≤ 64 && num d 23 1 == 0 && num d 32 2 < 1024 && num d 35 1 == 0
  && aACT d % 64 == 0 && aKS d % 64 == 0 && inCommons (aACT d) ((aCOUNT d - 1) * aKS d + 64) 64
  && (aEND d != 0 || (1 ≤ aCONTRIB d && aCONTRIB d ≤ 96))
  && (!(aSTART d == 1 || aEND d == 1) || inCommons (aSPILL d) (spillBytes (max 1 (aTOKENS d))) 64)
  && (!aHOME d || drainCheck d)

/-! ### The run of a task on its array -/

def modArr (s : State) (a : Nat) (f : Arr → Arr) : State := setArr s a (f (arrOf s a))

/-- The task an array runs: its run, window slot and instance. -/
def running (s : State) (a : Nat) : Option (ArrRun × Slot × Inst) :=
  match (arrOf s a).run with
  | none => none
  | some r =>
    match look s.disp.window r.slot, instOf s r.inst with
    | some sl, some i => some (r, sl, i)
    | _, _ => none

/-- The array's work ends: the bed's time without a task begins (R403). -/
def arrDone (s : State) (a : Nat) : State :=
  { modArr s a (fun x => { x with run := none }) with
    power := { s.power with lastTask := put s.power.lastTask (a / 8) s.time } }

/-- The accumulators a task leaves when it ends without a partial: those of the rows that an open slot still holds (R32, R42). -/
def heldRows (x : Arr) : List (Nat × Int) := x.acc.filter fun c => x.out.contains (c.1 / 256)

/-- A task ends with a fault and no partial: its accumulator rows are free again, and a tile loaded ahead for its chain goes with
it (R30, R32). -/
def arrAbort (s : State) (a slot st : Nat) : State :=
  endTask (arrDone (modArr s a fun x => { x with acc := heldRows x, filling := none }) a) slot st

/-- The tile the active buffer holds is the one in the slice's slot, unchanged (R31, log 15). -/
def tileHeld (s : State) (a t : Nat) (b : Option TileReg) : Bool :=
  match b with
  | none => false
  | some r =>
    r.tile == t && r.entry == dirEntry s 3 (sliceBase a) t &&
    r.cells == ((s.mem.slices.filter fun c => sliceBase a + slotBytes * t ≤ c.1 && c.1 < sliceBase a + slotBytes * t
      + recordLen r.entry).map
        fun c => (c.1 - sliceBase a - slotBytes * t, c.2))

/-- A task of the logical array runs, be it on the physical array that served it before a remap (R224, R454). -/
def logicalBusy (s : State) (n : Nat) : Bool :=
  s.arr.arrays.any fun x => match x.2.run with
    | some r => r.logical == n
    | none => false

/-- A released array task begins on its array (R36, R39). It waits while its bed does not run or the array has a task; a logical
array no longer mapped fails it (R456). -/
def arrayTask (s : State) (slot : Nat) : State :=
  match released s slot 1 (fun _ => true) with
  | none => s
  | some (sl, i) =>
    let n := aARRAY sl.desc
    let a := physOf s n
    if aTOKENS sl.desc = 0 then endTask s slot stOK
    else if fld s (rARRAY_MAP n) 7 7 = 0 then endTask s slot stParam
    else if !bedRuns s (a / 8) || (arrOf s a).run.isSome || logicalBusy s n then s
    else
      let ref := fld s rARRAY_CTL 2 2 == 1 || sl.forceRef
      let mode := if ref && aMODE sl.desc != 1 then 2 else aMODE sl.desc
      let r : ArrRun := { slot := slot, inst := i.num, index := sl.index, logical := n, mode := mode,
                          skip := mode == 0 && fld s rARRAY_CTL 0 0 == 1, pos := 0,
                          loaded := tileHeld s a (aFIRST sl.desc) (arrOf s a).active, fetched := false, badAct := false }
      beginTask (modArr s a fun x => { x with run := some r }) slot

def execArrayTask (slot : Nat) (s : State) : Host.Outcome State Fault Refusal := .next (arrayTask s slot)

/-! ### Tile load (R30–R33, R55, R98–R104, R131) -/

/-- The record of a slot as the loader takes it. -/
def readRecord (s : State) (a t : Nat) : TileReg :=
  let e := dirEntry s 3 (sliceBase a) t
  let base := sliceBase a + slotBytes * t
  { tile := t, entry := e,
    cells := (s.mem.slices.filter fun c => base ≤ c.1 && c.1 < base + recordLen e).map fun c => (c.1 - base, c.2) }

/-- The bytes of value 243 to 255 in the packed area of a dense record (R55). -/
def badCodes (r : TileReg) : Nat :=
  if bit 8 r.entry then 0 else (r.cells.filter fun c => c.1 < 26215 && 243 ≤ c.2.toNat).length

/-- The first address of a record that does not decode. -/
def recordUe (s : State) (a : Nat) (r : TileReg) (e : Ecc) : Option Nat :=
  let base := sliceBase a + slotBytes * r.tile
  match firstBad s 3 base (recordLen r.entry), e with
  | some x, _ => some x
  | none, .uncorrectable 3 x => if covers base (recordLen r.entry) x then some x else none
  | none, _ => none

/-- An uncorrectable slice read ends the task without a partial (R32). -/
def sliceUe (s : State) (a : Nat) (r : ArrRun) (sl : Slot) (i : Inst) (x : Nat) : State :=
  let f : FaultRec := { code := 0x0101, sev := 2, unit := 0, inst := a, status := stFault, logical := r.logical,
                        addr := x - sliceBase a, space := 3 }
  let s := record (markBad s 3 (x / 16)) (taskRec i sl f)
  arrAbort s a r.slot stFault

/-- A tile record completes loading: that of the chain's next tile, or, while a pass runs, the one after it into the filling
buffer (R30). -/
def tileLoad (s : State) (a : Nat) (e : Ecc) : State :=
  match running s a with
  | none => s
  | some (r, sl, i) =>
    let x := arrOf s a
    let ahead := r.loaded
    let pos := if ahead then r.pos + 1 else r.pos
    if aCOUNT sl.desc ≤ pos || (ahead && x.filling.isSome) then s
    else
      let t := readRecord s a (aFIRST sl.desc + pos)
      match recordUe s a t e with
      | some u => sliceUe s a r sl i u
      | none =>
        let s := match e with
          | .corrected 3 u => if covers (sliceBase a + slotBytes * t.tile) (recordLen t.entry) u then sliceCe s a u else s
          | _ => s
        let s := bump s rPACK_STAT 15 0 (badCodes t)
        modArr s a fun x =>
          if ahead then { x with filling := some t } else { x with active := some t, run := some { r with loaded := true } }

def execTileLoad (array : Nat) (ecc : Ecc) (s : State) : Host.Outcome State Fault Refusal := .next (tileLoad s array ecc)

/-- A corrected line written back in a free cycle of the slice port; its data is what it was (R103). -/
def sliceWriteback (s : State) (a line : Nat) : State :=
  { s with ras := { s.ras with sliceWb := s.ras.sliceWb.filter (· != (a, line)) } }

def execSliceWriteback (array : Nat) (line : Nat) (s : State) : Host.Outcome State Fault Refusal :=
  .next (sliceWriteback s array line)

/-- The non-zero trits of a dense record: row, column, whether −1 (R51–R55). -/
def denseTrits (cells : Memory) : List (Nat × Nat × Bool) :=
  cells.flatMap fun c =>
    if c.1 < 26215 && c.2.toNat < 243 then
      (List.range 5).filterMap fun j =>
        let d := c.2.toNat / 3 ^ j % 3
        let i := 5 * c.1 + j
        if d = 0 ∨ 131072 ≤ i then none else some (i / 256, i % 256, d == 2)
    else []

/-- The state of a skein expansion: level-1 offset, level-2 offset, sign index, trits so far. -/
structure Skein where
  a1   : Nat
  a2   : Nat
  s    : Nat
  out  : List (Nat × Nat × Bool)
  deriving DecidableEq, Repr

/-- One row of a block: its non-zero bitmap and the signs of its trits (R131). -/
def skeinRow (cells : Memory) (sg b : Nat) (k : Skein) (i : Nat) : Skein :=
  let nz := bitList 64 (ofLE (peeks cells k.a2 8))
  let row := nz.zip (List.range nz.length)
  { k with a2 := k.a2 + 8, s := k.s + nz.length,
           out := k.out ++ row.map fun x =>
             (64 * (b / 4) + i, 64 * (b % 4) + x.1, bit ((k.s + x.2) % 8) (peek cells (sg + (k.s + x.2) / 8)).toNat) }

/-- A skein record expanded (R131, R134). -/
def skeinTrits (cells : Memory) : List (Nat × Nat × Bool) :=
  let nblk := ofLE (peeks cells 512 2)
  let nrow := ofLE (peeks cells 514 2)
  let l0 := ofLE (peeks cells 520 4)
  let sg := 528 + 8 * nblk + 8 * nrow
  ((List.range 32).foldl (fun (k : Skein) b =>
    if bit b l0 then (bitList 64 (ofLE (peeks cells k.a1 8))).foldl (skeinRow cells sg b) { k with a1 := k.a1 + 8 } else k)
    { a1 := 528, a2 := 528 + 8 * nblk, s := 0, out := [] }).out

def tileTrits (t : TileReg) : List (Nat × Nat × Bool) := if bit 8 t.entry then skeinTrits t.cells else denseTrits t.cells

/-- The 512 bytes of column scales of a tile, by offset (R60). -/
def tileScales (t : TileReg) : Memory :=
  let o := if bit 8 t.entry then 0 else 26240
  (t.cells.filter fun c => o ≤ c.1 && c.1 < o + 512).map fun c => (c.1 - o, c.2)

/-! ### Activation blocks (R34, R63, R64) -/

/-- The bytes of the block a header names, or of the header alone where it is invalid for the task: no activation code, an
unsigned code in XNOR mode, or a block that leaves the commons (log 13). -/
def actLen (mode code addr tokens : Nat) : Option Nat :=
  match actFmt code with
  | none => none
  | some (sg, _, _) =>
    let n := 64 + tokens * actPlanes code * 64
    if (mode = 1 ∧ !sg) ∨ 2 ^ 28 < addr + n then none else some n

/-- The ranges of the block that the loader reads: its header, and of each token all planes, or in XNOR mode the sign plane alone
(R29). -/
def actReads (mode code addr tokens : Nat) : List (Nat × Nat) :=
  match actLen mode code addr tokens with
  | none => [(addr, 64)]
  | some n =>
    if mode = 1 then (addr, 64) :: (List.range tokens).map fun k => (addr + 64 + k * actPlanes code * 64, 64) else [(addr, n)]

/-- The commons bytes of the ranges, by offset from an address. -/
def actCells (s : State) (addr : Nat) (l : List (Nat × Nat)) : Memory :=
  if s.ras.collided.isEmpty then
    (s.mem.commons.filter fun c => l.any fun r => r.1 ≤ c.1 && c.1 < r.1 + r.2).map fun c => (c.1 - addr, c.2)
  else l.foldl (fun m r => pokes m (r.1 - addr) (ldSide s false r.1 r.2)) []

/-- The loader has had the undefined data of collided reads in the ranges (R121). -/
def actTaken (s : State) (l : List (Nat × Nat)) : State := l.foldl (fun s r => delivered s false r.1 r.2) s

/-- The tile of the chain whose block the loader fetches next: the current one, or, while it has that, the one after it (R34). -/
def fetchPos (r : ArrRun) (count : Nat) : Option Nat :=
  if !r.fetched then some r.pos else if !r.ahead && r.pos + 1 < count then some (r.pos + 1) else none

/-- A block put in the buffer: the current tile's first, the next tile's in the half not in use. -/
def putHalf (x : Arr) (r : ArrRun) (h : ActHalf) : Arr :=
  if r.fetched then
    { x with halves := x.halves.take 1 ++ (if x.halves.head? = some h then x.halves.drop 1 else [h]), run := some { r with ahead := true } }
  else { x with halves := (h :: x.halves.filter fun o => o != h).take 2, run := some { r with fetched := true } }

/-- The half that holds the next tile's block becomes the one in use. -/
def turnHalves (hs : List ActHalf) (addr tokens : Nat) : List ActHalf :=
  match hs.find? fun h => h.addr == addr && h.tokens == tokens with
  | some h => h :: hs.filter fun o => o != h
  | none => hs

/-- A block completes in the free half of the buffer: the current tile's, or the next one's while a pass runs (R34). A block the
buffer already holds, unchanged, is not read again (log 15). -/
def actBlockFetch (s : State) (a : Nat) (e : Ecc) : State :=
  match running s a with
  | none => s
  | some (r, sl, i) =>
    match fetchPos r (aCOUNT sl.desc) with
    | none => s
    | some p =>
      let addr := aACT sl.desc + p * aKS sl.desc
      let t := aTOKENS sl.desc
      let l := actReads r.mode (ofLE (ldSide s false addr 1)) addr t
      let half : ActHalf := { addr := addr, tokens := t, cells := actCells s addr l }
      if (arrOf s a).halves.contains half && !(l.any fun x => badIn s 0 x.1 x.2) then modArr s a fun x => putHalf x r half
      else
        let ue := match l.findSome? fun x => firstBad s 0 x.1 x.2, e with
          | some x, _ => some x
          | none, .uncorrectable 0 x => if l.any fun r => covers r.1 r.2 x then some x else none
          | none, _ => none
        match ue with
        | some x => arrAbort (readUe (markBad s 0 (x / 16)) 0 x (blameOf i sl)) a r.slot stFault
        | none =>
          let s := match e with
            | .corrected 0 x => if l.any fun r => covers r.1 r.2 x then readCe s 0 x else s
            | _ => s
          modArr (actTaken s l) a fun x => putHalf x r half

def execActBlockFetch (array : Nat) (ecc : Ecc) (s : State) : Host.Outcome State Fault Refusal :=
  .next (actBlockFetch s array ecc)

/-- Bit `k` of a 64-byte plane held as cells. -/
def cellBit (m : Memory) (o k : Nat) : Bool := bit (k % 8) (peek m (o + k / 8)).toNat

/-- The activation of row `k` of a token whose record starts at `o`, in sign-magnitude form (R24); in XNOR mode ±1 by its sign
plane alone (R29). -/
def actValue (mode code : Nat) (m : Memory) (o k : Nat) : Int :=
  match actFmt code with
  | none => 0
  | some (sg, p, _) =>
    let neg := sg && cellBit m o k
    let mag := if mode = 1 then 1
      else sumOf ((List.range p).map fun j => if cellBit m (o + 64 * (j + b2n sg)) k then 2 ^ j else 0)
    if neg then -(mag : Int) else mag

/-- The magnitude planes of a token that are not all zero (R27). -/
def livePlanes (code : Nat) (m : Memory) (o : Nat) : Nat :=
  match actFmt code with
  | none => 0
  | some (sg, p, _) =>
    ((List.range p).filter fun j => m.any fun c => o + 64 * (j + b2n sg) ≤ c.1 && c.1 < o + 64 * (j + b2n sg) + 64).length

/-- The cycles of a pass and the planes it skips (R28, R29, R46, R64). -/
def passCost (mode : Nat) (skip bad : Bool) (code t : Nat) (m : Memory) : Nat × Nat :=
  match actFmt code with
  | none => (t, 0)
  | some (sg, p, _) =>
    if bad || mode = 1 then (t, 0)
    else if mode = 2 then (t * (if sg then 7 else 8), 0)
    else if skip then
      let q := (List.range t).map fun k => livePlanes code m (64 + k * actPlanes code * 64)
      (sumOf (q.map (max 1)), sumOf (q.map (p - ·)))
    else (t * p, 0)

/-- A tile's pass over the tokens added into the accumulator rows (R24, R26, R80). -/
def passAdd (mode code wshift t : Nat) (m : Memory) (trits : List (Nat × Nat × Bool)) (acc : List (Nat × Int)) : List (Nat × Int) :=
  (List.range t).foldl (fun acc tok =>
    let o := 64 + tok * actPlanes code * 64
    trits.foldl (fun acc x =>
      let v := actValue mode code m o x.1 * (2 ^ wshift : Nat)
      let v := if x.2.2 then -v else v
      if v = 0 then acc else put acc (tok * 256 + x.2.1) ((look acc (tok * 256 + x.2.1)).getD 0 + v)) acc) acc

/-! ### The reduction network: mismatches (R42, R43) -/

/-- Rows given up by an array come back to it one by one. -/
def returnRows (s : State) (a : Nat) : State := modArr s a fun x => { x with ret := x.ret ++ x.out, out := [] }

def setSlot (s : State) (n : Nat) (r : Option RedSlot) : State :=
  { s with arr := { s.arr with slots := match r with
      | some x => put s.arr.slots n x
      | none => del s.arr.slots n } }

def freeLatch (s : State) (a slot : Nat) : State := modArr s a fun x => { x with latches := del x.latches slot }

/-- What a part's array and task see of a discard: rows back, the home's latch free, a waiting task ended with BAD_PARAM, and
the instance of one that has ended failed. -/
def discardPart (slot : Nat) (s : State) (p : Part) : State :=
  let s := returnRows s p.array
  let s := if p.home then freeLatch s p.array slot else s
  match look s.disp.window p.win with
  | some sl => if sl.inst = p.inst ∧ sl.index = p.index ∧ sl.result.isNone then endTask s p.win stParam else failNow s p.inst stParam p.index
  | none => failNow s p.inst stParam p.index

/-- The instance of a discarded part fails; of several of its tasks the lowest index is its failing task (R228). -/
def failPart (parts : List Part) (s : State) (p : Part) : State :=
  failInst s p.inst stParam ((parts.filter (·.inst == p.inst)).foldl (fun m q => min m q.index) p.index)

/-- A reduction mismatch: the slot is discarded, with the refused partial if there is one; one record and count (R43). The record names
the part emitted last. -/
def mismatch (s : State) (slot : Nat) (held contrib cause : Nat) (parts : List Part) : State :=
  let s := bump (setSlot s slot none) rRED_STAT 15 0 1
  let data := held + contrib * 2 ^ 32 + cause * 2 ^ 40
  let s := match parts.getLast? with
    | some p =>
      let f : FaultRec := { code := 0x0105, sev := 2, unit := 3, inst := p.array, status := stParam, object := p.inst,
                            logical := logicalOf s p.array, task := p.index, data := data }
      record s (match instOf s p.inst with
        | some i => { f with ctx := i.ctx, flags := instFlags i }
        | none => f)
    | none => record s { code := 0x0105, sev := 2, unit := 3, status := stParam, data := data }
  parts.foldl (discardPart slot) (parts.foldl (failPart parts) s)

/-- The cause of the mismatch an emit is, in the order of the list, if it is one (R43). -/
def emitCause (r : RedSlot) (contrib tokens : Nat) (home : Bool) : Option Nat :=
  let homes := r.parts.any (·.home)
  if contrib ≠ r.contrib then some 1
  else if home && homes then some 2
  else if tokens ≠ r.tokens then some 3
  else if r.contrib ≤ r.parts.length then some 4
  else if !home && !homes && r.parts.length + 1 = r.contrib then some 5
  else none

/-- A partial emitted into a slot (R42, R43). A task that is not home has ended with its emit (R41). -/
def emitPart (s : State) (d : Bytes) (p : Part) : State :=
  let n := aSLOT d
  let r := (look s.arr.slots n).getD { contrib := aCONTRIB d, tokens := aTOKENS d, parts := [] }
  match emitCause r (aCONTRIB d) (aTOKENS d) p.home with
  | some c => mismatch s n (r.parts.length + (if c = 5 then 1 else 0)) r.contrib c (r.parts ++ [p])
  | none =>
    let s := setSlot s n (some { r with parts := r.parts ++ [p] })
    if p.home then s else endTask s p.win (if p.bad then stParam else stOK)

/-! ### The end of a pass (R41, R45, R82–R86, R447, R448) -/

/-- Sums of 48 bits saturate (R86). -/
def wideLimit : Int := 140737488355327
def wide (x : Int) : Int := clampInt (-wideLimit) wideLimit x

/-- A spill buffer's row as stored, and the sums of its rows with the residency: the sums and how many saturated. -/
def spillValue (s : State) (base t n : Nat) : Int := sext 48 (ofLE (ldSide s false (base + 64 + t * spillRow + 6 * n) 6))
def resumeSums (s : State) (base tokens : Nat) (acc : List (Nat × Int)) : List (Nat × Int) × Nat :=
  (List.range (tokens * 256)).foldl (fun r k =>
    let v := (look acc k).getD 0 + spillValue s base (k / 256) (k % 256)
    let w := wide v
    (if w = 0 then r.1 else r.1 ++ [(k, w)], if w = v then r.2 else r.2 + 1)) ([], 0)

/-- The rows of a residency as a spill buffer holds them. -/
def spillRows (tokens : Nat) (acc : List (Nat × Int)) : Bytes :=
  (List.range (tokens * 256)).flatMap fun k => toLE 6 (wrapInt 48 ((look acc k).getD 0))

/-- The rows of a residency given up: to the network with END = 0, to the spill buffer with END = 1 (R40). -/
def giveRows (s : State) (a tokens : Nat) (spill : Bool) : State :=
  modArr s a fun x => if spill then { x with ret := x.ret ++ List.range tokens } else { x with out := x.out ++ List.range tokens }

/-- The latch a task bound at its last pass is free again, when the task ends with nothing for the slot to drain (R45, log 56). -/
def dropLatch (s : State) (a : Nat) (d : Bytes) : State := if aHOME d then freeLatch s a (aSLOT d) else s

/-- The chain has ended: emit or spill (Table 4.2). What the spec leaves open about a refused resume and the spill header is in
log 56. -/
def chainEnd (s : State) (a : Nat) (r : ArrRun) (sl : Slot) (i : Inst) : State :=
  let d := sl.desc
  let t := aTOKENS d
  let base := aSPILL d
  let resume := aSTART d == 1
  let part : Part := { array := a, inst := i.num, index := sl.index, win := r.slot, home := aHOME d, bad := r.badAct }
  let acc := (arrOf s a).acc
  match if resume then firstBad s 0 base (spillBytes t) else none with
  | some x => arrAbort (dropLatch (readUe s 0 x (blameOf i sl)) a d) a r.slot stFault
  | none =>
    let side := fun x n => ofLE (ldSide s false x n)
    if resume && (side (base + 2) 1 != 1 || side base 2 % 128 != t) then
      let s := arrDone (modArr (dropLatch (delivered s false base 64) a d) a fun x => { x with acc := heldRows x }) a
      let sl := if aEND d = 0 then look s.arr.slots (aSLOT d) else none
      match sl with
      | some q => mismatch s (aSLOT d) q.parts.length q.contrib 7 (q.parts ++ [part])
      | none => mismatch s 1024 0 0 7 [part]
    else
      let sums := if resume then resumeSums s base t acc else (acc, 0)
      let s := if resume then delivered s false base (spillBytes t) else s
      let s := bump s rACC_STAT 31 16 sums.2
      let s := giveRows (modArr s a fun x => { x with acc := sums.1 }) a t (aEND d == 1)
      let s := arrDone s a
      if aEND d = 1 then
        let s := if resume then st s 0 (base + 4) (toLE 4 (side (base + 4) 4 + 1))
          else st s 0 base (toLE 2 t ++ [1, 0] ++ toLE 4 1 ++ zeros 56)
        endTask (st s 0 (base + 64) (spillRows t sums.1)) r.slot (if r.badAct then stParam else stOK)
      else emitPart (if resume then st s 0 (base + 2) [2] else s) d part

/-- The credits of the rows a pass needs, and a latch for the last pass of a home task, are at hand (R40, R45). -/
def creditsHeld (s : State) (a : Nat) (r : ArrRun) (d : Bytes) : Bool :=
  let x := arrOf s a
  (r.pos != 0 || (List.range (aTOKENS d)).all fun k => !x.out.contains k && !x.ret.contains k)
  && (!(aHOME d && r.pos + 1 == aCOUNT d) || x.latches.length < 2)

/-- The tile and the block are in place, and nothing holds the pass (R34, R40, R45). -/
def passReady (s : State) (a : Nat) (r : ArrRun) (d : Bytes) : Bool := r.loaded && r.fetched && creditsHeld s a r d

/-- An invalid activation header, counted and recorded once for the task (R64). -/
def badAct (s : State) (a : Nat) (r : ArrRun) (sl : Slot) (i : Inst) : State :=
  if r.badAct then s
  else record (bump s rPACK_STAT 31 16 1)
    (taskRec i sl { code := 0x0106, sev := 2, unit := 0, inst := a, status := stParam, logical := r.logical })

/-- A residue mismatch or a reference pass of the wrong length (R447, R448): suspicion, and the array's retirement. -/
def passChecks (s : State) (a : Nat) (r : ArrRun) (sl : Slot) (i : Inst) (residueOk timingOk : Bool) : State :=
  let s := if residueOk then s
    else startRetire (suspectTask s i sl { code := 0x0103, sev := 1, unit := 0, inst := a, logical := r.logical }) 0 a false 0x0103
  if timingOk || r.mode != 2 then s
  else startRetire (suspectTask s i sl { code := 0x0104, sev := 1, unit := 0, inst := a, logical := r.logical }) 0 a false 0x0104

/-- A pass ends. The last one of the chain ends the residency. -/
def passEnd (s : State) (a : Nat) (residueOk timingOk : Bool) : State :=
  match running s a with
  | none => s
  | some (r, sl, i) =>
    let d := sl.desc
    match (arrOf s a).active, (arrOf s a).halves with
    | some tile, half :: _ =>
      if !passReady s a r d then s
      else
        let t := aTOKENS d
        let code := (peek half.cells 0).toNat
        let bad := (actLen r.mode code half.addr t).isNone
        let cost := passCost r.mode r.skip bad code t half.cells
        let s := if bad then badAct s a r sl i else s
        let s := bump64 (bump64 s (rARRAY_PERF a) cost.1) (rARRAY_PERF a + 8) cost.2
        let acc := if r.pos = 0 then [] else (arrOf s a).acc
        let acc := if bad then acc else passAdd r.mode code (aWSHIFT d) t half.cells (tileTrits tile) acc
        let last := r.pos + 1 == aCOUNT d
        let r := { r with badAct := r.badAct || bad }
        let s := modArr s a fun x => { x with acc := acc, run := some r }
        let s := passChecks s a r sl i residueOk timingOk
        if last then
          let s := if aHOME d then modArr s a fun x => { x with latches := put x.latches (aSLOT d) (tileScales tile) } else s
          chainEnd s a r sl i
        else
          let next := fun (b : Bool) => { r with pos := r.pos + 1, loaded := b, fetched := r.ahead, ahead := false }
          modArr s a fun x =>
            let x := if r.ahead then { x with halves := turnHalves x.halves (aACT d + (r.pos + 1) * aKS d) t } else x
            if x.filling.isSome then { x with active := x.filling, filling := none, run := some (next true) }
            else { x with run := some (next false) }
    | _, _ => s

def execPassEnd (array : Nat) (residueOk timingOk : Bool) (s : State) : Host.Outcome State Fault Refusal :=
  .next (passEnd s array residueOk timingOk)

/-- The credit of a row returns (R40). -/
def creditReturn (s : State) (a row : Nat) : State :=
  modArr s a fun x => { x with ret := x.ret.erase row, acc := x.acc.filter fun c => !(x.ret.contains row && c.1 / 256 == row) }

def execCreditReturn (array row : Nat) (s : State) : Host.Outcome State Fault Refusal := .next (creditReturn s array row)

/-! ### The drain (R88–R90) -/

/-- A drained element's exact value, its FP32 form, and its output. -/
def drainValue (sum : Int) (st cn : Option Nat) : Val := scaled sum st cn

/-- One output row and its statistics record. -/
def drainRow (d : Bytes) (sums : List Int) (st : Option Nat) (scales : Memory) : OutElem × Bytes :=
  let cols := sums.zip (List.range sums.length)
  let vs := cols.map fun x => drainValue x.1 st (if aCOL d then some (ofLE (peeks scales (2 * x.2) 2)) else none)
  let outs := if aInt d && (aTOK d || aCOL d) then vs.map fun v => v.mul (decode f32 (aQS d)) else vs
  let ys := vs.map (rne f32)
  let stat :=
    if ys.any (isNan f32) then toLE 4 f32.nan ++ toLE 4 f32.nan ++ toLE 4 f32.nan
    else toLE 4 (maxAll (if aSTATABS d then ys.map abs32 else ys)) ++ toLE 4 (treeSum f32 8 ys).1
      ++ toLE 4 (treeSum f32 8 (ys.map fun y => mul32 y y)).1
  (outRow (aFMT d) (fun _ => aRM d) (aSAT d) outs, stat ++ zeros 4)

/-- The exact sum of a slot's partials for a token and a column, saturated at 48 bits. -/
def slotSum (s : State) (parts : List Part) (k : Nat) : Int := parts.foldl (fun v p => v + (look (arrOf s p.array).acc k).getD 0) 0

/-- The rows of a slot drained by its home array (R88, R89). -/
def drainRows (s : State) (d : Bytes) (parts : List Part) (scales : Memory) : State :=
  (List.range (aTOKENS d)).foldl (fun acc t =>
    let raw := (List.range 256).map fun n => slotSum s parts (t * 256 + n)
    let sums := raw.map wide
    let x := drainRow d sums (if aTOK d then some (ldN s 0 (aSCALE d + 4 * t) 4) else none) scales
    let acc := st (bump acc rACC_STAT 31 16 ((raw.filter fun v => wide v != v).length)) 0 (aOUT d + t * aOSTR d) x.1.bytes
    let acc := if x.1.sat = 0 then acc else bump acc rNUM_SAT 31 0 x.1.sat
    let acc := if x.1.nan = 0 then acc else bump acc rNUM_NAN 31 0 x.1.nan
    if aSTATEN d then st acc 0 (aSTAT d + t * aSSTR d) x.2 else acc) s

/-- The task of a part has signalled: it no longer holds its window slot (R20, R41). -/
def signalled (s : State) (p : Part) : Bool :=
  match look s.disp.window p.win with
  | some sl => !(sl.inst == p.inst && sl.index == p.index)
  | none => true

/-- A full slot with its home drain free, whose other contributors have signalled (R20), is read, summed and drained; the rows' credits are on their way back, and the home task
has ended (R42, R45, R90). -/
def slotReduce (s : State) (n : Nat) (residueOk : Bool) : State :=
  match look s.arr.slots n with
  | none => s
  | some r =>
    match r.parts.find? (·.home) with
    | none => s
    | some h =>
      match look s.disp.window h.win with
      | none => s
      | some sl =>
        if r.parts.length ≠ r.contrib || !(r.parts.all fun p => p.home || signalled s p) then s
        else
          let d := sl.desc
          let scales := (look (arrOf s h.array).latches n).getD []
          let close := fun (s : State) => r.parts.foldl (fun s p => returnRows s p.array) (freeLatch (setSlot s n none) h.array n)
          match instOf s h.inst, if aTOK d then firstBad s 0 (aSCALE d) (4 * r.tokens) else none with
          | some i, some x => endTask (close (readUe s 0 x (blameOf i sl))) h.win stFault
          | some i, none =>
            let s := if residueOk then s
              else suspectTask s i sl { code := 0x0105, sev := 2, unit := 3, inst := h.array, logical := aARRAY d,
                                        data := r.parts.length + r.contrib * 2 ^ 32 }
            endTask (close (drainRows s d r.parts scales)) h.win (if h.bad then stParam else stOK)
          | none, _ => close s

/-! ### Waiting, as it is counted (R34, R40, R45, R47) -/

/-- An array task has been released to the physical array and waits for its bed (R47). -/
def waitsForBed (s : State) (a : Nat) : Bool :=
  !bedRuns s (a / 8) && s.disp.window.any fun w =>
    w.2.released && !w.2.begun && w.2.result.isNone && dEngine w.2.desc == 1 && fld s (rARRAY_MAP (aARRAY w.2.desc)) 7 7 == 1
    && physOf s (aARRAY w.2.desc) == a

/-- The cycles of one tick counted for an array: waiting for its block or its bed, or for credits or a latch (log 56). -/
def countWait (s : State) (a : Nat) : State :=
  match running s a with
  | none => if waitsForBed s a then bump64 s (rARRAY_PERF a + 24) 68 else s
  | some (r, sl, _) =>
    if !bedRuns s (a / 8) then bump64 s (rARRAY_PERF a + 24) 68
    else if r.loaded && !r.fetched then bump64 s (rARRAY_PERF a + 24) 68
    else if r.loaded && r.fetched && !creditsHeld s a r sl.desc then bump64 s (rARRAY_PERF a + 16) 68
    else s

def execSlotReduce (slot : Nat) (residueOk : Bool) (s : State) : Host.Outcome State Fault Refusal :=
  .next (slotReduce s slot residueOk)

end Sys2Proof.Machine
end

