-- ==== Sys2Proof/Machine/Attention.lean ====
section
/-! DEFINITION. The attention engine and KV pages (08, R65–R69). -/

namespace Sys2Proof.Machine

/-! ### Descriptor (R198, R199) -/

def kOP (d : Bytes) : Nat := num d 16 1
def kSRC (d : Bytes) : Nat := num d 17 1
def kQF (d : Bytes) : Nat := num d 18 1
def kHINT (d : Bytes) : Nat := num d 19 1
def kOF (d : Bytes) : Nat := num d 20 1
def kFlags (d : Bytes) : Nat := num d 21 1
def kCAUSAL (d : Bytes) : Bool := bit 7 (kFlags d)
def kSTAT (d : Bytes) : Bool := bit 6 (kFlags d)
def kPARTIAL (d : Bytes) : Bool := bit 5 (kFlags d)
def kTENT (d : Bytes) : Bool := bit 4 (kFlags d)
def kSAT (d : Bytes) : Bool := bit 3 (kFlags d)
def kRM (d : Bytes) : RMode := rmodeOf (kFlags d % 4) 0 0 0
def kQH (d : Bytes) : Nat := num d 22 1
def kH (d : Bytes) : Nat := num d 23 1
def kSPLIT (d : Bytes) : Nat := num d 24 1
def kLAYER (d : Bytes) : Nat := num d 26 2
def kROWS (d : Bytes) : Nat := num d 28 2
def kREC (d : Bytes) : Nat := num d 32 4
def kSS (d : Bytes) : Nat := num d 36 4
/-- Bytes of a record, and the alignment of REC_ADDR (Table 8.6). -/
def recSize (op : Nat) : Nat := if op < 2 then 32 else if op = 2 then 16 else 4

/-- An attention task passes the check of its operand area (R198). -/
def attnCheck (d : Bytes) : Bool :=
  let op := kOP d
  let src := kSRC d == 0x81 || kSRC d == 0x82
  let ints := fun c => c == 0x48 || c == 0x44
  op < 4 && !bit 2 (kFlags d) && kFlags d % 4 < 2 && num d 25 1 == 0 && num d 30 2 == 0 && allZero d 40 24
  && 1 ≤ kH d && kH d ≤ 7 && kROWS d ≤ 4096 && inCommons (kREC d) (kROWS d * recSize op) (recSize op)
  && (if op < 2 then 1 ≤ kQH d && kQH d ≤ 64 && kQH d % kH d == 0 && 1 ≤ kSPLIT d && kSPLIT d ≤ 16
        && (kOF d == 0x80 || kOF d == 0x81 || kOF d == 0x82) else kSPLIT d == 0)
  && (op != 0 || (src && ints (kQF d) && (kHINT d == 0 || ints (kHINT d)) && isFinite f32 (kSS d)))
  && (op != 2 || (src && ints (kOF d)))

/-! ### Pages (R182–R185) -/

/-- A page location entry: the page's space and address, the sink, or neither (R184). -/
inductive Loc where
  | bad
  | sink
  | page (sp base : Nat)
  deriving DecidableEq, Repr

def locOf (s : State) (e : Nat) : Loc :=
  let t := bits 31 30 e
  if t = 2 then (if e % 2 ^ 30 = 0 then .sink else .bad)
  else if t = 3 ∨ bits 29 25 e ≠ 0 ∨ capOf s t < (e % 2 ^ 25 + 1) * 65536 then .bad
  else .page t (e % 2 ^ 25 * 65536)

/-- Fields of a page header (Table 8.3). -/
def pgKey (h : Bytes) : Nat := num h 0 8
def pgFirst (h : Bytes) : Nat := num h 8 4
def pgLayer (h : Bytes) : Nat := num h 12 2
def pgHeads (h : Bytes) : Nat := num h 14 1
def pgCommit (h : Bytes) : Nat := num h 16 1
def pgStep (h : Bytes) : Nat := num h 20 4
def pgEntry (h : Bytes) (b : Nat) : Nat := num h (64 + 4 * b) 4
/-- Fields of a block entry (Table 8.4), and the bytes of the block's data. -/
def enTag (e : Nat) : Nat := bits 17 16 e
def enScale (e : Nat) : Nat := e % 65536
def enKeep (e : Nat) : Bool := bit 18 e
def blockBytes (tag : Nat) : Nat := if tag = 1 then 2048 else 4096
def blockFmt (tag : Nat) : Nat := if tag = 1 then 0x44 else 0x48
/-- An element of a block's data as an integer (R183). -/
def blockElem (tag : Nat) (data : Bytes) (k : Nat) : Int :=
  if tag = 1 then sext 4 ((data.getD (k / 2) 0).toNat / (if k % 2 = 0 then 1 else 16) % 16) else sext 8 (data.getD k 0).toNat
/-- 4,096 elements as a block's data. -/
def packBlock (tag : Nat) (qs : List Int) : Bytes :=
  if tag = 1 then (chunksOf 2 2048 (qs.map fun q => BitVec.ofNat 8 (wrapInt 4 q))).map fun p => (p.getD 0 0) + 16 * (p.getD 1 0)
  else qs.map fun q => BitVec.ofNat 8 (wrapInt 8 q)

/-! ### Failing (R200) -/

def Job.halted (j : Job) : Bool := j.ue.isSome || j.failed.isSome
/-- A run-time failure: PAGE_BAD counted (R200). -/
def Job.pageBad (j : Job) : Job :=
  if j.halted then j else { (j.tally rKV_FAULT 31 16 1) with failed := some { code := 0x0202, unit := 1, data := 0 } }
/-- A block met with tag 3 (R67). -/
def Job.tag3 (j : Job) (sp a : Nat) : Job :=
  if j.halted then j
  else { j with failed := some { code := 0x0203, unit := 1, data := 0, space := sp, addr := a, status := stFault } }
/-- A commons read of the engine, which fails beyond the commons. -/
def Job.rdc (j : Job) (a n : Nat) : Bytes × Job :=
  if j.halted then (zeros n, j) else if 2 ^ 28 < a + n then (zeros n, j.pageBad) else j.rd 0 a n
def Job.wrc (j : Job) (a : Nat) (bs : Bytes) : Job :=
  if j.halted then j else if 2 ^ 28 < a + bs.length then j.pageBad else j.wr 0 a bs

/-- Steps of a task until one fails. -/
def Job.steps (j : Job) (l : List Nat) (f : Job → Nat → Job) : Job := l.foldl (fun j r => if j.halted then j else f j r) j

/-- What a task may name: its instance's context where the owner of a page is checked (R201). -/
def pageOwnerOk (s : State) (i : Inst) (sp base : Nat) : Bool := i.step.isSome || i.ctx == 0 || owns s i.ctx sp (base / 65536)

/-- The first 128 bytes of a page named by an entry that is no sink, its owner checked. -/
def pageHead (s : State) (i : Inst) (j : Job) (sp base : Nat) : Bytes × Job :=
  if !pageOwnerOk s i sp base then (zeros 128, j.pageBad)
  else
    let x := j.rd sp base 128
    if pgHeads x.1 = 0 ∨ 7 < pgHeads x.1 then (x.1, x.2.pageBad) else x

/-! ### APPEND (R187, R188) -/

/-- A fraction without sign rounded upward to FP16, at most the largest finite value. -/
def roundUp16 (n d : Nat) : Nat :=
  let p := (roundFrac f16 .zero false false n d).1
  match decode f16 p with
  | .fin _ m e =>
    let x := scaleFrac m 1 e
    if x.1 * d < n * x.2 then min (p + 1) f16.maxFin else p
  | _ => f16.maxFin

/-- The largest magnitude among finite values, as a fraction. -/
def maxMag (l : List Val) : Nat × Nat :=
  l.foldl (fun a v => match v with
    | .fin _ m e =>
      let x := scaleFrac m 1 e
      if a.1 * x.2 < x.1 * a.2 then x else a
    | _ => a) (0, 1)

/-- A block with new rows written: its elements, entry, clamps, NaNs and whether it was rescaled (R187). -/
structure BlockOut where
  qs      : List Int
  entry   : Nat
  sat     : Nat
  nan     : Nat
  rescale : Bool
  deriving DecidableEq, Repr

/-- Elements rounded to integers within ±A. -/
def quantise (a : Int) (vs : List Val) : List Int × Nat × Nat :=
  let cs := vs.map fun v => toInt .nearest (-a) a v
  (cs.map (·.val), sumOf (cs.map (·.sat)), sumOf (cs.map (·.nan)))

/-- R187 for one block. A scale that a mover or the host wrote may be negative, infinite or NaN: the comparison and the quotients are
those of the values as they are (log 44). -/
def appendBlock (e : Nat) (old : Bytes) (openTag pos : Nat) (xs : List Val) : BlockOut :=
  let fresh := enTag e == 2
  let tag := if fresh then openTag else enTag e
  let a : Int := if tag = 1 then 7 else 127
  let scale := if fresh then 0 else enScale e
  let q0 : List Int := if fresh then List.replicate 4096 0 else (List.range 4096).map (blockElem tag old)
  let mx := maxMag xs
  let grows := match decode f16 scale with
    | .fin neg m x =>
      let f := scaleFrac (m * a.toNat) 1 x
      (neg && m != 0) || f.1 * mx.2 < mx.1 * f.2
    | .inf neg => neg
    | .nan => false
  let s2 := if grows then roundUp16 mx.1 (mx.2 * a.toNat) else scale
  let re : List Int × Nat × Nat := if grows then
      let rho := decode f32 (divExact (widen f16 scale) (widen f16 s2))
      quantise a (q0.map fun q => (ofInt q).mul rho)
    else (q0, 0, 0)
  let mult := decode f32 (divExact 0x3F800000 (widen f16 s2))
  let ne : List Int × Nat × Nat := if s2 % f16.signBit = 0 then (xs.map fun _ => 0, 0, (xs.filter (· == .nan)).length)
    else quantise a (xs.map fun x => x.mul mult)
  { qs := re.1.take (128 * pos) ++ ne.1 ++ re.1.drop (128 * pos + xs.length)
    entry := setBits 17 16 (setBits 15 0 e s2) tag
    sat := re.2.1 + ne.2.1, nan := re.2.2 + ne.2.2, rescale := grows && !fresh }

/-- One block of an APPEND record: data and entry as one unit (R186). `src` holds the record's rows. -/
def appendOne (d : Bytes) (sp base pos count : Nat) (src : Bytes) (j : Job) (b : Nat) : Job :=
  let h := j.rd sp (base + 64 + 4 * b) 4
  let e := ofLE h.1
  if enTag e = 3 then h.2.tag3 sp (base + 64 + 4 * b)
  else
    let old := if enTag e = 2 then ([], h.2) else h.2.rd sp (base + 4096 * (b + 1)) (blockBytes (enTag e))
    let xs := (List.range (128 * count)).map fun k =>
      decode (fmtOf (kSRC d)) (num src ((k / 128 * (2 * kH d) + b) * 256 + 2 * (k % 128)) 2)
    let o := appendBlock e old.1 (if kOF d = 0x44 then 1 else 0) pos xs
    let j := (old.2.wr sp (base + 4096 * (b + 1)) (packBlock (enTag o.entry) o.qs)).wr sp (base + 64 + 4 * b) (toLE 4 o.entry)
    (j.conv o.sat o.nan).tally rKV_STAT 15 0 (b2n o.rescale)

/-- One APPEND record (Table 8.8). `keep` says which blocks, and for block 14 whether the header, are written: all of them in a
task that does not fail. -/
def appendRow (s : State) (i : Inst) (d : Bytes) (keep : Nat → Nat → Bool) (j : Job) (r : Nat) : Job :=
  let x := j.rdc (kREC d + 16 * r) 16
  let pos := num x.1 4 1
  let count := num x.1 5 1
  let sa := num x.1 8 4
  if num x.1 6 2 ≠ 0 ∨ num x.1 12 4 ≠ 0 ∨ count = 0 ∨ 32 < pos + count ∨ sa % 64 ≠ 0 then x.2.pageBad
  else
    let src := x.2.rdc sa (count * 2 * kH d * 256)
    match locOf s (num x.1 0 4) with
    | .bad => src.2.pageBad
    | .sink => src.2
    | .page sp base =>
      let h := pageHead s i src.2 sp base
      if pgHeads h.1 ≠ kH d ∨ pgLayer h.1 ≠ kLAYER d then h.2.pageBad
      else
        let j := h.2.steps ((List.range (2 * kH d)).filter (keep r)) (appendOne d sp base pos count src.1)
        if j.halted || !keep r 14 then j
        else
          let c := if kTENT d then pgCommit h.1 else max (pgCommit h.1) (pos + count)
          (j.wr sp (base + 16) (toLE 1 c)).wr sp (base + 20) (toLE 4 (stepCount s))

/-! ### ATTEND and MERGE (R189–R197) -/

/-- A running partial (m, l, o). -/
structure Partial where
  m : Nat
  l : Nat
  o : List Nat
  deriving DecidableEq, Repr

/-- −FLT_MAX, and the empty partial. -/
def negMax : Nat := 0xFF7FFFFF
def Partial.empty : Partial := ⟨negMax, 0, List.replicate 128 0⟩
def Partial.allNan : Partial := ⟨f32.nan, f32.nan, List.replicate 128 f32.nan⟩
def Partial.bad (p : Partial) : Bool := isNan f32 p.m || isInf f32 p.m || isNan f32 p.l || p.o.any (isNan f32)

/-- The merge of R94, with its exponential. -/
def mergeTwo (ex : Nat → Nat) (acc p : Partial) : Partial :=
  if p.l % 2 ^ 31 = 0 then acc
  else
    let m2 := max32 acc.m p.m
    let a := ex (sub32 acc.m m2)
    let b := ex (sub32 p.m m2)
    ⟨m2, fma32 acc.l a (mul32 p.l b), (acc.o.zip p.o).map fun x => fma32 x.1 a (mul32 x.2 b)⟩

/-- The merged partial, and the reciprocal of its sum. -/
structure Merged where
  p : Partial
  r : Nat
  deriving DecidableEq, Repr
def mergeWith (ex rcp : Nat → Nat) (ps : List Partial) : Merged :=
  let p := ps.foldl (mergeTwo ex) .empty
  ⟨p, if p.l % 2 ^ 31 = 0 then 0 else rcp p.l⟩

/-- A finite FP32 pattern in units of 2^−640. -/
def fixed32 (b : Nat) : Option Int := (frac32 b).map fun x => x.1 * (one : Int) / (x.2 : Int)

/-- The merge line of Table 4.6 for one component: the outputs `o × r` within `(2U + 4 + 2Δ) u` times `Σ α |o_u| ÷ l` of the exact
merge, reckoned in fixed point; where a value is not finite the line bounds nothing. `xs` gives each non-empty partial's `M − m`, sum
and component. -/
def mergeLine (xs : List (Int × Int × Int)) (out : Int × Int) : Bool :=
  let al := fun (x : Int × Int × Int) => ((one * one / expFx (min x.1.toNat (400 * one)) : Nat) : Int)
  let l := xs.foldl (fun a x => a + al x * x.2.1) 0
  let n := xs.foldl (fun a x => a + al x * x.2.2) 0
  let s := xs.foldl (fun a x => a + al x * (x.2.2.natAbs : Int)) 0
  let gap := xs.foldl (fun a x => max a x.1) 0
  let w : Int := ((2 * xs.length + 4) * one : Nat) + 2 * gap
  l ≤ 0 || ((out.1 * out.2 * l - n * one * one).natAbs : Int) * 2 ^ 24 ≤ w * s * one

/-- Every component of a merge keeps the line (R95). -/
def mergeKeeps (ps : List Partial) (x : Merged) : Bool :=
  let full := ps.filter fun p => p.l % 2 ^ 31 != 0
  (List.range 128).all fun j =>
    let parts := full.mapM fun p => do
      let m ← fixed32 p.m
      let l ← fixed32 p.l
      let o ← fixed32 (p.o.getD j 0)
      let top ← fixed32 x.p.m
      pure (top - m, l, o)
    match parts, fixed32 (x.p.o.getD j 0), fixed32 x.r with
    | some xs, some o, some r => mergeLine xs (o, r)
    | _, _, _ => true

/-- A merge of partials: with the run's exponentials and reciprocal where the result keeps the merge line of Table 4.6, else with
correctly rounded ones (R94–R96, log 4). -/
def mergeAll (k : Nat) (ps : List Partial) : Merged :=
  if ps.any Partial.bad then ⟨.allNan, f32.nan⟩
  else
    let x := mergeWith (exp32 k) (rcp32 k) ps
    if mergeKeeps ps x then x else mergeWith expRn (divExact 0x3F800000) ps

/-- Outputs, statistics and partial record of a query head (R195). -/
def putHead (d rb : Bytes) (j : Job) (h : Nat) (x : Merged) (part : Bool) : Job :=
  let p := x.p
  let r := x.r
  let j := if part then
      j.wrc (num rb 24 4 + 576 * h) (toLE 4 p.m ++ toLE 4 p.l ++ zeros 56 ++ p.o.flatMap (toLE 4))
    else j.wrc (num rb 20 4 + 128 * h * elemSize (kOF d))
      (outRow (kOF d) (fun _ => kRM d) (kSAT d) (p.o.map fun x => (decode f32 x).mul (decode f32 r))).bytes
  if kSTAT d then j.wrc (num rb 28 4 + 8 * h) (toLE 4 p.m ++ toLE 4 p.l) else j

/-- A row record's fields are in range for the task and its addresses within the commons (Table 8.7, Table 8.10): those of regions
of known length with the whole region, the page list with its first entry. -/
def rowOk (d rb : Bytes) : Bool :=
  inCommons (num rb 20 4) 1 64 && (!kSTAT d || inCommons (num rb 28 4) (8 * kQH d) 8)
  && (kOP d != 0 || (inCommons (num rb 0 4) 4 4 && num rb 4 4 ≤ 2 ^ 24 && inCommons (num rb 16 4) (256 * kQH d) 64))
  && (!(kOP d == 1 || kPARTIAL d) || inCommons (num rb 24 4) 576 64)

/-- A query head in integers with its scale (R191): clamps and NaNs counted. -/
def queryHead (d : Bytes) (bs : Bytes) : List Int × Nat × Nat × Nat :=
  let xs := (List.range 128).map fun k => decode (fmtOf (kSRC d)) (num bs (2 * k) 2)
  let a : Nat := if kQF d = 0x44 then 7 else 127
  let m := maxMag xs
  let one := m.1 = 0 ∨ xs.any (fun x => x == .inf false || x == .inf true)
  let qs := if one then 0x3F800000 else (roundFrac f32 .nearest false false m.1 (m.2 * a)).1
  let mult := if one then 0x3F800000 else (roundFrac f32 .nearest false false (a * m.2) m.1).1
  let q := quantise a (xs.map fun x => x.mul (decode f32 mult))
  (q.1, qs, q.2.1, q.2.2)

/-- The K and V blocks of a KV head in a page as the fold sees them: tags, scales, data, and the visible positions (none where a
block is unwritten, R190). -/
structure KvBlock where
  kt  : Nat
  ks  : Nat
  kd  : Bytes
  vt  : Nat
  vs  : Nat
  vd  : Bytes
  pos : List Nat
  deriving DecidableEq, Repr

/-- One block folded into a partial (R192). -/
def foldBlock (kk scale qs : Nat) (q : List Int) (p : Partial) (b : KvBlock) : Partial :=
  if b.pos.isEmpty then p
  else
    let f := decode f32 (rne f32 (((decode f32 qs).mul (decode f16 b.ks)).mul (decode f32 scale)))
    let score := fun i => rne f32 ((ofInt ((q.zip (List.range 128)).foldl (fun a x => a + x.1 * blockElem b.kt b.kd (128 * i + x.2)) 0)).mul f)
    let ss := b.pos.map score
    let m2 := max32 p.m (maxAll ss)
    let a := exp32 kk (sub32 p.m m2)
    let es := ss.map fun x => exp32 kk (sub32 x m2)
    let ws := es.map fun e => decode f16 (rne f16 (decode f32 e))
    let vs := widen f16 b.vs
    let o := (p.o.zip (List.range 128)).map fun x =>
      let c := (chunkSum f16 ((ws.zip b.pos).map fun w => w.1.mul (ofInt (blockElem b.vt b.vd (128 * w.2 + x.2))))).1
      fma32 x.1 a (mul32 c vs)
    ⟨m2, fma32 p.l a (treeSum f32 6 es).1, o⟩

/-- The visible positions of a row: from the first to before the last (R189). -/
def visible (d rb : Bytes) : Nat × Nat :=
  let n := num rb 4 4
  let q := num rb 8 4
  let w := num rb 12 4
  (if w = 0 then 0 else q + 1 - w, if kCAUSAL d then min n (q + 1) else n)

/-- The pages a row reads: page index and place, each header checked (R190). -/
def rowPages (s : State) (i : Inst) (d rb : Bytes) (j : Job) (ps : List Nat) : List (Nat × Nat × Nat × Bytes) × Job :=
  ps.foldl (fun acc p =>
    if acc.2.halted then acc else
    let e := acc.2.rdc (num rb 0 4 + 4 * p) 4
    match locOf s (ofLE e.1) with
    | .page sp base =>
      let h := pageHead s i e.2 sp base
      if pgHeads h.1 ≠ kH d ∨ pgLayer h.1 ≠ kLAYER d ∨ pgFirst h.1 ≠ 32 * p then (acc.1, h.2.pageBad)
      else (acc.1 ++ [(p, sp, base, h.1)], h.2)
    | _ => (acc.1, e.2.pageBad)) ([], j)

/-- The blocks of KV head `g` in a row's pages, read and counted (R190, R193). -/
def headBlocks (d rb : Bytes) (g : Nat) (j : Job) (pages : List (Nat × Nat × Nat × Bytes)) : List KvBlock × Job :=
  let v := visible d rb
  pages.foldl (fun acc x =>
    if acc.2.halted then acc else
    let sp := x.2.1
    let base := x.2.2.1
    let ke := pgEntry x.2.2.2 g
    let ve := pgEntry x.2.2.2 (kH d + g)
    if enTag ke = 3 then (acc.1, acc.2.tag3 sp (base + 64 + 4 * g))
    else if enTag ve = 3 then (acc.1, acc.2.tag3 sp (base + 64 + 4 * (kH d + g)))
    else
      let un := b2n (enTag ke == 2) + b2n (enTag ve == 2)
      let j := acc.2.tally rKV_FAULT 15 8 un
      let off := fun t => kHINT d != 0 && !(t == 0 && kHINT d == 0x48) && !(t == 1 && kHINT d == 0x44)
      let j := j.tally rKV_STAT 31 16 (b2n (off (enTag ke)) + b2n (off (enTag ve)))
      if un ≠ 0 then (acc.1 ++ [⟨0, 0, [], 0, 0, [], []⟩], j)
      else
        let kd := j.rd sp (base + 4096 * (g + 1)) (blockBytes (enTag ke))
        let vd := kd.2.rd sp (base + 4096 * (kH d + g + 1)) (blockBytes (enTag ve))
        let pos := (List.range 32).filter fun i => v.1 ≤ 32 * x.1 + i && 32 * x.1 + i < v.2
        (acc.1 ++ [⟨enTag ke, enScale ke, kd.1, enTag ve, enScale ve, vd.1, pos⟩], vd.2)) ([], j)

/-- The blocks of a head cut into SPLIT ranges (R194). -/
def splitRanges (n : Nat) (bs : List KvBlock) : List (List KvBlock) :=
  let w := max 1 (ceilDiv bs.length n)
  (List.range n).map fun j => (bs.drop (j * w)).take w

/-- Logical units the engine deals items over: those mapped, in ascending order (R180). -/
def attnUnits (s : State) : List Nat := (List.range 16).filter fun n => fld s (rATTN_MAP n) 5 5 == 1

/-- The order in which the items of one (row, KV head) complete: each unit's own in ascending order, the units among each other freely
(R194, R195, log 2). Items `t` and `u` of it are on one unit when their numbers agree modulo the number of units. -/
def itemOrder (s : State) (k n : Nat) : List Nat :=
  let us := max 1 (attnUnits s).length
  sortBy (fun j => sumOf ((List.range (j + 1)).map fun t => if t % us = j % us then Config.rank (s.fresh + k) t + 1 else 0)) (List.range n)

/-- One row of an ATTEND task: every query head converted and scored over the row's pages, the partials of its ranges merged in the
order in which they complete (R191, R194, R195). -/
def attendRow (s : State) (i : Inst) (d : Bytes) (j : Job) (r : Nat) : Job :=
  let x := j.rdc (kREC d + 32 * r) 32
  let rb := x.1
  if !rowOk d rb then x.2.pageBad
  else
    let v := visible d rb
    let ps := if v.1 < v.2 then (List.range ((v.2 - 1) / 32 + 1 - v.1 / 32)).map (· + v.1 / 32) else []
    let pg := rowPages s i d rb x.2 ps
    let grp := kQH d / kH d
    (List.range (kH d)).foldl (fun j g =>
      if j.halted then j else
      let b := headBlocks d rb g j pg.1
      let ranges := splitRanges (kSPLIT d) b.1
      let order := itemOrder s (r * kH d + g) ranges.length
      (List.range grp).foldl (fun j k =>
        if j.halted then j else
        let h := g * grp + k
        let qb := j.rdc (num rb 16 4 + 256 * h) 256
        let q := queryHead d qb.1
        let j := qb.2.conv q.2.2.1 q.2.2.2
        let parts := order.map fun t => (ranges.getD t []).foldl (foldBlock s.fresh (kSS d) q.2.1 q.1) .empty
        putHead d rb j h (mergeAll s.fresh parts) (kPARTIAL d)) b.2) pg.2

/-- One row of a MERGE task (R196). -/
def mergeRow (k : Nat) (d : Bytes) (j : Job) (r : Nat) : Job :=
  let x := j.rdc (kREC d + 32 * r) 32
  let rb := x.1
  if !rowOk d rb then x.2.pageBad
  else (List.range (kQH d)).foldl (fun j h =>
    if j.halted then j else
    let p := (List.range (kSPLIT d)).foldl (fun (acc : List Partial × Job) n =>
      let b := acc.2.rdc (num rb 24 4 + (n * kQH d + h) * 576) 576
      let j := if allZero b.1 8 56 then b.2 else b.2.pageBad
      (acc.1 ++ [⟨num b.1 0 4, num b.1 4 4, (List.range 128).map fun e => num b.1 (64 + 4 * e) 4⟩], j)) ([], j)
    if p.2.halted then p.2 else putHead d rb p.2 h (mergeAll k p.1) false) x.2

/-! ### DEMOTE (R69, R203) -/

/-- R69 step 2: the scale `s × m ÷ 7` rounded upward to FP16, with the scale as it is: `none` where it would exceed the largest finite
value. A NaN exceeds nothing (log 44). -/
def demoteScale (scale m : Nat) : Option Nat :=
  match decode f16 scale with
  | .fin neg sm se =>
    let x := scaleFrac (sm * m) 7 se
    if neg then some (roundFrac f16 .zero false true x.1 x.2).1 else if 65504 * x.2 < x.1 then none else some (roundUp16 x.1 x.2)
  | .inf neg => if neg then some scale else none
  | .nan => some f16.nan

/-- One block demoted: its new elements and entry with its clamps and NaNs, or `none` where it stays int8 (R69). -/
def demoteBlock (key b e : Nat) (data : Bytes) : Option (List Int × Nat × Nat × Nat) :=
  let qs := (List.range 4096).map (blockElem 0 data)
  let m := qs.foldl (fun a q => max a q.natAbs) 0
  let e1 := setBits 17 16 e 1
  if m = 0 then some (qs.map fun _ => 0, e1, 0, 0)
  else (demoteScale (enScale e) m).map fun s2 =>
    let rho := decode f32 (divExact (widen f16 (enScale e)) (widen f16 s2))
    let cs := (qs.zip (List.range 4096)).map fun q => toInt (.stoch (demoteHalf key b q.2)) (-7) 7 ((ofInt q.1).mul rho)
    (cs.map (·.val), setBits 15 0 e1 s2, sumOf (cs.map (·.sat)), sumOf (cs.map (·.nan)))

/-- One block of a page that is listed for demotion; a block with tag 3 fails the task (R67, Table 8.10). -/
def demoteOne (key sp base : Nat) (j : Job) (b : Nat) : Job :=
  let h := j.rd sp (base + 64 + 4 * b) 4
  let e := ofLE h.1
  if enTag e = 3 then h.2.tag3 sp (base + 64 + 4 * b)
  else if enTag e ≠ 0 ∨ enKeep e then h.2
  else
    let x := h.2.rd sp (base + 4096 * (b + 1)) 4096
    match demoteBlock key b e x.1 with
    | none => (x.2.wr sp (base + 64 + 4 * b) (toLE 4 (setBits 18 18 e 1))).tally rKV_FAULT 7 0 1
    | some (qs, ne, sat, nan) =>
      ((x.2.wr sp (base + 4096 * (b + 1)) (packBlock 1 qs)).wr sp (base + 64 + 4 * b) (toLE 4 ne)).conv sat nan

def demoteRow (s : State) (i : Inst) (d : Bytes) (keep : Nat → Nat → Bool) (j : Job) (r : Nat) : Job :=
  let x := j.rdc (kREC d + 4 * r) 4
  match locOf s (ofLE x.1) with
  | .page sp base =>
    let h := pageHead s i x.2 sp base
    if pgHeads h.1 ≠ kH d ∨ pgLayer h.1 ≠ kLAYER d then h.2.pageBad
    else if pgCommit h.1 ≠ 32 then h.2
    else h.2.steps ((List.range (2 * kH d)).filter (keep r)) (demoteOne (pgKey h.1) sp base)
  | _ => x.2.pageBad

/-! ### Whole tasks -/

/-- Free bytes from the counter (log 1). -/
def freeBytes (k n : Nat) : Bytes := (List.range n).map fun i => BitVec.ofNat 8 (Config.free (k + i))

/-- The regions a task of ATTEND or MERGE writes for a row whose record can be read. -/
def rowRegions (d : Bytes) (m : Memory) (r : Nat) : List (Nat × Nat) :=
  let rb := peeks m (kREC d + 32 * r) 32
  let part := kOP d == 0 && kPARTIAL d
  ((if part then [(num rb 24 4, 576 * kQH d)] else [(num rb 20 4, 128 * kQH d * elemSize (kOF d))])
    ++ (if kSTAT d then [(num rb 28 4, 8 * kQH d)] else [])).filter fun x => x.1 + x.2 ≤ 2 ^ 28

/-- The outputs of a task that failed are not defined: free bytes (R200). -/
def undefinedOut (d : Bytes) (fresh : Nat) (m : Mems) : Mems :=
  let regs := (List.range (kROWS d)).flatMap (rowRegions d m.commons)
  let r := regs.foldl (fun (acc : Memory × Nat) x => (pokes acc.1 x.1 (freeBytes acc.2 x.2), acc.2 + x.2)) (m.commons, fresh)
  { m with commons := r.1 }

/-- A task of ATTEND or MERGE: where it fails, its counts stand and its outputs are free. -/
def attnRun (row : State → Inst → Bytes → Job → Nat → Job) (s : State) (i : Inst) (d : Bytes) (j : Job) : Job :=
  let k := j.steps (List.range (kROWS d)) (row s i d)
  if k.halted then { k with mem := undefinedOut d (s.fresh + 2 ^ 32) j.mem } else k

/-- A task of APPEND or DEMOTE: where it fails, each block is as it was or as it would have been, freely (R200). -/
def pageRun (row : State → Inst → Bytes → (Nat → Nat → Bool) → Job → Nat → Job) (s : State) (i : Inst) (d : Bytes) (j : Job) : Job :=
  let k := j.steps (List.range (kROWS d)) (row s i d fun _ _ => true)
  if k.halted then
    let keep := fun r b => Config.free (s.fresh + 2 ^ 32 + 16 * r + b) % 2 == 1
    let w := (List.range (kROWS d)).foldl (fun (w : Job) r =>
      let x := row s i d keep { w with ue := none, failed := none } r
      if x.halted then w else x) { j with verdict := .clean }
    { k with mem := w.mem }
  else k

/-- A physical unit that was dealt an item or a record of a task: a free choice among the first logical units in service, as many as the
task has items (R180, R194, R204). -/
def freeUnit (s : State) (k items : Nat) : Nat :=
  let us := attnUnits s
  let n := (us.getD (Config.free k % max 1 (min items us.length)) 0)
  if us.isEmpty then 18 else fld s (rATTN_MAP n) 4 0

/-- The work items of an attention task, or its records. -/
def itemsOf (d : Bytes) : Nat := if kOP d = 0 then kROWS d * kH d * kSPLIT d else kROWS d

/-- An attention task of an operation. A corrected error of a fetch shows in CE_SEEN of the unit that made it (Table 8.14). -/
def attnTask (s : State) (slot : Nat) (e : Ecc) (op : Nat) (run : State → Inst → Bytes → Job → Job) : State :=
  match released s slot 2 (fun d => kOP d == op) with
  | none => s
  | some (sl, i) =>
    let j := run s i sl.desc (startJob s e true)
    let t := finishJob s slot sl i true none j
    let u := freeUnit s (s.fresh + freeBlockSize - 2) (itemsOf sl.desc)
    if j.ce.isEmpty || 18 ≤ u || jobWaits s (instPart s i) true j then t else setFld t (rATTN_STAT u) 7 7 1

/-- An ATTEND task. A residue mismatch suspects the task and a unit that ran an item of it (R447, R457). -/
def attend (s : State) (slot : Nat) (e : Ecc) (residueOk : Bool) : State :=
  match released s slot 2 (fun d => kOP d == 0) with
  | none => s
  | some (sl, i) =>
    let t := attnTask s slot e 0 (attnRun attendRow)
    if residueOk || kROWS sl.desc == 0 || ((look t.disp.window slot).bind (·.result)).isNone then t
    else
      let u := freeUnit t t.fresh (itemsOf sl.desc)
      let t := { t with fresh := t.fresh + 1 }
      startRetire (suspectTask t i sl { code := 0x0201, sev := 1, unit := 1, inst := u, logical := logicalUnit t 1 u }) 1 u false 0x0201

def execAttend (slot : Nat) (ecc : Ecc) (residueOk : Bool) (s : State) : Host.Outcome State Fault Refusal :=
  .next (attend s slot ecc residueOk)
def execAttnMerge (slot : Nat) (ecc : Ecc) (s : State) : Host.Outcome State Fault Refusal :=
  .next (attnTask s slot ecc 1 (attnRun fun s _ => mergeRow s.fresh))
def execAppend (slot : Nat) (ecc : Ecc) (s : State) : Host.Outcome State Fault Refusal :=
  .next (attnTask s slot ecc 2 (pageRun appendRow))
def execDemote (slot : Nat) (ecc : Ecc) (s : State) : Host.Outcome State Fault Refusal :=
  .next (attnTask s slot ecc 3 (pageRun demoteRow))

/-! ### Demotion by firmware (R202) -/

/-- The commons block firmware builds its demotion graph in: the last of the collective engine's staging (log 16). -/
def demoteBlk : Nat := 2 ^ 28 - 65536

/-- A page is due for demotion (R202): the age of its last append. -/
def demoteAge (s : State) (p : Page) : Option Nat :=
  let h := ld s p.space p.addr 128
  let age := (stepCount s + 2 ^ 32 - pgStep h) % 2 ^ 32
  if p.space < 2 && pgCommit h == 32 && fld s rKV_DEMOTE 23 0 ≤ age
      && (List.range (2 * min 7 (pgHeads h))).any (fun b => enTag (pgEntry h b) == 0 && !enKeep (pgEntry h b)) then some age
  else none

/-- Firmware issues a DEMOTE task of one page, the one written longest ago, as a context-0 graph. -/
def demoteSchedule (s : State) : State :=
  if fld s rKV_DEMOTE 23 0 = 0 ∨ s.power.dev ≠ .active ∨ (s.disp.insts.any fun i => i.tier == 0 && i.addr == demoteBlk)
     ∨ 1024 ≤ s.disp.insts.length ∨ moduleFailed s ∨ maintHolds s then s
  else
    let due := s.serve.pages.filterMap fun p => (demoteAge s p.2).map fun a => (a, p.2)
    match (sortBy (fun x => 2 ^ 32 - x.1) due).head? with
    | none => s
    | some (_, p) =>
      let h := ld s p.space p.addr 128
      let hdr := toLE 2 s.trust.running.fmtMin ++ [0, 0] ++ toLE 4 1 ++ zeros 56
      let task := [2, 0] ++ zeros 14 ++ [3, 0, 0, 0, 0, 0, 0] ++ toLE 1 (pgHeads h) ++ [0, 0] ++ toLE 2 (pgLayer h) ++ toLE 2 1
        ++ zeros 2 ++ toLE 4 (demoteBlk + 1024) ++ zeros 28
      let s := st s 0 demoteBlk (hdr ++ task)
      let s := st s 0 (demoteBlk + 1024) (toLE 4 (p.space * 2 ^ 30 + p.addr / 65536))
      let i : Inst := { num := s.disp.nextNum, ctx := 0, part := 0, step := none, forceRef := false, tier := 0, addr := demoteBlk,
                        hdr := hdrOf hdr, params := none, admitted := 0, ended := 0, voided := 0, status := 0,
                        failTask := 0xFFFFFFFF, suspect := none, late := false, start := s.time, signals := [], closing := false }
      { s with disp := { s.disp with insts := s.disp.insts ++ [i], nextNum := s.disp.nextNum + 1 } }

def execDemoteSchedule (s : State) : Host.Outcome State Fault Refusal := .next (demoteSchedule s)

end Sys2Proof.Machine
end

