-- ==== Sys2Proof/Machine/CollOps.lean ====
section
/-! DEFINITION. Routing over the trellis, the packets between modules, and the collective engine (14, R367–R379). -/

namespace Sys2Proof.Machine

/-! ### Routing (R367) -/

/-- What is known of link `n` of the neighbour at the far end of link `via`: its LINK_MASK. -/
def peerLinkOk (s : State) (via n : Nat) : Bool := linkOk s via && bit n (linkOf s via).peerMask

/-- The rack dimensions in which two board positions differ, ascending. -/
def dims (b c : Nat) : List Nat := (List.range 3).filter fun d => bit d b != bit d c

/-- The links of the routes to a member, in order: for each, its first link and the second where a neighbour's mask tells. -/
def routesTo (s : State) (dst : Nat) : List (Nat × Option Nat) :=
  let b := myPos s
  let t := mySlot s
  let b' := dst / 8 % 8
  let t' := dst % 8
  if b = b' then [(linkToSlot s t', none)]
  else
    (if b' = Nat.xor b 7 ∧ t' = Nat.xor t 7 then [(10, none)] else [])
    ++ (match dims b b' with
        | d :: d2 :: _ => [(7 + d, some (7 + d2))]
        | [d] => [(7 + d, if t = t' then none else some (Nat.xor t t' - 1))]
        | [] => [])

def routeOk (s : State) (r : Nat × Option Nat) : Bool :=
  linkOk s r.1 && (match r.2 with
    | some n => peerLinkOk s r.1 n
    | none => true)

/-- The detour for a link (R367): the lowest other slot from which the packet can go on. -/
def detourFor (s : State) (n : Nat) : Option Nat :=
  let t := mySlot s
  ((List.range 8).find? fun m =>
    m != t && (if n < 7 then m != Nat.xor t (n + 1) && peerLinkOk s (linkToSlot s m) (Nat.xor m (Nat.xor t (n + 1)) - 1)
               else peerLinkOk s (linkToSlot s m) n)).map (linkToSlot s)

/-- The link a packet to a member leaves by, and the link a detour replaces. -/
def nextHop (s : State) (dst : Nat) : Option (Nat × Option Nat) :=
  let rs := routesTo s dst
  match rs.find? (routeOk s) with
  | some r => some (r.1, none)
  | none =>
    match rs.find? fun r => linkOk s r.1 with
    | some r => some (r.1, none)
    | none =>
      match rs with
      | r :: _ => (detourFor s r.1).map fun n => (n, some r.1)
      | [] => none

/-- A packet sent towards its destination; dropped when there is no route. -/
def routePkt (s : State) (c : CollPkt) : State :=
  match nextHop s c.dst with
  | none => s
  | some (n, none) => queueOn s n (jobOfPkt c)
  | some (n, some old) => queueOn (bump64 (setFld s (rLINK_STAT old) 3 3 1) rCOLL_PERF 1) n (jobOfPkt c)

/-- A packet this module originates, with its number (R369). -/
def originate (s : State) (c : CollPkt) : State :=
  let q := takePktSeq s c.dst
  routePkt q.2 { c with hops := 0, src := myCode s, pktSeq := q.1 }

/-! ### Sending blocks (R373, R354) -/

/-- Most data bytes of a packet (R368). -/
def pktMax : Nat := 8368
/-- The commons that firmware holds for early packets (R375). -/
def stagingBytes : Nat := 8388608

/-- The words of a commons range that do not decode, as a mask. -/
def poisonOf (s : State) (a n : Nat) : Nat :=
  ofBits ((List.range (ceilDiv n 16)).filter fun w => badIn s 0 (a + 16 * w) (min 16 (n - 16 * w)))

/-- How many packets a block of `n` bytes takes. Where the receiver cannot know the length, a packet shorter than the largest
ends the block (log 19). -/
def pktCount (n : Nat) (open_ : Bool) : Nat := if open_ then n / pktMax + 1 else max 1 (ceilDiv n pktMax)

/-- A block sent to a member. -/
def sendBlock (s : State) (c : Coll) (run : CollRun) (rank block phase a n : Nat) : State :=
  (List.range (pktCount n (c.op == 3))).foldl (fun s i =>
    let len := min pktMax (n - i * pktMax)
    let p : CollPkt :=
      { kind := 0, hops := 0, part := run.part, src := 0, dst := c.memb.getD rank 0, collId := run.id, inst := run.inst % 2 ^ 32,
        pktSeq := 0, offset := i * pktMax, length := len, block := block, phase := phase, cls := b2n c.rack,
        data := ldSide s true (a + i * pktMax) len, poison := poisonOf s (a + i * pktMax) len }
    delivered (originate s p) true (a + i * pktMax) len) s

/-! ### A running task -/

def collOf (s : State) (id : Nat) : Option Coll := look s.coll.open_ id
def myRank (s : State) (c : Coll) : Nat := c.memb.idxOf (myCode s)
def sameRun (a b : CollRun) : Bool := a.slot == b.slot && a.id == b.id && a.inst == b.inst
def putRun (s : State) (r : CollRun) : State :=
  { s with coll := { s.coll with runs := s.coll.runs.map fun x => if sameRun x r then r else x } }
def dropRun (s : State) (r : CollRun) : State :=
  { s with coll := { s.coll with runs := s.coll.runs.filter fun x => !sameRun x r } }
def findRun' (s : State) (id inst : Nat) : Option CollRun :=
  s.coll.runs.find? fun r => r.id == id && r.inst % 2 ^ 32 == inst % 2 ^ 32

/-- A task of the engine ends. -/
def endRun (s : State) (r : CollRun) (st : Nat) : State := endTask (dropRun s r) r.slot st

def dCOUNT (d : Bytes) : Nat := num d 20 4
def dSRC (d : Bytes) : Nat := num d 24 4
def dDST (d : Bytes) : Nat := num d 28 4
def dSTR (d : Bytes) : Nat := num d 32 4
def dCNT (d : Bytes) : Nat := num d 36 4
def dRCV (d : Bytes) : Nat := num d 40 4

/-- The elements, and the bytes, of block `k` of an all-reduce; the place of the block in the vector. -/
def cutLen (c : Coll) (d : Bytes) : Nat := ceilDiv (dCOUNT d) (max 1 c.memb.length)
def blockOff (c : Coll) (d : Bytes) (k : Nat) : Nat := min (k * cutLen c d) (dCOUNT d) * elemSize c.fmt
def blockLen (c : Coll) (d : Bytes) (k : Nat) : Nat :=
  if c.op = 0 then (min (cutLen c d) (dCOUNT d - min (k * cutLen c d) (dCOUNT d))) * elemSize c.fmt else dCOUNT d * elemSize c.fmt

/-- Where data of a packet goes: the destination of rank `k`'s gathered block. -/
def gatherAt (c : Coll) (d : Bytes) (k : Nat) : Nat :=
  if c.op = 0 then dDST d + blockOff c d k else dDST d + k * dSTR d

/-- The phases in which a task takes data from the other members. -/
def phasesOf (op : Nat) : List Nat := if op = 0 then [0, 1] else if op = 2 then [1] else [0]

/-- All of a member's data of a phase has come. -/
def blockDone (r : CollRun) (k ph : Nat) : Bool :=
  r.ends.any fun e => e.1 == k && e.2.1 == ph &&
    sumOf ((r.got.filter fun g => g.1 == k && g.2.1 == ph).map fun g => g.2.2.2.length) == e.2.2
def others (s : State) (c : Coll) : List Nat := (List.range c.memb.length).filter (· != myRank s c)
def phaseDone (s : State) (c : Coll) (r : CollRun) (ph : Nat) : Bool := (others s c).all fun k => blockDone r k ph

/-- One reduction of two FP32 values, or of two integers (R374). -/
def redF (op a b : Nat) : Nat := if op = 0 then add32 a b else if op = 1 then max32 a b else min32 a b
def redI (op : Nat) (a b : Int) : Int := if op = 0 then a + b else if op = 1 then max a b else min a b

/-- Values reduced element by element, the second from an element offset on. -/
def zipAt {α : Type} (f : α → α → α) (off : Nat) (acc more : List α) : List α :=
  acc.take off ++ ((acc.drop off).zip more).map (fun x => f x.1 x.2) ++ acc.drop (off + more.length)

/-- This module's own block and the data of the others in the order of arrival, reduced; the bytes, and the clamps. -/
def reduced (c : Coll) (own : Bytes) (r : CollRun) : Bytes × Nat :=
  let e := elemSize c.fmt
  let n := own.length / e
  let data := r.got.filter fun g => g.2.1 == 0
  let out :=
    if c.fmt = 0x48 ∨ c.fmt = 0x50 then
      let ints := fun (b : Bytes) => (elems c.fmt b (b.length / e)).map fun x => sext (8 * e) x
      let t := data.foldl (fun acc g => zipAt (redI c.redOp) (g.2.2.1 / e) acc (ints g.2.2.2)) (ints own)
      t.map fun v => outElem c.fmt .nearest false (ofInt v)
    else
      let fs := fun (b : Bytes) => (elems c.fmt b (b.length / e)).map (widen (fmtOf c.fmt))
      let t := data.foldl (fun acc g => zipAt (redF c.redOp) (g.2.2.1 / e) acc (fs g.2.2.2)) (fs own)
      t.map fun v => outElem c.fmt .nearest false (decode f32 v)
  (((out.take n).flatMap (·.bytes)), sumOf (out.map (·.sat)))

/-- A write of the engine to the commons, charged as side B. -/
def collWrite (s : State) (r : CollRun) (a : Nat) (b : Bytes) : State := charge (st s 0 a b) 2 r.part b.length

/-- Every packet of the task has been acknowledged (R376). -/
def sendsDone (s : State) (r : CollRun) : Bool :=
  s.link.links.all fun l => (l.2.queue ++ l.2.sent).all fun j =>
    !(num j.bytes 0 1 == 0 && num j.bytes 2 1 == myCode s && num j.bytes 4 2 == r.id && num j.bytes 8 4 == r.inst % 2 ^ 32)

/-- The reduction of this rank's block made, and for an all-reduce its gather part sent. -/
def reduceNow (s : State) (c : Coll) (r : CollRun) : State :=
  let k := myRank s c
  let src := if c.op = 0 then dSRC r.desc + blockOff c r.desc k else dSRC r.desc + k * dSTR r.desc
  let n := blockLen c r.desc k
  let dst := if c.op = 0 then gatherAt c r.desc k else dDST r.desc
  let o := reduced c (ldSide s true src n) r
  let s := delivered (if o.2 = 0 then s else bump s rNUM_SAT 31 0 o.2) true src n
  let s := putRun (collWrite s r dst o.1) { r with gather := true }
  if c.op = 0 then (others s c).foldl (fun s m => sendBlock s c r m k 1 dst n) s else s

/-- RECV_ADDR's counts (R373). -/
def recvCounts (s : State) (c : Coll) (r : CollRun) : Bytes :=
  (List.range c.memb.length).flatMap fun k =>
    toLE 4 ((if k = myRank s c then (if dCNT r.desc = 0 then dCOUNT r.desc else ldN s 0 (dCNT r.desc + 4 * k) 4)
             else ((r.ends.find? fun e => e.1 == k).map fun e => e.2.2 / elemSize c.fmt).getD 0))

/-- What a task does as soon as it can: reduce, and complete (R374, R376). -/
def progressRun (s : State) (c : Coll) (r : CollRun) : State :=
  let red := c.op < 2 && !r.gather && phaseDone s c r 0
  let s := if red then reduceNow s c r else s
  let r := if red then { r with gather := true } else r
  if (c.op < 2 → r.gather) ∧ (phasesOf c.op).all (phaseDone s c r) ∧ sendsDone s r then
    let s := if c.op = 3 ∧ dRCV r.desc ≠ 0 then collWrite s r (dRCV r.desc) (recvCounts s c r) else s
    endRun s r stOK
  else s

/-- Every running task looked at again, as after an acknowledgement. -/
def progressAll (s : State) : State :=
  s.coll.runs.foldl (fun s r => match findRun' s r.id r.inst, collOf s r.id with
    | some x, some c => progressRun s c x
    | _, _ => s) s

/-! ### Packets that arrive (R375, R376, R379) -/

/-- A task fails for a packet that disagrees with it. -/
def collMismatch (s : State) (r : CollRun) : State := endRun (bump s rCOLL_STAT 15 8 1) r stParam

/-- The packet agrees with the task. -/
def pktAgrees (s : State) (c : Coll) (r : CollRun) (p : CollPkt) : Bool :=
  let k := c.memb.idxOf p.src
  let me := myRank s c
  let blk := if p.phase = 1 then k else me
  k < c.memb.length && k != me && (phasesOf c.op).contains p.phase && p.block == blk
  && p.length == p.data.length && p.offset % pktMax == 0 && p.offset + p.length ≤ blockLen c r.desc blk
  && p.length % elemSize c.fmt == 0
  && (if c.op = 3 then p.length ≤ pktMax else p.length == min pktMax (blockLen c r.desc blk - p.offset))
  && !(r.got.any fun g => g.1 == k && g.2.1 == p.phase && g.2.2.1 == p.offset)

/-- Poisoned words written marked as they are (R354). -/
def markPoison (s : State) (a poison : Nat) (n : Nat) : State :=
  (bitList n poison).foldl (fun s w => markBad (markBad s 0 ((a + 16 * w) / 16)) 0 ((a + 16 * w + 15) / 16)) s

/-- A data packet applied to the task it is for. -/
def applyPkt (s : State) (c : Coll) (r : CollRun) (p : CollPkt) : State :=
  if !pktAgrees s c r p then collMismatch s r
  else
    let k := c.memb.idxOf p.src
    let direct := p.phase == 1 || c.op == 3
    let a := gatherAt c r.desc k + p.offset
    let s := if direct then collWrite s r a p.data else s
    if p.poison % 2 ^ ceilDiv p.length 16 ≠ 0 then
      endRun (if direct then markPoison s a p.poison (ceilDiv p.length 16) else s) r stFault
    else
      let last := if c.op = 3 then p.length < pktMax else p.offset + p.length == blockLen c r.desc (if p.phase = 1 then k else myRank s c)
      let r := { r with got := r.got ++ [(k, p.phase, p.offset, p.data)]
                        ends := if last then (k, p.phase, p.offset + p.length) :: r.ends else r.ends }
      progressRun (putRun s r) c r

/-- Receive buffers freed: credits for the sender (R356). -/
def freeFlits (s : State) (n cls flits : Nat) : State :=
  if flits = 0 then s else modLink s n fun l => { l with freed := modAt l.freed cls fun x => (x + flits) % 65536 }

def stagedBytes (s : State) : Nat := sumOf (s.coll.staged.map fun p => p.data.length)

/-- Packets that waited in receive buffers move to the staging blocks as these have room. -/
def restage (s : State) : State :=
  s.coll.held.foldl (fun s h =>
    if stagedBytes s + h.1.data.length ≤ stagingBytes then
      freeFlits { s with coll := { s.coll with staged := s.coll.staged ++ [h.1], held := s.coll.held.erase h } } h.2.1 h.1.cls h.2.2
    else s) s

/-- The task of an aborted invocation fails (R379). -/
def collAborted (s : State) (r : CollRun) : State := endRun (bump s rCOLL_STAT 23 16 1) r stLink

/-- A packet for this module's engine: applied to its task, kept for a task not started, or discarded. -/
def collTake (s : State) (n flits : Nat) (p : CollPkt) : State :=
  match collOf s p.collId with
  | none => freeFlits (if p.kind = 0 then bump s rCOLL_STAT 15 8 1 else s) n p.cls flits
  | some c =>
    match findRun' s p.collId p.inst with
    | some r => freeFlits (if p.kind = 1 then collAborted s r else applyPkt s c r p) n p.cls flits
    | none =>
      if 2 ^ 31 ≤ (p.inst + 2 ^ 32 - c.next % 2 ^ 32) % 2 ^ 32 then freeFlits s n p.cls flits
      else if stagedBytes s + p.data.length ≤ stagingBytes then
        freeFlits { s with coll := { s.coll with staged := s.coll.staged ++ [p] } } n p.cls flits
      else { s with coll := { s.coll with held := s.coll.held ++ [(p, n, flits)] } }

/-- A packet number not seen before from its origin, noted; `none` for a duplicate (R369). -/
def notePkt (s : State) (src q : Nat) : Option State :=
  let (hi, seen) := match s.link.rxSeq.find? fun x => x.1 == src with
    | some x => (some x.2.1, x.2.2)
    | none => (none, [])
  let set := fun (h : Nat) (l : List Nat) =>
    { s with link := { s.link with rxSeq := (src, h, l) :: s.link.rxSeq.filter fun x => x.1 != src } }
  match hi with
  | none => some (set q [q])
  | some h =>
    let ahead := (q + 2 ^ 32 - h) % 2 ^ 32
    if 1 ≤ ahead ∧ ahead < 2 ^ 31 then some (set q (q :: seen.filter fun x => (q + 2 ^ 32 - x) % 2 ^ 32 ≤ 4096))
    else if 4096 < (h + 2 ^ 32 - q) % 2 ^ 32 ∨ seen.contains q then none
    else some (set h (q :: seen))

/-- A packet that is not for this module passed on (R367). -/
def forwardOn (s : State) (n flits : Nat) (p : CollPkt) : State :=
  let s := freeFlits s n p.cls flits
  if 6 ≤ p.hops + 1 then bump s rCOLL_STAT 7 0 1
  else
    let s := match nextHop s p.dst with
      | some x => bump64 s (rLINK_PERF x.1 + 24) (32 + p.data.length)
      | none => s
    routePkt s { p with hops := p.hops + 1 }

/-- A packet received whole over link `n`, in `flits` receive buffers: passed on, discarded as a duplicate, or delivered; `kct`
takes a proxied KCT packet. -/
def recvPkt (s : State) (n flits : Nat) (p : CollPkt) (kct : State → Nat → Bytes → State) : State :=
  let s := wakeDevice s
  if 2 < p.kind then freeFlits s n p.cls flits
  else if p.dst ≠ myCode s then forwardOn s n flits p
  else match notePkt s p.src p.pktSeq with
    | none => freeFlits (bump64 s (rCOLL_PERF + 8) 1) n p.cls flits
    | some s => if p.kind = 2 then kct (freeFlits s n p.cls flits) n p.data else collTake s n flits p

/-! ### Members that cannot be reached (R379) -/

/-- A task fails because a member has no route: every other member that can be reached is told. -/
def lostRun (s : State) (c : Coll) (r : CollRun) : State :=
  let s := (others s c).foldl (fun s k =>
    originate s { kind := 1, hops := 0, part := r.part, src := 0, dst := c.memb.getD k 0, collId := r.id, inst := r.inst % 2 ^ 32,
                  pktSeq := 0, offset := 0, length := 0, block := 0, phase := 0, cls := b2n c.rack, data := [], poison := 0 }) s
  endRun s r stLink

def unreachable (s : State) (c : Coll) : Bool := (others s c).any fun k => (nextHop s (c.memb.getD k 0)).isNone

/-- Every running task that needs a member without a route fails. -/
def failUnreachable (s : State) : State :=
  s.coll.runs.foldl (fun s r => match findRun' s r.id r.inst, collOf s r.id with
    | some x, some c => if unreachable s c then lostRun s c x else s
    | _, _ => s) s

/-! ### Collective tasks (R372, R373, R376) -/

/-- The elements a task sends to rank `k`, for an all-to-all from COUNT_ADDR. -/
def sendCount (s : State) (c : Coll) (d : Bytes) (k : Nat) : Nat :=
  if c.op = 3 ∧ dCNT d ≠ 0 then ldN s 0 (dCNT d + 4 * k) 4 else dCOUNT d

/-- The source block a task sends to rank `k`: its address and bytes. -/
def sourceOf (s : State) (c : Coll) (d : Bytes) (k : Nat) : Nat × Nat :=
  if c.op = 0 then (dSRC d + blockOff c d k, blockLen c d k)
  else if c.op = 2 then (dSRC d, blockLen c d k)
  else (dSRC d + k * dSTR d, sendCount s c d k * elemSize c.fmt)

/-- The data a task sends is put on its way, and the blocks it keeps for itself are written. -/
def sendAll (s : State) (c : Coll) (r : CollRun) : State :=
  let me := myRank s c
  let ph := if c.op = 2 then 1 else 0
  let s := (others s c).foldl (fun s k =>
    let x := sourceOf s c r.desc k
    sendBlock (charge s 2 r.part x.2) c r k (if c.op = 2 then me else k) ph x.1 x.2) s
  if c.op < 2 then s
  else
    let x := sourceOf s c r.desc me
    collWrite (delivered s true x.1 x.2) r (dDST r.desc + me * dSTR r.desc) (ldSide s true x.1 x.2)

/-- Packets that came before their task started, in the order they came. -/
def applyStaged (s : State) (r : CollRun) : State :=
  let mine := s.coll.staged.filter fun p => p.collId == r.id && p.inst == r.inst % 2 ^ 32
  let s := { s with coll := { s.coll with staged := s.coll.staged.filter fun p => !(p.collId == r.id && p.inst == r.inst % 2 ^ 32) } }
  let s := mine.foldl (fun s p => match findRun' s r.id r.inst, collOf s r.id with
    | some x, some c => if p.kind = 1 then collAborted s x else applyPkt s c x p
    | _, _ => s) s
  restage s

/-- The first word of what a task reads that does not decode: its counts, then its source blocks. -/
def collUe (s : State) (c : Coll) (d : Bytes) : Option Nat :=
  match (if c.op = 3 ∧ dCNT d ≠ 0 then firstBad s 0 (dCNT d) (4 * c.memb.length) else none) with
  | some x => some x
  | none => (List.range c.memb.length).findSome? fun k => firstBad s 0 (sourceOf s c d k).1 (sourceOf s c d k).2

/-- A collective task starts (R372): its number is taken and its data sent. A word that does not decode goes out poisoned and fails
the task here as well (R294, R354). -/
def startColl (s : State) (slot : Nat) (sl : Slot) (i : Inst) (c : Coll) (e : Ecc) : State :=
  let id := num sl.desc 16 2
  let s := match e with
    | .corrected 0 a => readCe s 0 a
    | .uncorrectable 0 a =>
      if (List.range c.memb.length).any fun k => covers (sourceOf s c sl.desc k).1 (sourceOf s c sl.desc k).2 a then markBad s 0 (a / 16)
      else s
    | _ => s
  let r : CollRun := { slot := slot, id := id, inst := c.next, start := s.time, desc := sl.desc, part := instPart s i, got := [],
                       ends := [], gather := false }
  let s := { s with coll := { s.coll with open_ := put s.coll.open_ id { c with next := c.next + 1 }, runs := s.coll.runs ++ [r] } }
  if (List.range c.memb.length).any fun k => dCOUNT sl.desc < sendCount s c sl.desc k then endRun s r stParam
  else if unreachable s c then lostRun s c r
  else
    let ue := collUe s c sl.desc
    let s := sendAll s c r
    match ue with
    | some x => endRun (readUe s 0 x (blameOf i sl)) r stFault
    | none =>
      let s := applyStaged s r
      match findRun' s id r.inst with
      | some x => progressRun s c x
      | none => s

/-- A released collective task runs. -/
def collectiveTask (s : State) (slot : Nat) (e : Ecc) : State :=
  match released s slot 9 (fun _ => true) with
  | none => s
  | some (sl, i) =>
    match collOf s (num sl.desc 16 2) with
    | none => endTask s slot stParam
    | some c => startColl (beginTask s slot) slot sl i c e

def execCollectiveTask (slot : Nat) (ecc : Ecc) (s : State) : Host.Outcome State Fault Refusal := .next (collectiveTask s slot ecc)

/-- The time a task may take, in ticks (R376). -/
def collLimit (s : State) (d : Bytes) : Nat := (if num d 44 4 = 0 then fld s rCOLL_CTL 23 0 else num d 44 4) * 25

/-- A task not complete in its time fails. -/
def collectiveTimeout (s : State) (slot : Nat) : State :=
  match s.coll.runs.find? fun r => r.slot == slot with
  | none => s
  | some r => if s.time < r.start + collLimit s r.desc then s else endRun (bump s rCOLL_STAT 31 24 1) r stLink

def execCollectiveTimeout (slot : Nat) (s : State) : Host.Outcome State Fault Refusal := .next (collectiveTimeout s slot)

/-- A collective data packet received over a link, or an abort; its flits are counted where they are received (R356, log 18). -/
def collDataReceive (s : State) (n : Nat) (c : CollPkt) : State :=
  if !linkOk s n then s else recvPkt s n 0 { c with kind := 0 } fun s _ _ => s

def execCollDataReceive (link : Nat) (c : CollPkt) (s : State) : Host.Outcome State Fault Refusal := .next (collDataReceive s link c)

def collAbortReceive (s : State) (n : Nat) (c : CollPkt) : State :=
  if !linkOk s n then s else recvPkt s n 0 { c with kind := 1 } fun s _ _ => s

def execCollAbortReceive (link : Nat) (c : CollPkt) (s : State) : Host.Outcome State Fault Refusal := .next (collAbortReceive s link c)

end Sys2Proof.Machine
end

