-- ==== Sys2Proof/Machine/HostCmds.lean ====
section
/-! DEFINITION. Memory, capability, time, event-subscription and register-read commands (13, 15). -/

namespace Sys2Proof.Machine

/-- A packet whose payload byte at an offset is the one its row of the table fixes (its OP). -/
def withByte (p : Pkt) (o v : Nat) : Pkt := { p with payload := p.payload.set o (BitVec.ofNat 8 v) }

/-- What naming a space ends in, if anything (R4, R6, R308, R309, R337): a reserved code, a far tier that is absent or
withdrawn. -/
def spaceFault (s : State) (sp : Nat) : Option Nat :=
  if 2 < sp then some stParam
  else if sp = 2 ∧ s.fuses.variantB then some stUnit
  else if sp = 2 ∧ capOf s 2 = 0 then some stRetired
  else none

/-! ### WRITE_MEM and READ_MEM (R331, R337, R298) -/

/-- The status that the parameters of a WRITE_MEM of `n` data bytes meet, if they fail. -/
def writeFault (s : State) (c : Nat) (pl : Bytes) (n : Nat) : Option Nat :=
  let sp := num pl 0 1
  let a := num pl 8 8
  if !allZero pl 1 7 then some stParam
  else match spaceFault s sp with
    | some st => some st
    | none =>
      if n = 0 then none
      else if capOf s sp < a + n then some stParam
      else if c = 0 && inReserved s sp a n then some stParam
      else if !mayName s c sp a n then some stNoObj
      else none

/-- Data of a WRITE_MEM put at its place and charged to the context's partition. -/
def writeData (s : State) (c sp a : Nat) (d : Bytes) : State :=
  charge (st s sp a d) (resOf sp) (partOf s c) d.length

/-- WRITE_MEM whose data is all here. -/
def writeMem (s : State) (r : Req) : State :=
  let pl := r.pkt.payload
  let d := pl.drop 16
  match writeFault s r.pkt.hdr.ctx pl d.length with
  | some x => fail s r x
  | none => fail (writeData s r.pkt.hdr.ctx (num pl 0 1) (num pl 8 8) d) r stOK

/-- Segment 0 of a longer WRITE_MEM (R329): the whole range the transfer may write is checked, the data at hand written. -/
def writeFirst (r : Req) (s : State) : Except Nat State :=
  let pl := r.pkt.payload
  let c := r.pkt.hdr.ctx
  if pl.length < 16 then .error stLength
  else match writeFault s c pl (r.pkt.hdr.segLast * pl.length + 1 - 16) with
    | some x => .error x
    | none => .ok (writeData s c (num pl 0 1) (num pl 8 8) (pl.drop 16))

def execWriteMem (p : Pkt) (s : State) : Host.Outcome State Fault Refusal :=
  .next (receiveWith s opWRITE (rowReq opWRITE p) writeMem (writeFirst (rowReq opWRITE p)))

/-- READ_MEM: the checks, then the data; an uncorrectable word ends it (R490). -/
def readMem (s : State) (r : Req) : State :=
  let pl := r.pkt.payload
  let sp := num pl 0 1
  let n := num pl 4 4
  let a := num pl 8 8
  let c := r.pkt.hdr.ctx
  if !allZero pl 1 3 then fail s r stParam
  else match spaceFault s sp with
    | some st => fail s r st
    | none =>
      if 536870912 < n then fail s r stParam
      else if n = 0 then fail s r stOK
      else if capOf s sp < a + n then fail s r stParam
      else if !mayName s c sp a n then fail s r stNoObj
      else match firstBad s sp a n with
        | some x => cmdUe s r sp x
        | none => replyTo (charge s (resOf sp) (partOf s c) n) r stOK 0 (ld s sp a n)

def execReadMem (p : Pkt) (s : State) : Host.Outcome State Fault Refusal :=
  .next (receive s opREAD p readMem)

/-! ### MEM_ALLOC (R321, R125) -/

/-- MEM_ALLOC's fields common to both operations fail. -/
def allocFault (s : State) (pl : Bytes) : Option Nat :=
  if !allZero pl 2 2 then some stParam
  else match spaceFault s (num pl 1 1) with
    | some st => some st
    | none => if num pl 4 4 = 0 then some stParam else none

def memGrant (s : State) (r : Req) : State :=
  let pl := r.pkt.payload
  let c := r.pkt.hdr.ctx
  let sp := num pl 1 1
  let n := num pl 4 4
  match allocFault s pl with
  | some st => fail s r st
  | none =>
    let quota := match ctxOf s c with
      | some x => x.memQuota
      | none => 0
    if quota < blocksHeld s c + n then fail s r stCapacity 1
    else match findRun s c sp n with
      | none => fail s r stNoObj
      | some b => replyTo (grantRun { s with fresh := s.fresh + 1 } c sp b n) r stOK 0 (toLE 8 (b * 65536))

def execMemAllocGrant (p : Pkt) (s : State) : Host.Outcome State Fault Refusal :=
  .next (receive s opALLOC (withByte p 0 0) memGrant)

def memFree (s : State) (r : Req) : State :=
  let pl := r.pkt.payload
  let c := r.pkt.hdr.ctx
  let sp := num pl 1 1
  let n := num pl 4 4
  let a := num pl 8 8
  match allocFault s pl with
  | some st => fail s r st
  | none =>
    if a % 65536 ≠ 0 ∨ !ownsRange s c sp a (n * 65536) then fail s r stParam
    else replyTo (freeRunOf s sp (a / 65536) n) r stOK 0 (toLE 8 a)

def execMemAllocFree (p : Pkt) (s : State) : Host.Outcome State Fault Refusal :=
  .next (receive s opALLOC (withByte p 0 1) memFree)

/-! ### QUERY_CAPS and TIME_READ -/

/-- The 64-byte reply of Table 13.10. -/
def capsPayload (s : State) : Bytes :=
  toLE 4 (unitMask s) ++ toLE 1 (if s.fuses.stepA1 then 1 else 2) ++ toLE 1 s.trust.running.kctMin ++ toLE 1 s.trust.running.kctMax
  ++ [0] ++ toLE 2 s.trust.running.fmtMin ++ toLE 2 s.trust.running.fmtMax
  ++ toLE 1 (arraysIn s) ++ toLE 1 (attnIn s) ++ toLE 1 (fld s rCOMMONS_INFO 7 0) ++ toLE 1 (mySlot s)
  ++ toLE 8 (capOf s 1) ++ toLE 8 (capOf s 2) ++ toLE 4 (32768 - entriesUsed s) ++ toLE 2 (4096 - s.kct.ctxs.length)
  ++ toLE 2 (16384 - s.disp.owners.length) ++ toLE 8 s.fuses.serial.toNat ++ toLE 8 s.trust.running.build.toNat
  ++ toLE 2 (ofBits (s.models.map (·.1))) ++ zeros 2 ++ toLE 4 s.pins.boardId.toNat

def queryCaps (s : State) (r : Req) : State := replyTo s r stOK 0 (capsPayload s)

def execQueryCaps (p : Pkt) (s : State) : Host.Outcome State Fault Refusal :=
  .next (receive s opCAPS p queryCaps)

def timeRead (s : State) (r : Req) : State := replyTo s r stOK 0 (toLE 8 s.time)

def execTimeRead (p : Pkt) (s : State) : Host.Outcome State Fault Refusal :=
  .next (receive s opTIME p timeRead)

/-! ### Event subscriptions (R342) -/

/-- The endpoint EVENT_SUBSCRIBE and the port configuration record spell: family, 16 address bytes, UDP port. An IPv4 address
stands in the first four bytes, first octet first. -/
def endpointOf (fam : Nat) (addr : Bytes) (port : Nat) : Endpoint :=
  { fam := fam, addr := ofLE (addr.take (if fam = 4 then 4 else 16)).reverse, port := port }

def eventSubscribe (s : State) (r : Req) : State :=
  let pl := r.pkt.payload
  let fam := num pl 4 1
  if (fam ≠ 4 ∧ fam ≠ 6) ∨ !allZero pl 5 3 ∨ !allZero pl 26 2 then fail s r stParam
  else
    let b : Sub := { mask := num pl 0 4, dst := endpointOf fam (sliceOf pl 8 16) (num pl 24 2), seq := 1, queue := [], lost := 0 }
    fail (modCtx s r.pkt.hdr.ctx fun c => { c with sub := some b }) r stOK

def execEventSubscribe (p : Pkt) (s : State) : Host.Outcome State Fault Refusal :=
  .next (receive s opSUB p eventSubscribe)

def eventUnsubscribe (s : State) (r : Req) : State :=
  fail (modCtx s r.pkt.hdr.ctx fun c => { c with sub := none }) r stOK

def execEventUnsubscribe (p : Pkt) (s : State) : Host.Outcome State Fault Refusal :=
  .next (receive s opUNSUB p eventUnsubscribe)

/-! ### REG_READ (R383, R386) -/

/-- The 4-byte numbers of a payload from an offset, `n` of them. -/
def words32 (pl : Bytes) (o : Nat) : Nat → List Nat
  | 0 => []
  | n + 1 => num pl o 4 :: words32 pl (o + 4) n

def regRead (s : State) (r : Req) : State :=
  let pl := r.pkt.payload
  let n := num pl 0 4
  let as := words32 pl 4 n
  let zero := r.pkt.hdr.ctx == 0
  if n = 0 ∨ 1023 < n ∨ !as.all goodAddr ∨ (!zero && as.any restricted) then fail s r stParam
  else
    let x := readRegs s zero as
    replyTo x.2 r stOK 0 (x.1.flatMap (toLE 4))

def execRegRead (p : Pkt) (s : State) : Host.Outcome State Fault Refusal :=
  .next (receive s opRREAD p regRead)

end Sys2Proof.Machine
end

