-- ==== Sys2Proof/Machine/Links.lean ====
section
/-! DEFINITION. The trellis links: bring-up, control flits, retrains, the installation map, and opening collectives (14). -/

namespace Sys2Proof.Machine

/-! ### The installation map (R361, R362) -/

/-- The wiring map's entry for a link (R362, from R348 and R349). -/
def wiredEntry (s : State) (n : Nat) : MapEntry :=
  if n < 7 then { mode := 1, boardPos := myPos s, slot := Nat.xor (mySlot s) (n + 1), link := n, boardId := s.pins.boardId, serial := 0 }
  else if n < 10 then { mode := 1, boardPos := Nat.xor (myPos s) (2 ^ (n - 7)), slot := mySlot s, link := n, boardId := 0, serial := 0 }
  else { mode := 1, boardPos := Nat.xor (myPos s) 7, slot := Nat.xor (mySlot s) 7, link := n, boardId := 0, serial := 0 }

/-- The map in force. -/
def mapNow (s : State) : List MapEntry := s.link.map.getD ((List.range 11).map (wiredEntry s))
def mapEntry (s : State) (n : Nat) : MapEntry := (mapNow s).getD n (wiredEntry s n)

/-- A map entry's bytes (Table 14.6). -/
def entryBytes (e : MapEntry) : Bytes :=
  toLE 1 e.mode ++ toLE 1 e.boardPos ++ toLE 1 e.slot ++ toLE 1 e.link ++ toLE 4 e.boardId.toNat ++ toLE 8 e.serial.toNat ++ zeros 8

/-- The identity record's bytes (Table 14.5). -/
def identityBytes (i : Identity) : Bytes :=
  let b := toLE 8 i.serial.toNat ++ toLE 4 i.boardId.toNat ++ toLE 1 i.boardPos ++ toLE 1 i.slot ++ toLE 1 i.link ++ toLE 1 i.variant
    ++ toLE 1 i.lpMin ++ toLE 1 i.lpMax ++ zeros 2 ++ toLE 8 i.fwBuild.toNat ++ toLE 4 i.mapCheck.toNat ++ zeros 28
  b ++ toLE 4 (crc32 b)

/-- This module's record for a link (R358). -/
def myIdentity (s : State) (n : Nat) : Identity :=
  { serial := s.fuses.serial, boardId := s.pins.boardId, boardPos := myPos s, slot := mySlot s, link := n,
    variant := b2n s.fuses.variantB, lpMin := fld s rLINK_INFO 7 0, lpMax := fld s rLINK_INFO 15 8, fwBuild := s.trust.running.build,
    mapCheck := BitVec.ofNat 32 (crc32c ((mapNow s).flatMap entryBytes)) }

/-! ### Verdicts (R359, R360) -/

/-- The verdict of an entry on a record: 0, 1, 2 or 3, and the version chosen. -/
def verdictOf (s : State) (e : MapEntry) (i : Identity) : Nat × Nat :=
  let lo := max (fld s rLINK_INFO 7 0) i.lpMin
  let hi := min (fld s rLINK_INFO 15 8) i.lpMax
  if hi < lo then (2, 0)
  else if e.mode = 0 then (3, hi)
  else if e.mode = 2 ∨ (i.boardPos = e.boardPos ∧ i.slot = e.slot ∧ i.link = e.link ∧ (e.boardId = 0 ∨ e.boardId = i.boardId)
      ∧ (e.serial = 0 ∨ e.serial = i.serial)) then (0, hi)
  else (1, hi)

/-! ### States and their events (R381, Table 14.7) -/

/-- The link exists on this variant (R350). -/
def linkThere (s : State) (n : Nat) : Bool := n < (if s.fuses.variantB then 7 else 11)

def linkLanes (s : State) (n : Nat) : Nat := fld s (rLINK_STAT n) 7 4

/-- LINK_STAT takes a state, reason, lanes and version; a change of STATE or LANES raises LINK_CHANGE. -/
def enterLink (s : State) (n st reason lanes ver : Nat) : State :=
  let old := linkState s n
  let changed := old != st || linkLanes s n != lanes
  let s := setFld (setFld (setFld (setFld s (rLINK_STAT n) 2 0 st) (rLINK_STAT n) 27 24 reason) (rLINK_STAT n) 7 4 lanes)
    (rLINK_STAT n) 31 28 ver
  let s := if st = 4 ∨ st = 5 then setFld s (rLINK_STAT n) 3 3 0 else s
  if !changed then s
  else
    let p := (linkOf s n).peer
    let body := toLE 1 n ++ toLE 1 old ++ toLE 1 st ++ toLE 1 reason ++ toLE 1 lanes ++ toLE 1 ver ++ zeros 2
      ++ toLE 8 (match p with
        | some i => i.serial.toNat
        | none => 0)
      ++ toLE 8 (match p with
        | some i => i.fwBuild.toNat
        | none => 0)
    notify s 0 0x0A15 0 (if st = 5 then 1 else if st = 0 ∨ st = 3 then 2 else 0) body

/-- A packet as bytes read back (Table 14.8). -/
def pktOf (cls : Nat) (b : Bytes) (poison : Nat) : CollPkt :=
  { kind := num b 0 1, hops := num b 1 1 / 8, part := num b 1 1 % 8, src := num b 2 1, dst := num b 3 1, collId := num b 4 2,
    inst := num b 8 4, pktSeq := num b 12 4, offset := num b 16 4, length := num b 20 4, block := num b 24 2, phase := num b 26 1,
    cls := cls, data := b.drop 32, poison := poison / 4 }

/-- A link that stops carrying traffic: its packets that are not acknowledged whole, and those that wait, go by other routes (R378);
tasks that no route serves any longer fail (R379). -/
def reroute (s : State) (n : Nat) (jobs : List FlitJob) : State :=
  let s := if jobs.isEmpty then s else setFld s (rLINK_STAT n) 3 3 1
  failUnreachable (jobs.foldl (fun s j => routePkt s (pktOf j.cls j.bytes j.poison)) s)

/-- The link's buffers emptied, with what it has learnt of its peer kept; its packets to send again. -/
def clearLink (s : State) (n : Nat) : List FlitJob × State :=
  let l := linkOf s n
  (l.sent ++ l.queue.map (fun j => { j with pos := 0 }), setLink s n { Link.zero with peer := l.peer, since := s.time })

/-- The link goes to DOWN with a reason. -/
def linkDown (s : State) (n reason : Nat) : State :=
  let c := clearLink s n
  reroute (enterLink c.2 n 0 reason 0 0) n c.1

/-- A full bring-up begins (R357); a periodic attempt on a DOWN link shows nothing before lane lock (R365). -/
def bringUp (s : State) (n : Nat) (silent : Bool) : State :=
  if !linkThere s n then s
  else
    let c := clearLink s n
    let s := modLink c.2 n fun l => { l with silent := silent }
    if silent then s else reroute (enterLink s n 1 0 0 0) n c.1

/-- The link enters QUARANTINE, with both records in an event (R363, R381). -/
def quarantine (s : State) (n reason : Nat) : State :=
  let c := clearLink s n
  let l := linkOf s n
  let s := modLink c.2 n fun x => { x with mine := l.mine, told := l.told, verdict := l.verdict, lastCtl := l.lastCtl }
  let s := enterLink s n 3 reason (linkLanes s n) 0
  let body := toLE 1 n ++ toLE 1 reason ++ zeros 6 ++ entryBytes (mapEntry s n) ++ (match l.peer with
    | some i => identityBytes i
    | none => zeros 64)
  reroute (notify s 0 0x0A16 0 2 body (if reason = 2 then stPeer else 0)) n c.1

/-- The link carries traffic: credits set, buffers empty (Table 14.4). -/
def linkUp (s : State) (n ver : Nat) : State :=
  let l := linkOf s n
  let s := setLink s n { Link.zero with peer := l.peer, mine := l.mine, told := l.told, verdict := l.verdict, peerMask := l.peerMask,
                                        since := s.time, lastCtl := s.time }
  flushSub (enterLink s n (if linkLanes s n = 15 then 4 else 5) 0 (linkLanes s n) ver) 0 258

/-- What the two verdicts decide, once they do: this end's counts when it has been sent (R359, R360). A link that stays in QUARANTINE shows
the reason of the verdicts as they are now. -/
def settle (s : State) (n : Nat) : State :=
  let l := linkOf s n
  if linkState s n ≠ 2 ∧ linkState s n ≠ 3 then s
  else
    let mine := if l.told then l.mine else none
    let bad := fun (v : Option (Nat × Nat)) => match v with
      | some x => x.1
      | none => 0
    let refuse := fun (r : Nat) => if linkState s n = 2 then quarantine s n r else setFld s (rLINK_STAT n) 27 24 r
    if bad mine ≠ 0 then refuse (bad mine)
    else if bad l.verdict ≠ 0 then refuse (bad l.verdict)
    else match mine, l.verdict with
      | some m, some _ => linkUp s n m.2
      | _, _ => s

/-! ### Bring-up rows (R357, R365) -/

/-- All four lanes lock: the link enters IDENTIFY. -/
def laneLock (s : State) (n : Nat) : State :=
  let l := linkOf s n
  if !linkThere s n || !(linkState s n == 1 || (linkState s n == 0 && l.silent)) then s
  else enterLink (setLink s n { Link.zero with peer := l.peer, since := s.time, lastCtl := s.time }) n 2 0 15 0

def execLinkLaneLock (n : Nat) (s : State) : Host.Outcome State Fault Refusal := .next (laneLock s n)

/-- No lane lock within 100 ms. -/
def trainTimeout (s : State) (n : Nat) : State :=
  let l := linkOf s n
  if s.time < l.since + 2500000 then s
  else if linkState s n = 1 then linkDown s n 4
  else if linkState s n = 0 ∧ l.silent then modLink s n fun l => { l with silent := false }
  else s

def execLinkTrainTimeout (n : Nat) (s : State) : Host.Outcome State Fault Refusal := .next (trainTimeout s n)

/-- No verdict from the peer within 1 ms of IDENTIFY. -/
def verdictTimeout (s : State) (n : Nat) : State :=
  let l := linkOf s n
  if linkState s n = 2 ∧ l.verdict.isNone ∧ l.since + 25000 ≤ s.time then linkDown s n 5 else s

def execLinkVerdictTimeout (n : Nat) (s : State) : Host.Outcome State Fault Refusal := .next (verdictTimeout s n)

/-- Firmware tries a DOWN link that is enabled again every second (R365). -/
def linkRetry (s : State) (n : Nat) : State :=
  let l := linkOf s n
  if s.power.dev != .off && linkThere s n && linkState s n == 0 && !l.silent && fld s (rLINK_CTL n) 0 0 == 1 && l.since + 25000000 ≤ s.time
  then bringUp s n true else s

def execLinkRetryTimer (n : Nat) (s : State) : Host.Outcome State Fault Refusal := .next (linkRetry s n)

/-! ### Retrains (R364, R365) -/

/-- Every flit held is due to be sent again, from the first after ACK_SEQ (R355). -/
def replayAll (s : State) (n : Nat) : State :=
  let l := linkOf s n
  pumpLink (setLink s n { l with again := l.replay.length }) n pumpFuel

def execLaneLockLoss (n : Nat) (s : State) : Host.Outcome State Fault Refusal := .next (startRetrain s n)

/-- No control flit with a good CRC for 1 µs. -/
def ctlTimeout (s : State) (n : Nat) : State := if s.time < (linkOf s n).lastCtl + 25 then s else startRetrain s n

def execControlFlitTimeout (n : Nat) (s : State) : Host.Outcome State Fault Refusal := .next (ctlTimeout s n)

/-- The lanes in use after a retrain that locks some: four give UP, but not a DEGRADED link; a pair gives DEGRADED. -/
def lanesAfter (s : State) (n lanes : Nat) : Nat :=
  let pair := fun (m : Nat) => Nat.land lanes m == m
  if linkState s n = 5 then (if pair (linkLanes s n) then linkLanes s n else if pair 3 then 3 else if pair 12 then 12 else 0)
  else if pair 15 then 15 else if pair 3 then 3 else if pair 12 then 12 else 0

/-- A retrain locks lanes: the link carries traffic again and the replay resumes. -/
def retrainDone (s : State) (n lanes : Nat) : State :=
  let l := linkOf s n
  let lns := lanesAfter s n lanes
  if !l.retraining || lns = 0 then s
  else
    let s := modLink s n fun l => { l with retraining := false, retrains := 0, lastCtl := s.time }
    let s := enterLink s n (if lns = 15 then 4 else 5) 0 lns (fld s (rLINK_STAT n) 31 28)
    replayAll s n

def execRetrainDone (n : Nat) (lanes : Nat) (s : State) : Host.Outcome State Fault Refusal := .next (retrainDone s n lanes)

/-- A retrain fails, after 10 µs with no signal on any lane or 200 µs with no pair locked (R364): which of the two, the environment
knows, so it fails from 10 µs on. The third in a row, or one that fails 1 ms after the first began, takes the link DOWN; else the next begins. -/
def retrainFail (s : State) (n : Nat) : State :=
  let l := linkOf s n
  if !l.retraining ∨ s.time < l.since + 250 then s
  else
    let first := if l.retrains = 0 then l.since else l.firstFail
    if 3 ≤ l.retrains + 1 ∨ first + 25000 ≤ s.time then linkDown s n 5
    else modLink (bump s (rLINK_ERR n) 15 8 1) n fun l => { l with retrains := l.retrains + 1, firstFail := first, since := s.time }

def execRetrainFail (n : Nat) (s : State) : Host.Outcome State Fault Refusal := .next (retrainFail s n)

/-- 1 ms after the first of the failed retrains began. -/
def linkDownTimer (s : State) (n : Nat) : State :=
  let l := linkOf s n
  if l.retraining ∧ l.retrains ≠ 0 ∧ l.firstFail + 25000 ≤ s.time then linkDown s n 5 else s

def execLinkDownTimer (n : Nat) (s : State) : Host.Outcome State Fault Refusal := .next (linkDownTimer s n)

/-! ### Control flits (R353, R355, R356, R358, Table 14.3) -/

/-- The control flit this end sends now. -/
def controlBytes (s : State) (n : Nat) : Bytes :=
  let l := linkOf s n
  let ident := linkState s n == 2
  let v := match l.mine with
    | some m => if ident || (linkState s n == 3 && !l.told) then toLE 1 m.1 ++ toLE 1 m.2 ++ zeros 2 else zeros 4
    | none => zeros 4
  let pl := toLE 2 ((l.rxNext + 65535) % 65536) ++ toLE 1 (b2n l.nak) ++ zeros 1
    ++ toLE 2 (l.freed.getD 0 0) ++ toLE 2 (l.freed.getD 1 0) ++ toLE 2 (l.freed.getD 2 0)
    ++ toLE 2 (ofBits ((List.range 11).filter (linkOk s))) ++ zeros 4
    ++ (if ident then identityBytes (myIdentity s n) else zeros 64) ++ v
  flitBytes 3 0 false 0 0 0 pl

/-- The control slot of a link that carries flits: the 20 data slots after it are open (R353). -/
def controlSlot (s : State) (n : Nat) : State :=
  if linkState s n < 2 || (linkOf s n).retraining then s
  else
    let s := put1 s (.flit n (controlBytes s n))
    let s := settle (modLink s n fun l => { l with told := l.told || l.mine.isSome, slots := 0 }) n
    pumpLink s n pumpFuel

def execControlFlitSlot (n : Nat) (s : State) : Host.Outcome State Fault Refusal := .next (controlSlot s n)

/-- The replay buffer after an acknowledgement of everything up to a number, and how many packets of each class ended in it. -/
def ackedFlits (l : Link) (ack : Nat) : Link :=
  let n := (l.replay.takeWhile fun h => (ack + 65536 - h.fseq) % 65536 < 32768).length
  let gone := l.replay.take n
  let drop := fun (sent : List FlitJob) (h : Held) => if h.last then dropJob (fun j => j.cls == h.cls) sent none else sent
  { l with replay := l.replay.drop n, sent := gone.foldl drop l.sent, again := min l.again (l.replay.length - n) }

/-- The peer's record stored (R358). -/
def storePeer (s : State) (n : Nat) (i : Identity) : State :=
  let s := wr (wr64 s (rLINK_PEER n) i.serial.toNat) (rLINK_PEER n + 8) i.boardId.toNat
  let s := wr s (rLINK_PEER n + 12) (i.lpMax % 256 * 256 + i.lpMin % 256)
  let s := setFld (setFld (setFld s (rLINK_STAT n) 18 16 i.slot) (rLINK_STAT n) 15 13 i.boardPos) (rLINK_STAT n) 12 9 i.link
  modLink s n fun l => { l with peer := some i, mine := some (verdictOf s (mapEntry s n) i) }

/-- A control flit with a good CRC. A verdict other than 0, as a peer sends under a new map, takes a link that carries traffic into
QUARANTINE (R359, R363). -/
def controlGood (s : State) (n : Nat) (f : CtlFlit) : State :=
  let s := modLink s n fun l =>
    let l := ackedFlits l f.ackSeq.toNat
    let gain := fun (c : Nat) => ((f.freed.getD c 0).toNat + 65536 - l.seen.getD c 0) % 65536
    { l with lastCtl := s.time, peerMask := f.linkMask % 2048, seen := (List.range 3).map fun c => (f.freed.getD c 0).toNat
             credits := (List.range 3).map fun c => l.credits.getD c 0 + gain c }
  if linkOk s n then
    let s := if f.nak then replayAll s n else s
    let s := match f.verdict with
      | some v => if v.1 = 0 then s else quarantine (modLink s n fun l => { l with verdict := some v }) n v.1
      | none => s
    progressAll (failUnreachable (pumpLink s n pumpFuel))
  else
    let s := match f.identity with
      | some i => if linkState s n = 2 then storePeer s n i else s
      | none => s
    let s := match f.verdict with
      | some v => modLink s n fun l => { l with verdict := some v }
      | none => s
    settle s n

/-- A control flit received. -/
def controlReceive (s : State) (n : Nat) (f : CtlFlit) : State :=
  if linkState s n < 2 || (linkOf s n).retraining then s
  else if !f.crcOk then bump s (rLINK_ERR n) 31 16 1
  else controlGood s n f

def execControlFlitReceive (n : Nat) (f : CtlFlit) (s : State) : Host.Outcome State Fault Refusal := .next (controlReceive s n f)

/-! ### Data flits (R354–R356) -/

def goodFlit (b : Bytes) : Bool := b.length == 256 && crc32 (b.take 12 ++ b.drop 16) == num b 12 4

/-- The flits a packet took. -/
def flitsOf (b : Bytes) : Nat := max 1 (ceilDiv b.length 240)

/-- A flit accepted in order: its bytes join its packet; the last of a packet delivers it. -/
def flitAccept (s : State) (n : Nat) (b : Bytes) (kct : State → Nat → Bytes → State) : State :=
  let c := bits 3 2 (num b 0 1)
  let len := num b 1 1
  let po := num b 4 2 % 2 ^ 15
  let l := linkOf s n
  let head := num b 0 1 / 16 == 1
  let was := if head then [] else (look l.partial_ c).getD []
  let bytes := was ++ sliceOf b 16 len
  let poison := (if head then 0 else (look l.partialPoison c).getD 0) + po * 2 ^ (was.length / 16)
  let s := bump64 s (rLINK_PERF n + 8) len
  let s := if popcount 15 po = 0 then s else bump s (rLINK_ERR n) 7 0 (popcount 15 po)
  let l := { l with rxNext := (l.rxNext + 1) % 65536, nak := false }
  if bit 1 (num b 0 1) then
    let s := setLink s n { l with partial_ := del l.partial_ c, partialPoison := del l.partialPoison c }
    if bytes.length < 32 then freeFlits s n c (flitsOf bytes)
    else recvPkt s n (flitsOf bytes) (pktOf c bytes poison) kct
  else setLink s n { l with partial_ := put l.partial_ c bytes, partialPoison := put l.partialPoison c poison }

/-- A head or body flit received: a bad CRC, or a gap, asks for a replay; one already taken is discarded. -/
def flitReceive (s : State) (n : Nat) (b : Bytes) (kct : State → Nat → Bytes → State) : State :=
  let l := linkOf s n
  if !linkOk s n || l.retraining then s
  else if !goodFlit b then modLink (bump s (rLINK_ERR n) 31 16 1) n fun l => { l with nak := true }
  else
    let typ := num b 0 1 / 16
    let len := num b 1 1
    if (typ ≠ 1 ∧ typ ≠ 2) ∨ len = 0 ∨ 240 < len ∨ bits 3 2 (num b 0 1) = 3 then s
    else
      let ahead := (num b 2 2 + 65536 - l.rxNext) % 65536
      if ahead = 0 then flitAccept s n b kct
      else if ahead < 32768 then setLink s n { l with nak := true }
      else s

/-! ### LINK_CTL (R365) -/

/-- What a write that reached LINK_CTL of link `n` sets in motion: `retrain` tells whether RETRAIN was written 1, `wrote` whether
ENABLE was written. A link held DOWN ignores RETRAIN; ENABLE written to 1 starts the bring-up of a DOWN link. -/
def linkCtlAct (s : State) (n : Nat) (retrain wrote : Bool) : State :=
  if !linkThere s n then s
  else if fld s (rLINK_CTL n) 0 0 = 0 then (if wrote then linkDown s n 3 else s)
  else if retrain || (wrote && linkState s n == 0) then bringUp s n false
  else s

/-! ### LINK_MAP_COMMIT (R361, R363) -/

def mapOfBytes (b : Bytes) : MapEntry :=
  { mode := num b 0 1, boardPos := num b 1 1, slot := num b 2 1, link := num b 3 1, boardId := BitVec.ofNat 32 (num b 4 4),
    serial := BitVec.ofNat 64 (num b 8 8) }

/-- The entries of a LINK_MAP_COMMIT payload. -/
def mapOf (pl : Bytes) : List MapEntry := (List.range 11).map fun n => mapOfBytes (sliceOf pl (16 + 24 * n) 24)

/-- A new map takes force: quarantined links compare again, and links that it would refuse go at the next boundary. -/
def newMap (s : State) (m : List MapEntry) : State :=
  let s := { s with link := { s.link with map := some m }, trust := { s.trust with mapRecord := some m } }
  (List.range 11).foldl (fun s n =>
    let l := linkOf s n
    match l.peer with
    | none => s
    | some i =>
      let v := verdictOf s (mapEntry s n) i
      if linkState s n = 3 then setLink s n { l with mine := some v, told := false }
      else if linkOk s n then setLink s n { l with requar := v.1 != 0, mine := some v }
      else if linkState s n = 2 then setLink s n { l with mine := some v, told := false }
      else s) s

/-- The reserved fields and ranges common to both forms. -/
def mapHeadOk (pl : Bytes) : Bool := num pl 0 1 < 2 && allZero pl 1 3 && num pl 4 2 < 2048 && allZero pl 6 10

/-- An entry lies within Table 14.6. -/
def entryOk (pl : Bytes) (n : Nat) : Bool :=
  let e := mapOfBytes (sliceOf pl (16 + 24 * n) 24)
  e.mode ≤ 2 && e.boardPos < 8 && e.slot < 8 && e.link < 11 && allZero pl (16 + 24 * n + 16) 8

def linkMapCommit (s : State) (r : Req) : State :=
  let pl := r.pkt.payload
  if !mapHeadOk pl || !(List.range 11).all (entryOk pl) then fail s r stParam
  else fail (newMap s (mapOf pl)) r stOK

/-- Byte 0, FLAGS, with its bit 0 as the row has it. -/
def withAdopt (p : Pkt) (a : Nat) : Pkt := withByte p 0 (num p.payload 0 1 / 2 * 2 + a)

def execLinkMapCommit (p : Pkt) (s : State) : Host.Outcome State Fault Refusal :=
  .next (receive s opMAP (withAdopt p 0) linkMapCommit)

/-- ADOPT: an entry for each masked link in QUARANTINE with REASON 1, of the record it has met. -/
def adopted (s : State) (mask : Nat) : List MapEntry :=
  (List.range 11).map fun n =>
    match (linkOf s n).peer with
    | some i =>
      if bit n mask && linkState s n == 3 && fld s (rLINK_STAT n) 27 24 == 1 then
        { mode := 1, boardPos := i.boardPos, slot := i.slot, link := i.link, boardId := i.boardId, serial := i.serial }
      else mapEntry s n
    | none => mapEntry s n

def linkMapAdopt (s : State) (r : Req) : State :=
  let pl := r.pkt.payload
  if !mapHeadOk pl then fail s r stParam else fail (newMap s (adopted s (num pl 4 2))) r stOK

def execLinkMapAdopt (p : Pkt) (s : State) : Host.Outcome State Fault Refusal :=
  .next (receive s opMAP (withAdopt p 1) linkMapAdopt)

/-- At a boundary: links that the map refuses go to QUARANTINE (R363). -/
def quarantineDue (s : State) : State :=
  (List.range 11).foldl (fun s n =>
    let l := linkOf s n
    if l.requar && linkOk s n then
      quarantine (setLink s n { l with requar := false, told := false }) n (match l.mine with
        | some m => m.1
        | none => 1)
    else s) s

/-! ### COLLECTIVE_OPEN and COLLECTIVE_CLOSE (R370, R371) -/

/-- The payload's fields lie in range and describe a collective of this module. -/
def collOpenOk (s : State) (pl : Bytes) : Bool :=
  let id := num pl 0 2
  let op := num pl 2 1
  let cls := num pl 3 1
  let n := num pl 6 1
  let memb := (List.range n).map fun i => num pl (16 + i) 1
  id != 0 && op ≤ 3 && cls ≤ 1 && (op ≥ 2 || num pl 4 1 ≤ 2) && [0x48, 0x50, 0x80, 0x81, 0x82].contains (num pl 5 1)
  && 2 ≤ n && n ≤ (if cls = 0 then 8 else 64) && allZero pl 7 9 && (collOf s id).isNone
  && memb.all (· < 64) && memb.contains (myCode s) && distinct memb
  && (cls == 1 || memb.all fun m => m / 8 == myPos s) && allZero pl (16 + n) (pl.length - 16 - n)

def collectiveOpen (s : State) (r : Req) : State :=
  let pl := r.pkt.payload
  if num pl 3 1 = 1 ∧ s.fuses.variantB then fail s r stUnit
  else if !collOpenOk s pl then fail s r stParam
  else if 4096 ≤ s.coll.open_.length then fail s r stCapacity 4
  else
    let c : Coll := { ctx := r.pkt.hdr.ctx, op := num pl 2 1, rack := num pl 3 1 == 1, redOp := num pl 4 1, fmt := num pl 5 1,
                      memb := (List.range (num pl 6 1)).map fun i => num pl (16 + i) 1, next := 0 }
    replyTo { s with coll := { s.coll with open_ := put s.coll.open_ (num pl 0 2) c } } r stOK 0
      (toLE 2 (num pl 0 2) ++ zeros 2)

def execCollectiveOpen (p : Pkt) (s : State) : Host.Outcome State Fault Refusal :=
  .next (receive s opCOPEN p collectiveOpen)

/-- A collective's identifier freed, with the packets that waited for it and their receive buffers. -/
def dropColl (s : State) (id : Nat) : State :=
  let gone := s.coll.held.filter fun h => h.1.collId == id
  let s := { s with coll := { s.coll with open_ := del s.coll.open_ id, staged := s.coll.staged.filter fun p => p.collId != id
                                          held := s.coll.held.filter fun h => h.1.collId != id } }
  restage (gone.foldl (fun s h => freeFlits s h.2.1 h.1.cls h.2.2) s)

def collectiveClose (s : State) (r : Req) : State :=
  let pl := r.pkt.payload
  let id := num pl 0 2
  if num pl 2 2 ≠ 0 then fail s r stParam
  else match collOf s id with
    | none => fail s r stNoObj
    | some c =>
      if r.pkt.hdr.ctx ≠ 0 ∧ c.ctx ≠ r.pkt.hdr.ctx then fail s r stNoObj
      else if s.disp.window.any fun w => dEngine w.2.desc == 9 && num w.2.desc 16 2 == id then fail s r stParam
      else fail (dropColl s id) r stOK

def execCollectiveClose (p : Pkt) (s : State) : Host.Outcome State Fault Refusal :=
  .next (receive s opCCLOSE p collectiveClose)

end Sys2Proof.Machine
end

