-- ==== Sys2Proof/Machine/Minor.lean ====
section
/-! DEFINITION. The table engine, the sampler, the prefix hash engine and the movers (07). -/

namespace Sys2Proof.Machine

/-- A format version within the running image's range (R8). -/
def fmtOk (s : State) (v : Nat) : Bool := s.trust.running.fmtMin ≤ v && v ≤ s.trust.running.fmtMax

def round64 (n : Nat) : Nat := (n + 63) / 64 * 64

/-! ### Table engine (R152–R157) -/

def tOP (d : Bytes) : Nat := num d 16 1 % 2
def tFMT (d : Bytes) : Nat := num d 17 1
def tFlags (d : Bytes) : Nat := num d 18 1
def tSp (d : Bytes) : Nat := b2n (bit 7 (tFlags d))
def tSAT (d : Bytes) : Bool := bit 6 (tFlags d)
def tTOK (d : Bytes) : Bool := bit 5 (tFlags d)
def tCOL (d : Bytes) : Bool := bit 4 (tFlags d)
def tTOKENS (d : Bytes) : Nat := num d 20 2
def tIMG (d : Bytes) : Nat := num d 24 8
def tACT (d : Bytes) : Nat := num d 32 4
def tKS (d : Bytes) : Nat := num d 36 4
def tSC (d : Bytes) : Nat := num d 40 4
def tOUT (d : Bytes) : Nat := num d 44 4
def tOS (d : Bytes) : Nat := num d 48 4
def tCF (d : Bytes) : Nat := num d 52 4
def tCC (d : Bytes) : Nat := num d 56 4
def tMode (d : Bytes) : RMode := rmodeOf (tFlags d % 4) 0 0 0
def tIdle (d : Bytes) : Bool := tTOKENS d == 0 || (tOP d == 0 && tCC d == 0)

/-- A table task passes the check of its operand area (R149, R152). What the image's header sizes is judged at run time. -/
def tableCheck (s : State) (d : Bytes) : Bool :=
  let look := tOP d == 0
  let t := if tIdle d then 0 else tTOKENS d
  num d 16 1 < 2 && num d 19 1 == 0 && num d 22 2 == 0 && num d 60 4 == 0 && bits 3 2 (tFlags d) == 0 && tFlags d % 4 < 2
  && ((tFMT d == 0x80 || tFMT d == 0x81 || tFMT d == 0x82) || (look && tFMT d == 0x50 && !tTOK d && !tCOL d))
  && tTOKENS d ≤ (if look then 64 else 4096)
  && tIMG d % 64 == 0 && (t == 0 || tIMG d + 64 ≤ capOf s (tSp d))
  && (if look then tKS d % 64 == 0 && inCommons (tACT d) (if t = 0 then 0 else 64 + 64 * t) 64
      else tKS d == 0 && tCF d == 0 && tCC d == 0 && inCommons (tACT d) (4 * t) 4)
  && (!(look && tTOK d) || inCommons (tSC d) (4 * t) 1)
  && tOS d % 64 == 0 && inCommons (tOUT d) (extent t (tOS d) (if look then tCC d * elemSize (tFMT d) else elemSize (tFMT d))) 64

/-- Bytes of a table or embedding image, by its header. -/
def imageSize (kind : Nat) (h : Bytes) : Nat := if kind = 0 then num h 24 8 else num h 16 8 + num h 4 4 * num h 24 4

/-- The table image header is that of Table 5.5, and the image lies within its space (log 13). -/
def tableHeaderOk (s : State) (sp a : Nat) (h : Bytes) : Bool :=
  let n := num h 8 4
  let e := round64 (64 + 2 * n)
  fmtOk s (num h 0 2) && 2 ≤ num h 2 1 && num h 2 1 ≤ 4 && num h 3 1 == 0 && 1 ≤ num h 4 4 && 1 ≤ n && num h 12 4 == 64
  && num h 16 8 == e && num h 24 8 == e + num h 4 4 * n * 16 && allZero h 32 32 && a + num h 24 8 ≤ capOf s sp

/-- The embedding image header is that of Table 7.2. -/
def embedHeaderOk (s : State) (sp a : Nat) (h : Bytes) : Bool :=
  let f := num h 2 1
  let v := num h 4 4
  let ints := f == 0x44 || f == 0x48
  fmtOk s (num h 0 2) && (ints || f == 0x81 || f == 0x82) && num h 3 1 == 0 && 1 ≤ v && 1 ≤ num h 8 4 && num h 8 4 ≤ 65536
  && num h 12 4 == (if ints then 64 else 0) && num h 16 8 % 64 == 0
  && (if ints then 64 + 2 * v ≤ num h 16 8 else num h 16 8 == 64)
  && num h 24 4 % 64 == 0 && elemBytes f (num h 8 4) ≤ num h 24 4 && allZero h 28 36
  && a + num h 16 8 + v * num h 24 4 ≤ capOf s sp

/-- A task that fails a rule at run time: BAD_RUN counted, nothing written (R155). -/
def tableBad (j : Job) : Job := if j.ue.isSome then j else { j.tally rTBL_STAT 31 16 1 with failed := some { unit := 5, data := 155 } }

/-- A token's record in an activation block: the input of row `k` under plane `p` selects an entry of the plus or minus
pattern. -/
def patternOf (code : Nat) (rec : Bytes) (k p : Nat) : Nat × Nat :=
  match actFmt code with
  | none => (0, 0)
  | some (sg, _, _) =>
    let at_ := fun (i : Nat) =>
      if planeBit rec ((p + b2n sg) * 64) (k + i) then (if sg && planeBit rec 0 (k + i) then (0, 2 ^ i) else (2 ^ i, 0)) else (0, 0)
    [0, 1, 2, 3].foldl (fun a i => (a.1 + (at_ i).1, a.2 + (at_ i).2)) (0, 0)

/-- The sum of R153 for one token and column: per group the entries, 16 bytes, and the token's record of the group's block. -/
def lookupSum (groups : List (Nat × Nat × Bytes × Bytes)) : Int :=
  groups.foldl (fun acc g =>
    (List.range (match actFmt g.1 with
      | some (_, p, _) => p
      | none => 0)).foldl (fun acc p =>
        let m := patternOf g.1 g.2.2.1 g.2.1 p
        let e := fun i => sext 8 ((g.2.2.2.getD i 0).toNat)
        acc + (e m.1 - e m.2) * (2 ^ p : Nat)) acc) 0

/-- The activation blocks of a LOOKUP: their formats, `none` where one is not an activation code or lies outside the commons. -/
def lookupBlocks (d : Bytes) (n : Nat) (j : Job) : Option (List Nat) × Job :=
  (List.range n).foldl (fun acc b =>
    let a := tACT d + b * tKS d
    let h := acc.2.rd 0 a 64
    let code := num h.1 0 1
    let fits := a + 64 + tTOKENS d * actPlanes code * 64 ≤ 2 ^ 28
    (match acc.1 with
     | some l => if (actFmt code).isSome && fits then some (l ++ [code]) else none
     | none => none, h.2)) (some [], j)

/-- What a LOOKUP reads of its image, once in the task: the entries of the columns of each group, then the column scales (R158). -/
def lookupImage (d h : Bytes) (j : Job) : List Bytes × Bytes × Job :=
  let ents := (List.range (num h 4 4)).foldl (fun (acc : List Bytes × Job) g =>
    let x := acc.2.rd (tSp d) (tIMG d + num h 16 8 + (g * num h 8 4 + tCF d) * 16) (16 * tCC d)
    (acc.1 ++ [x.1], x.2)) ([], j)
  let scs := ents.2.rd (tSp d) (tIMG d + 64 + 2 * tCF d) (if tCOL d then 2 * tCC d else 0)
  (ents.1, scs.1, scs.2)

/-- One output row of a LOOKUP (R153, R154). -/
def lookupRow (d : Bytes) (ents : List Bytes) (scs : Bytes) (codes : List Nat) (j : Job) (t : Nat) : Job :=
  let recs := (codes.zip (List.range codes.length)).foldl (fun (acc : List (Nat × Bytes) × Job) c =>
    let len := actPlanes c.1 * 64
    let x := acc.2.rd 0 (tACT d + c.2 * tKS d + 64 + t * len) len
    (acc.1 ++ [(c.1, x.1)], x.2)) ([], j)
  let st := recs.2.rd 0 (tSC d + 4 * t) (if tTOK d then 4 else 0)
  let outs := (List.range (tCC d)).map fun c =>
    let s := lookupSum ((ents.zip (List.range ents.length)).map fun e =>
      let b := recs.1.getD (4 * e.2 / 512) (0, [])
      (b.1, 4 * e.2 % 512, b.2, (e.1.drop (16 * c)).take 16))
    scaled s (if tTOK d then some (ofLE st.1) else none) (if tCOL d then some (num scs (2 * c) 2) else none)
  st.2.putRow 0 (tOUT d + t * tOS d) (outRow (tFMT d) (fun _ => tMode d) (tSAT d) outs)

def runLookup (s : State) (d : Bytes) (j : Job) : Job :=
  if tIdle d then j
  else
    let h := j.rd (tSp d) (tIMG d) 64
    if h.2.ue.isSome then h.2
    else if !tableHeaderOk s (tSp d) (tIMG d) h.1 || num h.1 8 4 < tCF d + tCC d then tableBad h.2
    else
      let b := lookupBlocks d (ceilDiv (4 * num h.1 4 4) 512) h.2
      match b.1 with
      | none => tableBad b.2
      | some codes =>
        let im := lookupImage d h.1 b.2
        im.2.2.rows (List.range (tTOKENS d)) (lookupRow d im.1 im.2.1 codes)

/-- One output row of an EMBED (R157). -/
def embedRow (d : Bytes) (h : Bytes) (j : Job) (i : Nat) : Job :=
  let n := num h 8 4
  let f := num h 2 1
  let id := j.rd 0 (tACT d + 4 * i) 4
  let v := ofLE id.1
  let dst := tOUT d + i * tOS d
  if num h 4 4 ≤ v then (id.2.wr 0 dst (zeros (n * elemSize (tFMT d)))).tally rTBL_STAT 15 0 1
  else
    let x := id.2.rd (tSp d) (tIMG d + num h 16 8 + v * num h 24 4) (elemBytes f n)
    let sc := x.2.rd (tSp d) (tIMG d + 64 + 2 * v) (if f < 0x80 then 2 else 0)
    let vs := (elems f x.1 n).map fun e =>
      if f < 0x80 then (valOf f e).mul (decode f16 (ofLE sc.1)) else valOf f e
    sc.2.putRow 0 dst (outRow (tFMT d) (fun _ => tMode d) (tSAT d) vs)

def runEmbed (s : State) (d : Bytes) (j : Job) : Job :=
  if tIdle d then j
  else
    let h := j.rd (tSp d) (tIMG d) 64
    if h.2.ue.isSome then h.2
    else if !embedHeaderOk s (tSp d) (tIMG d) h.1
        || 2 ^ 28 < tOUT d + extent (tTOKENS d) (tOS d) (num h.1 8 4 * elemSize (tFMT d)) then tableBad h.2
    else h.2.rows (List.range (tTOKENS d)) (embedRow d h.1)

def execLookup (slot : Nat) (ecc : Ecc) (s : State) : Host.Outcome State Fault Refusal :=
  .next (engineTask s slot ecc 4 true none (fun d => tOP d == 0) runLookup)
def execEmbed (slot : Nat) (ecc : Ecc) (s : State) : Host.Outcome State Fault Refusal :=
  .next (engineTask s slot ecc 4 true none (fun d => tOP d == 1) runEmbed)

/-! ### Sampler (R168–R170) -/

def sROWS (d : Bytes) : Nat := num d 16 2
def sFMT (d : Bytes) : Nat := num d 18 1
def sLOGPROB (d : Bytes) : Bool := bit 0 (num d 19 1)
def sV (d : Bytes) : Nat := num d 20 4
def sLOGIT (d : Bytes) : Nat := num d 24 4
def sSTRIDE (d : Bytes) : Nat := num d 28 4
def sPARAM (d : Bytes) : Nat := num d 32 4
def sOUT (d : Bytes) : Nat := num d 36 4

def samplerCheck (d : Bytes) : Bool :=
  sROWS d ≤ 16384 && (sFMT d == 0x80 || sFMT d == 0x81 || sFMT d == 0x82) && num d 19 1 < 2 && 1 ≤ sV d && sV d ≤ 262144
  && sSTRIDE d % 64 == 0 && inCommons (sLOGIT d) (extent (sROWS d) (sSTRIDE d) (sV d * elemSize (sFMT d))) 64
  && inCommons (sPARAM d) (32 * sROWS d) 32 && inCommons (sOUT d) (16 * sROWS d) 16 && allZero d 40 24

/-- A row parameter record (Table 7.7). -/
structure RowParam where
  seed : Nat
  salt : Nat
  pos  : Nat
  temp : Nat
  topK : Nat
  draw : Nat
  topP : Nat
  deriving DecidableEq, Repr

def rowParam (b : Bytes) : RowParam :=
  { seed := num b 0 8, salt := num b 8 4, pos := num b 12 4, temp := num b 16 4, topK := num b 20 2, draw := num b 22 2,
    topP := num b 24 4 }

/-- A record is invalid (R169). -/
def badParam (p : RowParam) : Bool :=
  !isFinite f32 p.temp || lt32 p.temp 0 || 1024 < p.topK || isNan f32 p.topP

/-- A key that falls as an FP32 value rises; the two zeros are equal, NaN comes last. -/
def fallKey (b : Nat) : Nat :=
  if isNan f32 b then 2 ^ 33 else if b < 2 ^ 31 then 2 ^ 32 - b else 2 ^ 32 + (b - 2 ^ 31)

/-- The shortest beginning whose sum reaches a threshold, at least one element: kept candidates (index, z, e). -/
def topPrefix (thr : Nat) : Nat → List (Nat × Nat × Nat) → List (Nat × Nat × Nat)
  | _, [] => []
  | c, x :: xs =>
    let c' := add32 c x.2.2
    if lt32 c' thr || isNan f32 c' || isNan f32 thr then x :: topPrefix thr c' xs else [x]

/-- The first candidate whose running sum exceeds the target. -/
def drawFrom (target : Nat) : Nat → List (Nat × Nat × Nat) → Option (Nat × Nat × Nat)
  | _, [] => none
  | c, x :: xs => let c' := add32 c x.2.2; if lt32 target c' then some x else drawFrom target c' xs

/-- The draw of R170 over FP32 logits: status, token, log-probability. -/
def sampleRow (fresh : Nat) (p : RowParam) (lg : List Nat) : Nat × Nat × Nat :=
  let ninf := 2 ^ 31 + f32.inf
  let idx := List.range lg.length
  if lg.all (· == ninf) then (2, 0xFFFFFFFF, 0)
  else if p.temp % 2 ^ 31 = 0 then
    let m := maxAll lg
    let k := ((lg.zip idx).find? fun x => fallKey x.1 == fallKey m).map (·.2) |>.getD 0
    let sm := (chunkedSum fresh f32 (lg.map fun v => decode f32 (exp32 fresh (sub32 v m)))).1
    (0, k, sub32 (sub32 (lg.getD k 0) m) (log32 fresh sm))
  else
    let rt := rcp32 fresh p.temp
    let z : List Nat := lg.map fun v => mul32 v rt
    let keff := if p.topK ≠ 0 then p.topK else if lt32 p.topP 0x3F800000 then 1024 else 0
    let sum := fun (l : List (Nat × Nat × Nat)) => (chunkedSum fresh f32 (l.map fun x => decode f32 x.2.2)).1
    let cand : List (Nat × Nat × Nat) × Nat :=
      if keff ≠ 0 then
        let sel : List (Nat × Nat) := (sortBy (fun (x : Nat × Nat) => fallKey x.2) (idx.zip z)).take keff
        let m := (sel.headD (0, 0)).2
        let es := sel.map fun (x : Nat × Nat) => (x.1, x.2, exp32 fresh (sub32 x.2 m))
        let kept := if lt32 p.topP 0x3F800000 then topPrefix (mul32 p.topP (sum es)) 0 es else es
        (kept, m)
      else
        let m := maxAll z
        ((idx.zip z).map fun (x : Nat × Nat) => (x.1, x.2, exp32 fresh (sub32 x.2 m)), m)
    let s := sum cand.1
    let u := rne f32 (.fin false (sampleWord p.seed p.pos p.draw p.salt) (-24))
    let pick := match drawFrom (mul32 u s) 0 cand.1 with
      | some x => some x
      | none => (cand.1.filter fun (x : Nat × Nat × Nat) => lt32 0 x.2.2).getLast?
    match pick with
    | some x => (0, x.1, sub32 (sub32 x.2.1 cand.2) (log32 fresh s))
    | none => (2, 0xFFFFFFFF, 0)

def samplerRow (s : State) (d : Bytes) (j : Job) (r : Nat) : Job :=
  let pr := j.rd 0 (sPARAM d + 32 * r) 32
  let p := rowParam pr.1
  if badParam p then
    (pr.2.wr 0 (sOUT d + 16 * r) (toLE 4 0xFFFFFFFF ++ zeros 4 ++ [1] ++ zeros 7)).tally rSMP_STAT 15 0 1
  else
    let x := pr.2.rd 0 (sLOGIT d + r * sSTRIDE d) (sV d * elemSize (sFMT d))
    let raw := (elems (sFMT d) x.1 (sV d)).map (widen (fmtOf (sFMT d)))
    let nans := (raw.filter (isNan f32)).length
    let lg := raw.map fun v => if isNan f32 v then 2 ^ 31 + f32.inf else v
    let o := sampleRow (s.fresh + r) p lg
    let lp := if o.1 = 0 && sLOGPROB d then o.2.2 else 0
    let j := x.2.wr 0 (sOUT d + 16 * r) (toLE 4 o.2.1 ++ toLE 4 lp ++ toLE 1 o.1 ++ zeros 7)
    (j.tally rSMP_STAT 31 16 nans).tally rSMP_STAT 15 0 (if o.1 = 0 then 0 else 1)

def runSampler (s : State) (d : Bytes) (j : Job) : Job := j.rows (List.range (sROWS d)) (samplerRow s d)

def execSamplerTask (slot : Nat) (ecc : Ecc) (s : State) : Host.Outcome State Fault Refusal :=
  .next (engineTask s slot ecc 6 true none (fun _ => true) runSampler)

/-! ### Prefix hash engine (R172, R173) -/

/-- The hash of a block: 8 bytes of SHA-256 over the 144-byte message, never 0. -/
def blockHash (prev model graft : Nat) (toks : Bytes) : Nat :=
  let h := num (sha256 (toLE 8 prev ++ toLE 4 model ++ toLE 4 graft ++ toks)) 0 8
  if h = 0 then 1 else h

def hCOUNT (d : Bytes) : Nat := num d 16 4
def hJOB (d : Bytes) : Nat := num d 20 4
def hashCheck (d : Bytes) : Bool := inCommons (hJOB d) (32 * hCOUNT d) 32 && allZero d 24 40

/-- A job: reads its record, writes its HASH; the hash of the job before it is carried on. -/
def hashJob (d : Bytes) (acc : Job × Nat) (i : Nat) : Job × Nat :=
  if acc.1.ue.isSome then acc else
  let a := hJOB d + 32 * i
  let x := acc.1.rd 0 a 32
  let chain := bit 0 (num x.1 20 1)
  let ta := num x.1 16 4
  if ta % 4 ≠ 0 ∨ 2 ^ 28 < ta + 128 ∨ (chain ∧ (i = 0 ∨ acc.2 = 0)) then (x.2.wr 0 (a + 24) (zeros 8), 0)
  else
    let t := x.2.rd 0 ta 128
    let h := blockHash (if chain then acc.2 else num x.1 0 8) (num x.1 8 4) (num x.1 12 4) t.1
    (t.2.wr 0 (a + 24) (toLE 8 h), h)

def runHash (_ : State) (d : Bytes) (j : Job) : Job := ((List.range (hCOUNT d)).foldl (hashJob d) (j, 0)).1

def execHashTask (slot : Nat) (ecc : Ecc) (s : State) : Host.Outcome State Fault Refusal :=
  .next (engineTask s slot ecc 7 true none (fun _ => true) runHash)

/-! ### Movers (R175–R178) -/

def mOP (d : Bytes) : Nat := num d 16 1 % 16
def mSRC (d : Bytes) : Nat := num d 17 1 % 16
def mDST (d : Bytes) : Nat := num d 17 1 / 16
def mFMT (d : Bytes) : Nat := num d 18 1
def mRB (d : Bytes) : Nat := num d 20 4
def mSA (d : Bytes) : Nat := num d 24 8
def mDA (d : Bytes) : Nat := num d 32 8
def mROWS (d : Bytes) : Nat := num d 40 4
def mSS (d : Bytes) : Nat := num d 44 4
def mDS (d : Bytes) : Nat := num d 48 4
def mIX (d : Bytes) : Nat := num d 52 4
def mARG (d : Bytes) : Nat := num d 56 4
def mIdle (d : Bytes) : Bool := mROWS d == 0 || mRB d == 0
/-- The bytes of a COMPRESS row in the dense form (R177). -/
def denseBytes (d : Bytes) : Nat := 64 + round64 (mRB d)
def mOutBytes (d : Bytes) : Nat := if mOP d = 3 then denseBytes d else mRB d

/-- A mover task passes the check of its operand area (R149, R175–R177). -/
def moverCheck (s : State) (d : Bytes) : Bool :=
  let op := mOP d
  let tx := mDST d == 3
  let inSpace := fun sp a n => n == 0 || a + n ≤ capOf s sp
  let rows := if mIdle d then 0 else mROWS d
  num d 16 1 < 4 && mDST d < 4 && (op == 1 || mSRC d < 3) && num d 19 1 == 0 && num d 60 4 == 0
  && (if op = 3 then (mFMT d == 0x80 || mFMT d == 0x81 || mFMT d == 0x82) && mRB d % elemSize (mFMT d) == 0
        && (tx || denseBytes d ≤ mDS d) else mFMT d == 0)
  && (op == 2 || mIX d == 0) && (op != 0 || mARG d == 0)
  && (op != 2 || inCommons (mIX d) (4 * rows) 4)
  && (if tx then mOutBytes d ≤ 8224 else inSpace (mDST d) (mDA d) (extent rows (mDS d) (mOutBytes d)))
  && (op == 1 || inSpace (mSRC d) (mSA d) (extent (if op = 2 then (if rows = 0 then 0 else mARG d) else rows) (mSS d) (mRB d)))

/-- A mover task names the far tier, as its source or its destination (R149, R309). -/
def moverFar (d : Bytes) : Bool := mDST d == 2 || (mOP d != 1 && mSRC d == 2)

/-- A row in the sparse form where it is smaller, else in the dense form (R177). -/
def compressRow (d row : Bytes) : Bytes × Bool :=
  let f := mFMT d
  let sz := elemSize f
  let es := elems f row (mRB d / sz)
  let keep := fun b => isNan (fmtOf f) b || ((decode f32 (mARG d)).lt (match decode (fmtOf f) b with
    | .fin _ m e => .fin false m e
    | .inf _ => .inf false
    | .nan => .nan))
  let ents := (es.zip (List.range es.length)).filter fun x => keep x.1
  let c := ents.length
  let sparse := 64 + round64 (4 * c) + round64 (c * sz)
  let pad := fun (bs : Bytes) => bs ++ zeros (round64 bs.length - bs.length)
  let hdr := fun form n => toLE 1 form ++ toLE 1 f ++ zeros 2 ++ toLE 4 n ++ zeros 56
  if sparse < denseBytes d then
    (hdr 1 c ++ pad (ents.flatMap fun x => toLE 4 x.2) ++ pad (ents.flatMap fun x => toLE sz x.1), false)
  else (hdr 0 es.length ++ pad (es.flatMap fun b => toLE sz (if keep b then b else 0)), true)

/-- The FILL row: the pattern repeated from byte 0. -/
def fillRow (d : Bytes) : Bytes := (List.range (mRB d)).map fun i => BitVec.ofNat 8 (mARG d / 2 ^ (8 * (i % 4)))

/-- One row of a mover task: read or made, and written or queued for the host port (R176, R177). -/
def moverRow (d : Bytes) (j : Job) (r : Nat) : Job :=
  let op := mOP d
  let ix := j.rd 0 (mIX d + 4 * r) (if op = 2 then 4 else 0)
  let i := if op = 2 then ofLE ix.1 else r
  let away := op == 2 && mARG d ≤ i
  let src := if op = 1 then (fillRow d, ix.2) else if away then (zeros (mRB d), ix.2)
    else ix.2.rd (mSRC d) (mSA d + i * mSS d) (mRB d)
  let row := if op = 3 then compressRow d src.1 else (src.1, false)
  let j := if mDST d = 3 then src.2.out row.1 else src.2.wr (mDST d) (mDA d + r * mDS d) row.1
  (j.tally rMOV_STAT 31 16 (b2n away)).tally rMOV_STAT 15 0 (b2n row.2)

/-- Source and destination overlap other than identically (R151, R176). -/
def moverClash (d : Bytes) : Bool :=
  mOP d != 1 && mDST d == mSRC d && !(mSA d == mDA d && mSS d == mDS d && mOP d == 0) &&
  overlap (mSA d) (extent (if mOP d = 2 then mARG d else mROWS d) (mSS d) (mRB d)) (mDA d)
    (extent (mROWS d) (mDS d) (mOutBytes d))

def runMover (s : State) (d : Bytes) (j : Job) : Job :=
  if mIdle d then j else j.rows (rowOrder s (mROWS d) (moverClash d)) (moverRow d)

/-- A mover task of the row's operation; an uncorrectable read is recorded as MOVER_UE (Table 18.2). -/
def moverTask (sel : Bytes → Bool) (slot : Nat) (e : Ecc) (s : State) : State :=
  engineTask s slot e 8 true (some (0x0402, 9)) sel runMover

def execMoverCopy (slot : Nat) (ecc : Ecc) (s : State) : Host.Outcome State Fault Refusal :=
  .next (moverTask (fun d => mOP d == 0 && mDST d != 3) slot ecc s)
def execMoverFill (slot : Nat) (ecc : Ecc) (s : State) : Host.Outcome State Fault Refusal :=
  .next (moverTask (fun d => mOP d == 1 && mDST d != 3) slot ecc s)
def execMoverGather (slot : Nat) (ecc : Ecc) (s : State) : Host.Outcome State Fault Refusal :=
  .next (moverTask (fun d => mOP d == 2 && mDST d != 3) slot ecc s)
def execMoverCompress (slot : Nat) (ecc : Ecc) (s : State) : Host.Outcome State Fault Refusal :=
  .next (moverTask (fun d => mOP d == 3 && mDST d != 3) slot ecc s)
def execMoverTransmit (slot : Nat) (ecc : Ecc) (s : State) : Host.Outcome State Fault Refusal :=
  .next (moverTask (fun d => mDST d == 3) slot ecc s)

end Sys2Proof.Machine
end

