-- ==== Sys2Proof/Machine/Spm.lean ====
section
/-! DEFINITION. The sparse merge engine (06, R135–R146). -/

namespace Sys2Proof.Machine

def pOP (d : Bytes) : Nat := num d 16 1 % 4
def pPF (d : Bytes) : Nat := num d 17 1
def pOF (d : Bytes) : Nat := num d 18 1
def pFlags (d : Bytes) : Nat := num d 19 1
def pADD (d : Bytes) : Bool := bit 7 (pFlags d)
def pSAT (d : Bytes) : Bool := bit 6 (pFlags d)
def pSp (d : Bytes) : Nat := b2n (bit 5 (pFlags d))
def pLEN (d : Bytes) : Nat := num d 20 2
def pLIST (d : Bytes) : Nat := num d 24 8
def pPA (d : Bytes) : Nat := num d 32 4
def pPS (d : Bytes) : Nat := num d 36 4
def pPE (d : Bytes) : Nat := num d 40 4
def pOA (d : Bytes) : Nat := num d 44 4
def pOS (d : Bytes) : Nat := num d 48 4
def pOE (d : Bytes) : Nat := num d 52 4
def pIN (d : Bytes) : Nat := num d 56 4
def pON (d : Bytes) : Nat := num d 60 4

/-- A merge task passes the check of its operand area (R139). -/
def spmCheck (s : State) (d : Bytes) : Bool :=
  let flt := fun c => c == 0x80 || c == 0x81 || c == 0x82
  let merge := pOP d == 0
  let ps := elemSize (pPF d)
  let os := elemSize (pOF d)
  num d 16 1 < 3 && (merge || flt (pPF d)) && flt (pOF d) && bits 4 2 (pFlags d) == 0 && pFlags d % 4 < 2 && num d 22 2 == 0
  && 1 ≤ pLEN d && pLEN d ≤ (if merge then 1 else 16384) && pLIST d % 64 == 0 && pLIST d + 64 ≤ capOf s (pSp d)
  && (merge || (pPA d % ps == 0 && pPS d % ps == 0 && pPE d % ps == 0
        && inCommons (pPA d) (extent (pIN d) (pPS d) (extent (pLEN d) (pPE d) ps)) 1))
  && pOA d % os == 0 && pOS d % os == 0 && pOE d % os == 0
  && inCommons (pOA d) (extent (pON d) (pOS d) (extent (pLEN d) (pOE d) os)) 1

/-- An entry: output position, input position, value as FP32. -/
abbrev Entry := Nat × Nat × Nat

/-- What a list or delta holds: its entries, a header that fails, or nothing to do (R144, R146). -/
inductive ListRead where
  | bad
  | entries (l : List Entry)
  deriving DecidableEq, Repr

/-- A sparse list (R135). -/
def readList (s : State) (d h : Bytes) (j : Job) : ListRead × Job :=
  let form := num h 0 1
  let vf := num h 1 1
  let hasIn := bit 0 (num h 2 1)
  let n := num h 4 4
  let sz := elemSize vf
  let o2 := 64 + round64 (4 * n)
  let o3 := if hasIn then o2 + round64 (4 * n) else o2
  let size := if form = 0 then 64 + n * sz else o3 + n * sz
  if 1 < form ∨ !(vf == 0x80 || vf == 0x81 || vf == 0x82) ∨ 1 < num h 2 1 ∨ num h 3 1 ≠ 0 ∨ !allZero h 8 56
     ∨ (form = 0 ∧ (hasIn ∨ pOP d = 1)) ∨ (pOP d = 1 ∧ !hasIn) ∨ (pOP d = 0 ∧ hasIn)
     ∨ capOf s (pSp d) < pLIST d + size then (.bad, j)
  else if form = 0 then
    let x := j.rd (pSp d) (pLIST d + 64) (n * sz)
    let es := (elems vf x.1 n).map (widen (fmtOf vf))
    (.entries ((es.zip (List.range n)).filterMap fun e => if e.1 % 2 ^ 31 = 0 then none else some (e.2, 0, e.1)), x.2)
  else
    let po := j.rd (pSp d) (pLIST d + 64) (4 * n)
    let pi := po.2.rd (pSp d) (pLIST d + o2) (if hasIn then 4 * n else 0)
    let x := pi.2.rd (pSp d) (pLIST d + o3) (n * sz)
    let ins := if hasIn then elems 0x80 pi.1 n else List.replicate n 0
    (.entries ((elems 0x80 po.1 n).zip (ins.zip ((elems vf x.1 n).map (widen (fmtOf vf))))), x.2)

/-- A KX7 delta (R137). One that is empty completes whatever its array offsets are; a header that fails, or N beyond OUT_COUNT, fails
before that (R144, R146, log 59). -/
def readDelta (s : State) (d h : Bytes) (j : Job) : ListRead × Job :=
  let vf := num h 2 1
  let n := num h 8 4
  let nnz := num h 12 4
  let po := num h 16 8
  let io := num h 24 8
  let vo := num h 32 8
  let cap := capOf s (pSp d)
  if !fmtOk s (num h 0 2) ∨ !(vf == 0x81 || vf == 0x82) ∨ num h 3 1 ≠ 0 ∨ po % 64 ≠ 0 ∨ io % 64 ≠ 0 ∨ vo % 64 ≠ 0
     ∨ !allZero h 40 24 ∨ pON d < n then (.bad, j)
  else if n = 0 ∨ nnz = 0 then (.entries [], j)
  else if cap < pLIST d + po + 4 * (n + 1) ∨ cap < pLIST d + io + 4 * nnz ∨ cap < pLIST d + vo + 2 * nnz then (.bad, j)
  else
    let p := j.rd (pSp d) (pLIST d + po) (4 * (n + 1))
    let c := p.2.rd (pSp d) (pLIST d + io) (4 * nnz)
    let v := c.2.rd (pSp d) (pLIST d + vo) (2 * nnz)
    let ptr := elems 0x80 p.1 (n + 1)
    let cv := (elems 0x80 c.1 nnz).zip ((elems vf v.1 nnz).map (widen (fmtOf vf)))
    (.entries ((List.range n).flatMap fun r =>
      let lo := ptr.getD r 0
      let hi := min (ptr.getD (r + 1) 0) nnz
      ((cv.drop lo).take (hi - lo)).map fun x => (r, x.1, x.2)), v.2)

/-- Cuts made in heavy rows (R141). -/
def heavyCuts (es : List Entry) : Nat :=
  let counts := es.foldl (fun (m : List (Nat × Nat)) e => put m e.1 ((look m e.1).getD 0 + 1)) []
  sumOf (counts.map fun c => (c.2 - 1) / 4096)

/-- The partner region of a GATHER or DELTA task, and whether it fits a tree's partner buffer (R147). -/
def partnerBytes (d : Bytes) : Nat := extent (pIN d) (pPS d) (extent (pLEN d) (pPE d) (elemSize (pPF d)))
def preloads (d : Bytes) : Bool := pOP d != 0 && partnerBytes d ≤ 65536

/-- A partner element: from the buffer the trees loaded at the task's start, or fetched. -/
def partnerElem (d buf : Bytes) (j : Job) (i jx : Nat) : Nat × Job :=
  let o := i * pPS d + jx * pPE d
  let sz := elemSize (pPF d)
  if preloads d then (num buf o sz, j)
  else
    let p := j.rd 0 (pPA d + o) sz
    (ofLE p.1, p.2)

/-- The products of one entry, added to the table of destination elements (R140). -/
def addProducts (d buf : Bytes) (acc : Job × List (Nat × List Nat)) (e : Entry) : Job × List (Nat × List Nat) :=
  (List.range (pLEN d)).foldl (fun acc jx =>
    let key := e.1 * 16384 + jx
    let x := if pOP d = 0 then (e.2.2, acc.1)
      else
        let p := partnerElem d buf acc.1 e.2.1 jx
        (mul32 e.2.2 (widen (fmtOf (pPF d)) p.1), p.2)
    (x.2, put acc.2 key (((look acc.2 key).getD []) ++ [x.1]))) acc

/-- Products in a free order (R142, log 2). -/
def freeOrder (k : Nat) (l : List Nat) : List Nat :=
  if l.length < 3 then l else (sortBy (fun x => Config.rank k x.2) (l.zip (List.range l.length))).map (·.1)
/-- FP32 values added one after another, beginning with the first. -/
def sum32 : List Nat → Nat
  | [] => 0
  | x :: xs => xs.foldl add32 x
/-- Products as they fall into sort buffers, which end freely: the sum of each buffer, the last first (R141). -/
def bufferSums (k : Nat) (l : List Nat) : List Nat :=
  (l.zip (List.range l.length)).foldl (fun (acc : List Nat) x => match acc with
    | b :: bs => if Config.rank k (2 ^ 40 + x.2) % 2 = 1 then x.1 :: b :: bs else add32 b x.1 :: bs
    | [] => [x.1]) []
/-- The total of an element: the sums of its buffers merged; of a heavy row, whose entries are cut at every 4,096th, the sums of its
segments (R141, R142). -/
def elemTotal (k : Nat) (ps : List Nat) : Nat :=
  if ps.length ≤ 4096 then sum32 (bufferSums k (freeOrder k ps)).reverse
  else
    let segs := (List.range (ceilDiv ps.length 4096)).map fun i => (ps.drop (4096 * i)).take 4096
    sum32 (freeOrder k (segs.map fun l => sum32 (freeOrder k l)))

/-- One destination element: the total, the element's value added, one rounding (R142). -/
def putTotal (fresh : Nat) (d : Bytes) (j : Job) (k : Nat × List Nat) : Job :=
  if j.ue.isSome then j else
  let a := pOA d + k.1 / 16384 * pOS d + k.1 % 16384 * pOE d
  let total := elemTotal (fresh + k.1) k.2
  let x := if pADD d then
      let c := j.rd 0 a (elemSize (pOF d))
      (add32 (widen (fmtOf (pOF d)) (ofLE c.1)) total, c.2)
    else (total, j)
  x.2.wr 0 a (outElem (pOF d) (rmodeOf (pFlags d % 4) 0 0 0) (pSAT d) (decode f32 x.1)).bytes

def runSpm (s : State) (d : Bytes) (j : Job) : Job :=
  if pON d = 0 ∨ (pOP d ≠ 0 ∧ pIN d = 0) then j
  else
    let h := j.rd (pSp d) (pLIST d) 64
    if h.2.ue.isSome then h.2 else
    let r := if pOP d = 2 then readDelta s d h.1 h.2 else readList s d h.1 h.2
    match r.1 with
    | .bad => { r.2 with failed := some { unit := 6, data := 144 } }
    | .entries es =>
      let ok := es.filter fun e => e.1 < pON d && (pOP d == 0 || e.2.1 < pIN d)
      let buf := if preloads d && !es.isEmpty then r.2.rd 0 (pPA d) (partnerBytes d) else ([], r.2)
      let a := ok.foldl (addProducts d buf.1) (buf.2, [])
      let j := a.2.foldl (putTotal s.fresh d) a.1
      (j.tally rSPM_STAT 15 0 (es.length - ok.length)).tally rSPM_STAT 31 16 (heavyCuts ok)

/-- A sparse merge task of one operation. -/
def spmTask (op slot : Nat) (e : Ecc) (s : State) : State :=
  engineTask s slot e 5 true none (fun d => pOP d == op) runSpm

def execSpmMerge (slot : Nat) (ecc : Ecc) (s : State) : Host.Outcome State Fault Refusal := .next (spmTask 0 slot ecc s)
def execSpmGather (slot : Nat) (ecc : Ecc) (s : State) : Host.Outcome State Fault Refusal := .next (spmTask 1 slot ecc s)
def execDelta (slot : Nat) (ecc : Ecc) (s : State) : Host.Outcome State Fault Refusal := .next (spmTask 2 slot ecc s)

end Sys2Proof.Machine
end

