-- ==== Sys2Proof/Machine/Vector.lean ====
section
/-! DEFINITION. The vector engine (07, R160–R167). -/

namespace Sys2Proof.Machine

/-! ### Operands (Table 7.4) -/

def vOP (d : Bytes) : Nat := num d 16 1
def vSRC (d : Bytes) : Nat := num d 17 1
def vDST (d : Bytes) : Nat := num d 18 1
def vSAT (d : Bytes) : Bool := bit 7 (num d 19 1)
def vOPT (d : Bytes) : Bool := bit 6 (num d 19 1)
def vRM (d : Bytes) : Nat := num d 19 1 % 4
def vROWS (d : Bytes) : Nat := num d 20 2
def vCOLS (d : Bytes) : Nat := num d 24 4
def vS0 (d : Bytes) : Nat := num d 28 4
def vS1 (d : Bytes) : Nat := num d 32 4
def vS2 (d : Bytes) : Nat := num d 36 4
def vD (d : Bytes) : Nat := num d 40 4
def vSS (d : Bytes) : Nat := num d 44 4
def vDS (d : Bytes) : Nat := num d 48 4
def vP (d : Bytes) (i : Nat) : Nat := num d (52 + 4 * i) 4

def isFloat (c : Nat) : Bool := c == 0x80 || c == 0x81 || c == 0x82
def optOps : List Nat := [0x02, 0x03, 0x10, 0x11, 0x14, 0x20]
def vecOps : List Nat := [0x01, 0x02, 0x03, 0x10, 0x11, 0x12, 0x13, 0x14, 0x15, 0x16, 0x20, 0x30, 0x40]
def isRowOp (op : Nat) : Bool := op == 0x02 || op == 0x03 || op == 0x14

/-- The work of the task is none (R150). -/
def vIdle (d : Bytes) : Bool := vROWS d == 0 || vCOLS d == 0

/-- The inputs of a SRC0 row and the elements of a DST row. -/
def vIn (d : Bytes) : Nat := if vOP d = 0x40 then vP d 0 else vCOLS d
def vOut (d : Bytes) : Nat := if vOP d = 0x16 then 1 else vCOLS d

/-! ### The submission check (R149, R160–R166) -/

/-- The size of an element of a weight format; int4 rows start at any byte. -/
def wSize (code : Nat) : Nat := if code = 0x44 then 1 else elemSize code

/-- The regions an operation names besides SRC0 and DST: address, bytes, alignment. -/
def vRegions (d : Bytes) : List (Nat × Nat × Nat) :=
  let op := vOP d
  let r := if vIdle d then 0 else vROWS d
  let c := if vIdle d then 0 else vCOLS d
  let es := elemSize (vSRC d)
  (if vRM d = 2 then [(vS2 d, 16, 16)] else [])
  ++ (if isRowOp op then [(vS1 d, extent (if vOPT d then min r 1 else r) (vSS d) (c * es), es)] else [])
  ++ (if op = 0x10 then [(vS1 d, 4 * c, 4)] else [])
  ++ (if op = 0x11 then [(vS1 d, 8 * c, 4)] else [])
  ++ (if (op = 0x10 ∨ op = 0x11) ∧ vOPT d then [(vS2 d, 16 * r * ceilDiv c 256, 16)] else [])
  ++ (if op = 0x12 then [(vS1 d, 4 * r, 4), (vS2 d, if r = 0 then 0 else vP d 1 * (vP d 0 / 65536) * 4, 4)] else [])
  ++ (if op = 0x20 then
        [(vS1 d, 4 * r, 4), (vP d 1, ceilDiv c 512, 1), (vD d, extent (ceilDiv c 512) (vP d 2) (64 + 512 * r), 64)] else [])
  ++ (if op = 0x30 then [(vS1 d, 4 * r, 4)] else [])
  ++ (if op = 0x40 then
        [(vS1 d, extent (if r = 0 then 0 else vP d 0) (vP d 2) (elemBytes (vP d 1) c), wSize (vP d 1))]
        ++ (if vP d 1 = 0x48 ∨ vP d 1 = 0x44 then [(vS2 d, 2 * c, 2)] else [])
      else [])

/-- An operation's own parameters (R160, R163, R164, R166). -/
def vParamsOk (d : Bytes) : Bool :=
  let op := vOP d
  if op = 0x12 then
    let hd := vP d 0 % 65536
    let rot := vP d 0 / 65536
    hd != 0 && rot % 2 == 0 && rot ≤ hd && vCOLS d % hd == 0
  else if op = 0x13 ∨ op = 0x14 ∨ op = 0x16 then vP d 0 < 4
  else if op = 0x20 then vROWS d ≤ 64 && 64 + vROWS d * 512 ≤ vP d 2 && vP d 2 % 64 == 0
  else if op = 0x30 then vP d 0 < 4
  else if op = 0x40 then
    (isFloat (vP d 1) || vP d 1 == 0x48 || vP d 1 == 0x44) && vP d 2 % wSize (vP d 1) == 0
  else true

/-- A vector task passes the check of its operand area. -/
def vectorCheck (d : Bytes) : Bool :=
  let op := vOP d
  let fmts := fun c => isFloat c || (op == 0x01 && (c == 0x48 || c == 0x50))
  let r := if vIdle d then 0 else vROWS d
  vecOps.contains op && bits 5 2 (num d 19 1) == 0 && num d 22 2 == 0
  && fmts (vSRC d) && (op == 0x20 || fmts (vDST d))
  && (vRM d < 2 || (vRM d == 2 && (op == 0x01 || op == 0x20))) && (!vOPT d || optOps.contains op) && vParamsOk d
  && vSS d % elemSize (vSRC d) == 0
  && inCommons (vS0 d) (extent r (vSS d) (vIn d * elemSize (vSRC d))) (elemSize (vSRC d))
  && (op == 0x20 || (vDS d % elemSize (vDST d) == 0
        && inCommons (vD d) (extent r (vDS d) (vOut d * elemSize (vDST d))) (elemSize (vDST d))))
  && (vRegions d).all fun x => inCommons x.1 x.2.1 x.2.2

/-! ### Rows -/

/-- The task's sources and destination overlap other than identically (R151). -/
def vClash (d : Bytes) : Bool :=
  let dn := extent (vROWS d) (vDS d) (vOut d * elemSize (vDST d))
  let sn := extent (vROWS d) (vSS d) (vIn d * elemSize (vSRC d))
  (overlap (vS0 d) sn (vD d) dn && !(vS0 d == vD d && vSS d == vDS d))
  || (vRegions d).any fun x => vOP d != 0x20 && overlap x.1 x.2.1 (vD d) dn

/-- Row `r` of SRC0 as element codes. -/
def vRow (d : Bytes) (j : Job) (r : Nat) : List Nat × Job :=
  let n := vIn d
  let x := j.rd 0 (vS0 d + r * vSS d) (elemBytes (vSRC d) n)
  (elems (vSRC d) x.1 n, x.2)

/-- Row `r` of a SRC1 row operand; with OPT row 0 for every row. -/
def vRow1 (d : Bytes) (j : Job) (r : Nat) : List Nat × Job :=
  let x := j.rd 0 (vS1 d + (if vOPT d then 0 else r) * vSS d) (elemBytes (vSRC d) (vCOLS d))
  (elems (vSRC d) x.1 (vCOLS d), x.2)

/-- FP32 values from an address. -/
def floats (j : Job) (a n : Nat) : List Nat × Job :=
  let x := j.rd 0 a (4 * n)
  (elems 0x80 x.1 n, x.2)

/-- The rounding modes of the elements of row `r`: RMODE 2 takes its key and stream from the record at SRC2 (R161). -/
def vModes (d : Bytes) (j : Job) (r : Nat) : (Nat → RMode) × Job :=
  if vRM d = 2 then
    let x := j.rd 0 (vS2 d) 16
    (fun n => rmodeOf 2 (num x.1 0 8) (num x.1 8 4) (r * vCOLS d + n), x.2)
  else (fun _ => rmodeOf (vRM d) 0 0 0, j)

/-- From one format to another is a float narrowing or a conversion to an integer, which RMODE governs; anything else, as the arithmetic
of one format, rounds to nearest (Table 3.7). -/
def narrows (src dst : Nat) : Bool := isFloat src && (!isFloat dst || (dst != 0x80 && dst != src))

/-- A row of exact results of operations in a format, rounded once to DST_FMT and written; SAT acts where the rounding narrows (R72). -/
def vPut (d : Bytes) (src : Nat) (j : Job) (r : Nat) (vs : List Val) : Job :=
  let m := vModes d j r
  let n := narrows src (vDST d)
  m.2.putRow 0 (vD d + r * vDS d) (outRow (vDST d) (if n then m.1 else fun _ => .nearest) (vSAT d && n) vs)

/-- FP32 results written. -/
def vPut32 (d : Bytes) (j : Job) (r : Nat) (xs : List Nat) : Job := vPut d 0x80 j r (xs.map (decode f32))

/-- A source element as FP32. -/
def vWide (d : Bytes) (b : Nat) : Nat := rne f32 (elemVal (vSRC d) b)

/-- A task of rows: nothing when its work count is zero (R150). -/
def vRows (s : State) (d : Bytes) (j : Job) (f : Job → Nat → Job) : Job :=
  if vIdle d then j else j.rows (rowOrder s (vROWS d) (vClash d)) f

/-! ### Operations (Table 7.5) -/

def runConvert (s : State) (d : Bytes) (j : Job) : Job :=
  vRows s d j fun j r =>
    let x := vRow d j r
    vPut d (vSRC d) x.2 r (x.1.map (elemVal (vSRC d)))

/-- ADD and MUL: the exact result of two elements. -/
def runBinary (f : Val → Val → Val) (s : State) (d : Bytes) (j : Job) : Job :=
  vRows s d j fun j r =>
    let x := vRow d j r
    let b := vRow1 d x.2 r
    vPut d (vSRC d) b.2 r ((x.1.zip b.1).map fun p => f (elemVal (vSRC d) p.1) (elemVal (vSRC d) p.2))

/-- q and the sum of a row for a norm: from the row, or from the drains' records in record order (R162). -/
def rowMoments (s : State) (d : Bytes) (j : Job) (r : Nat) (x : List Nat) (wantSum : Bool) : Nat × Nat × Job :=
  let f := fmtOf (vSRC d)
  if vOPT d then
    let n := ceilDiv (vCOLS d) 256
    let recs := j.rd 0 (vS2 d + r * n * 16) (16 * n)
    let cs := chunksOf 16 n recs.1
    (cs.foldl (fun a c => add32 a (num c 8 4)) 0, cs.foldl (fun a c => add32 a (num c 4 4)) 0, recs.2)
  else
    let vs := x.map (decode f)
    let q := chunkedSum (s.fresh + 2 * r) f (vs.map fun v => v.mul v)
    let m := if wantSum then chunkedSum (s.fresh + 2 * r + 1) f vs else (0, 0)
    (q.1, m.1, j.rescued (q.2 + m.2))

def runRmsnorm (s : State) (d : Bytes) (j : Job) : Job :=
  vRows s d j fun j r =>
    let x := vRow d j r
    let g := floats x.2 (vS1 d) (vCOLS d)
    let m := rowMoments s d g.2 r x.1 false
    let k := rsqrt32 s.fresh (add32 (div32 s.fresh m.1 (int32F (vCOLS d))) (vP d 0))
    vPut32 d m.2.2 r ((x.1.zip g.1).map fun p => mul32 (mul32 (vWide d p.1) k) p.2)

def runLayernorm (s : State) (d : Bytes) (j : Job) : Job :=
  vRows s d j fun j r =>
    let x := vRow d j r
    let g := floats x.2 (vS1 d) (2 * vCOLS d)
    let m := rowMoments s d g.2 r x.1 true
    let n := int32F (vCOLS d)
    let mu := div32 s.fresh m.2.1 n
    let k := rsqrt32 s.fresh (add32 (sub32 (div32 s.fresh m.1 n) (mul32 mu mu)) (vP d 0))
    vPut32 d m.2.2 r ((x.1.zip (g.1.zip (g.1.drop (vCOLS d)))).map fun p =>
      fma32 (mul32 (sub32 (vWide d p.1) mu) k) p.2.1 p.2.2)

/-- One head of a row rotated (R163): pairs below ROT_DIM, the rest copied. -/
def ropeHead (tab : List Nat) : List Nat → List Nat
  | a :: b :: rest =>
    match tab with
    | c :: s :: tab' => fma32 a c (neg32 (mul32 b s)) :: fma32 a s (mul32 b c) :: ropeHead tab' rest
    | _ => a :: b :: rest
  | l => l

/-- A row cut into heads of `hd` elements, each rotated. -/
def ropeRow (tab : List Nat) (hd : Nat) : Nat → List Nat → List Nat
  | 0, _ => []
  | n + 1, l => if l.isEmpty then [] else ropeHead tab (l.take hd) ++ ropeRow tab hd n (l.drop hd)

def runRope (s : State) (d : Bytes) (j : Job) : Job :=
  vRows s d j fun j r =>
    let x := vRow d j r
    let hd := vP d 0 % 65536
    let rot := vP d 0 / 65536
    let p := x.2.rd 0 (vS1 d + 4 * r) 4
    if vP d 1 ≤ ofLE p.1 then (vPut d (vSRC d) p.2 r (x.1.map (elemVal (vSRC d)))).tally rVEC_STAT 11 0 1
    else
      let tab := floats p.2 (vS2 d + ofLE p.1 * rot * 4) rot
      vPut32 d tab.2 r (ropeRow tab.1 hd (vCOLS d / hd) (x.1.map (vWide d)))

/-- The activation functions of ACT and GATED. -/
def actFn (k f x : Nat) : Nat :=
  match f with
  | 0 => silu32 k x
  | 1 => gelu32 k x
  | 2 => max32 x 0
  | _ => sigmoid32 k x

def runAct (s : State) (d : Bytes) (j : Job) : Job :=
  vRows s d j fun j r =>
    let x := vRow d j r
    vPut32 d x.2 r (x.1.map fun b => actFn s.fresh (vP d 0) (vWide d b))

def runGated (s : State) (d : Bytes) (j : Job) : Job :=
  vRows s d j fun j r =>
    let x := vRow d j r
    let b := vRow1 d x.2 r
    vPut32 d b.2 r ((x.1.zip b.1).map fun p => mul32 (actFn s.fresh (vP d 0) (vWide d p.1)) (vWide d p.2))

def runSoftmax (s : State) (d : Bytes) (j : Job) : Job :=
  vRows s d j fun j r =>
    let x := vRow d j r
    let z := x.1.map fun b => mul32 (vP d 0) (vWide d b)
    let m := maxAll z
    let e := z.map fun v => exp32 s.fresh (sub32 v m)
    let den := chunkedSum (s.fresh + r) (fmtOf (vSRC d)) (e.map (decode f32))
    vPut32 d (x.2.rescued den.2) r (e.map fun v => div32 s.fresh v den.1)

def runReduce (s : State) (d : Bytes) (j : Job) : Job :=
  vRows s d j fun j r =>
    let x := vRow d j r
    let f := fmtOf (vSRC d)
    let vs := x.1.map (decode f)
    let k := vP d 0
    if k < 2 then
      let t := chunkedSum (s.fresh + r) f (if k = 1 then vs.map fun v => v.mul v else vs)
      vPut32 d (x.2.rescued t.2) r [t.1]
    else
      let w := x.1.map (vWide d)
      vPut32 d x.2 r [maxAll (if k = 3 then w.map abs32 else w)]

/-- The plane of the inputs that satisfy a test, 64 bytes. -/
def planeOf (p : Int × Bool → Bool) (as : List (Int × Bool)) : Bytes :=
  toLE 64 (((as.zip (List.range as.length)).map fun x => if p x.1 then 2 ^ x.2 else 0).foldl (· + ·) 0)

/-- A token's inputs of one block converted (R62, R63): the record's bytes, clamps and NaNs. Each input carries its magnitude
bit of the ±1 form. -/
def quantBlock (code rt : Nat) (mode : Nat → RMode) (src k0 : Nat) (xs : List Nat) : OutElem :=
  match actFmt code with
  | none => ⟨[], 0, 0⟩
  | some (sg, p, a) =>
    let conv : List (IntConv × Bool) := (xs.zip (List.range xs.length)).map fun x =>
      let v := elemVal src x.1
      if code = 0x01 then
        match v with
        | .nan => (⟨0, 0, 1⟩, false)
        | _ => (⟨if v.lt (ofInt 0) then -1 else 1, 0, 0⟩, true)
      else (toInt (mode (k0 + x.2)) (if sg then -(a : Int) else 0) a (v.mul (decode f32 rt)), false)
    let as := conv.map fun c => (c.1.val, c.2)
    let planes := (List.range p).flatMap fun i => planeOf (fun y => bit i y.1.natAbs) as
    ⟨(if sg then planeOf (fun y => y.1 < 0) as else []) ++ planes, sumOf (conv.map (·.1.sat)), sumOf (conv.map (·.1.nan))⟩

/-- s_t and r_t of a token (R61). -/
def tokenScale (d : Bytes) (q : Nat) (xs : List Nat) : Nat × Nat :=
  if vOPT d then (vP d 0, divExact 0x3F800000 (vP d 0))
  else
    let m := maxAll ((xs.map (vWide d)).filterMap fun v => if isNan f32 v then none else some (abs32 v))
    if m = 0 ∨ isInf f32 m then (0x3F800000, 0x3F800000)
    else (divExact m (int32F q), divExact (int32F q) m)

/-- The tokens of a QUANT task, in order: scales written, records gathered per block with their clamps. -/
def quantTokens (d : Bytes) (codes : List Nat) (q : Nat) (j : Job) : Job :=
  let nb := codes.length
  let step := fun (acc : Job × List (Bytes × Nat)) (t : Nat) =>
    if acc.1.ue.isSome then acc else
    let x := vRow d acc.1 t
    let m := vModes d x.2 t
    let sc := tokenScale d q x.1
    let outs := (codes.zip (List.range nb)).map fun c =>
      quantBlock c.1 sc.2 m.1 (vSRC d) (512 * c.2) ((x.1.drop (512 * c.2)).take 512)
    let j := (m.2.wr 0 (vS1 d + 4 * t) (toLE 4 sc.1)).conv (sumOf (outs.map (·.sat))) (sumOf (outs.map (·.nan)))
    (j, (acc.2.zip outs).map fun p => (p.1.1 ++ p.2.bytes, p.1.2 + p.2.sat))
  let r := (List.range (vROWS d)).foldl step (j, codes.map fun _ => ([], 0))
  ((codes.zip r.2).zip (List.range nb)).foldl (fun j b =>
    j.wr 0 (vD d + b.2 * vP d 2) (toLE 1 b.1.1 ++ [0] ++ toLE 2 (min b.1.2.2 0xFFFF) ++ zeros 60 ++ b.1.2.1)) r.1

def runQuant (_s : State) (d : Bytes) (j : Job) : Job :=
  if vIdle d then j
  else
    let l := j.rd 0 (vP d 1) (ceilDiv (vCOLS d) 512)
    let codes := l.1.map (·.toNat)
    if l.2.ue.isSome then l.2
    else if !codes.all (fun c => (actFmt c).isSome) then { l.2.tally rVEC_STAT 31 24 1 with failed := some { unit := 4, data := 164 } }
    else
      let q := codes.foldl (fun a c => match actFmt c with
        | some (_, _, m) => max a m
        | none => a) 0
      quantTokens d codes q l.2

def runGraft (s : State) (d : Bytes) (j : Job) : Job :=
  vRows s d j fun j r =>
    let x := vRow d j r
    let p := x.2.rd 0 (vS1 d + 4 * r) 4
    let ptr := ofLE p.1
    let c := vCOLS d
    let sc := bit 0 (vP d 0)
    let sv := bit 1 (vP d 0)
    let need := 2 * c * (b2n sc + b2n sv)
    let copy := x.1.map (elemVal (vSRC d))
    if ptr = 0xFFFFFFFF then vPut d (vSRC d) p.2 r copy
    else if ptr % 2 = 1 ∨ (need ≠ 0 ∧ 2 ^ 28 < ptr + need) then (vPut d (vSRC d) p.2 r copy).tally rVEC_STAT 23 12 1
    else
      let g := p.2.rd 0 ptr need
      let hs := (elems 0x82 g.1 (need / 2)).map (widen f16)
      let a := if sc then hs.take c else List.replicate c 0x3F800000
      let v := if sv then (if sc then hs.drop c else hs) else List.replicate c 0
      vPut d 0x80 g.2 r ((x.1.zip (a.zip v)).map fun y =>
        ((elemVal (vSRC d) y.1).mul (decode f32 y.2.1)).add (decode f32 y.2.2) |> rne f32 |> decode f32)

/-- Row `k` of the weight matrix. -/
def gemmRow (d : Bytes) (j : Job) (k : Nat) : List Val × Job :=
  let c := vP d 1
  let x := j.rd 0 (vS1 d + k * vP d 2) (elemBytes c (vCOLS d))
  ((elems c x.1 (vCOLS d)).map (valOf c), x.2)

/-- The weight matrix, row by row, read once. -/
def gemmW (d : Bytes) (j : Job) : List (List Val) × Job :=
  (List.range (vP d 0)).foldl (fun acc k => let x := gemmRow d acc.2 k; (acc.1 ++ [x.1], x.2)) ([], j)

def runGemm (s : State) (d : Bytes) (j : Job) : Job :=
  if vIdle d then j
  else
    let w := gemmW d j
    let intW := vP d 1 == 0x48 || vP d 1 == 0x44
    let c := if intW then
        let x := w.2.rd 0 (vS2 d) (2 * vCOLS d)
        ((elems 0x82 x.1 (vCOLS d)).map (widen f16), x.2)
      else (List.replicate (vCOLS d) 0x3F800000, w.2)
    vRows s d c.2 fun j r =>
      let x := vRow d j r
      let xs := x.1.map (elemVal (vSRC d))
      let sums := (List.range (vCOLS d)).map fun n =>
        chunkedSum (s.fresh + r * vCOLS d + n) (fmtOf (vSRC d)) ((xs.zip w.1).map fun p => p.1.mul (p.2.getD n (ofInt 0)))
      vPut32 d (x.2.rescued (sumOf (sums.map (·.2)))) r ((sums.zip c.1).map fun p => mul32 p.1.1 p.2)

/-! ### The rows of the table -/

/-- A vector task of one operation. -/
def vectorTask (op : Nat) (run : State → Bytes → Job → Job) (slot : Nat) (e : Ecc) (s : State) : State :=
  engineTask s slot e 3 false none (fun d => vOP d == op) run

def execVectorConvert (slot : Nat) (ecc : Ecc) (s : State) : Host.Outcome State Fault Refusal :=
  .next (vectorTask 0x01 runConvert slot ecc s)
def execVectorAdd (slot : Nat) (ecc : Ecc) (s : State) : Host.Outcome State Fault Refusal :=
  .next (vectorTask 0x02 (runBinary Val.add) slot ecc s)
def execVectorMul (slot : Nat) (ecc : Ecc) (s : State) : Host.Outcome State Fault Refusal :=
  .next (vectorTask 0x03 (runBinary Val.mul) slot ecc s)
def execRmsnorm (slot : Nat) (ecc : Ecc) (s : State) : Host.Outcome State Fault Refusal :=
  .next (vectorTask 0x10 runRmsnorm slot ecc s)
def execLayernorm (slot : Nat) (ecc : Ecc) (s : State) : Host.Outcome State Fault Refusal :=
  .next (vectorTask 0x11 runLayernorm slot ecc s)
def execRope (slot : Nat) (ecc : Ecc) (s : State) : Host.Outcome State Fault Refusal :=
  .next (vectorTask 0x12 runRope slot ecc s)
def execVectorAct (slot : Nat) (ecc : Ecc) (s : State) : Host.Outcome State Fault Refusal :=
  .next (vectorTask 0x13 runAct slot ecc s)
def execGated (slot : Nat) (ecc : Ecc) (s : State) : Host.Outcome State Fault Refusal :=
  .next (vectorTask 0x14 runGated slot ecc s)
def execSoftmax (slot : Nat) (ecc : Ecc) (s : State) : Host.Outcome State Fault Refusal :=
  .next (vectorTask 0x15 runSoftmax slot ecc s)
def execVectorReduce (slot : Nat) (ecc : Ecc) (s : State) : Host.Outcome State Fault Refusal :=
  .next (vectorTask 0x16 runReduce slot ecc s)
def execQuant (slot : Nat) (ecc : Ecc) (s : State) : Host.Outcome State Fault Refusal :=
  .next (vectorTask 0x20 runQuant slot ecc s)
def execVectorGraft (slot : Nat) (ecc : Ecc) (s : State) : Host.Outcome State Fault Refusal :=
  .next (vectorTask 0x30 runGraft slot ecc s)
def execGemm (slot : Nat) (ecc : Ecc) (s : State) : Host.Outcome State Fault Refusal :=
  .next (vectorTask 0x40 runGemm slot ecc s)

end Sys2Proof.Machine
end

