-- ==== Sys2Proof/Machine/Graph.lean ====
section
/-! DEFINITION. Submitting graphs, the dispatch window, the sync-counter commands and the deadlines of instances (09, R44). -/

namespace Sys2Proof.Machine

/-! ### Collective tasks at the check (R372, R373, Table 14.10) -/

/-- The commons regions a collective task's source and result take (R373). -/
def collRegions (c : Coll) (d : Bytes) : List (Nat × Nat) :=
  let e := elemSize c.fmt
  let n := c.memb.length
  let one := dCOUNT d * e
  let all := extent n (dSTR d) one
  if c.op = 0 then [(dSRC d, one), (dDST d, one)]
  else if c.op = 1 then [(dSRC d, all), (dDST d, one)]
  else if c.op = 2 then [(dSRC d, one), (dDST d, all)]
  else [(dSRC d, all), (dDST d, all)]
    ++ (if dCNT d = 0 then [] else [(dCNT d, 4 * n)]) ++ (if dRCV d = 0 then [] else [(dRCV d, 4 * n)])

/-- A collective task passes the check of its operand area. -/
def collCheck (s : State) (ctx : Nat) (d : Bytes) : Bool :=
  match look s.coll.open_ (num d 16 2) with
  | none => false
  | some c =>
    (ctx == 0 || c.ctx == ctx) && allZero d 18 2 && allZero d 48 16
    && dSRC d % 64 == 0 && dDST d % 64 == 0 && dSTR d % 64 == 0 && dCOUNT d * elemSize c.fmt ≤ dSTR d
    && (collRegions c d).all fun r => inCommons r.1 r.2 1

/-! ### Table 9.4, checks 3 to 6 -/

/-- Check 3: the task names an engine absent from the unit mask, or a mover the absent far tier (R5, R207, R309). -/
def engAbsent (s : State) (d : Bytes) : Bool :=
  let e := dEngine d
  (1 ≤ e && e ≤ 9 && !bit (e - 1) (unitMask s)) || (e == 8 && moverFar d && !bit 10 (unitMask s))

/-- Check 4: every instance of the kind the task names is retired, or a mover's far tier is withdrawn (R6, R308, R460). -/
def kindRetired (s : State) (d : Bytes) : Bool :=
  match dEngine d with
  | 1 => arraysIn s == 0
  | 2 => attnIn s == 0
  | 3 => unitsLeft s 4 64 == 0
  | 4 => unitsLeft s 5 32 == 0
  | 5 => unitsLeft s 6 8 == 0
  | 6 => unitsLeft s 7 8 == 0
  | 7 => unitsLeft s 8 4 == 0
  | 8 => unitsLeft s 9 32 == 0 || (moverFar d && capOf s 2 == 0)
  | _ => false

/-- The operand area lies within its engine's table and rules (R38, R87, R139, R149, R198, R208, R372). -/
def operandOk (s : State) (ctx : Nat) (d : Bytes) : Bool :=
  match dEngine d with
  | 0 => allZero d 16 48
  | 1 => arrayCheck s d
  | 2 => attnCheck d
  | 3 => vectorCheck d
  | 4 => tableCheck s d
  | 5 => spmCheck s d
  | 6 => samplerCheck d
  | 7 => hashCheck d
  | 8 => moverCheck s d
  | 9 => collCheck s ctx d
  | 10 => inCommons (num d 16 4) 8 8 && allZero d 20 44
  | _ => false

/-- Check 5 for one task. -/
def taskOk (s : State) (ctx count : Nat) (d : Bytes) : Bool := taskHeadOk s ctx count d && operandOk s ctx d

/-- The signals to local counters a task adds, and whether its waits on local counters are met by those before it (R218). -/
def localWaitsMet (sig : List (Nat × Nat)) (d : Bytes) : Bool :=
  (waitFields d).all fun w => bit 14 w.1 || w.2 ≤ (look sig (w.1 % 16384)).getD 0
def addSignals (sig : List (Nat × Nat)) (d : Bytes) : List (Nat × Nat) :=
  (signalFields d).foldl (fun m f => if bit 14 f then m else put m (f % 16384) ((look m (f % 16384)).getD 0 + 1)) sig

/-- Check 6 over a task list. -/
def orderOk : List (Nat × Nat) → List Bytes → Bool
  | _, [] => true
  | sig, d :: ds => localWaitsMet sig d && orderOk (addSignals sig d) ds

/-- Checks 2 to 6, in the order of the table; `exempt k` says that check 5 passes task `k` whatever it holds (R220). -/
def graphFault (s : State) (ctx : Nat) (h : GHdr) (ds : List Bytes) (taskPass : Nat → Bytes → Bool) : Option Nat :=
  if !fmtOk s h.fmt then some stParam
  else if ds.any (engAbsent s) then some stUnit
  else if ds.any (kindRetired s) then some stRetired
  else if !((ds.zip (List.range ds.length)).all fun x => taskOk s ctx h.ctrCount x.1 || taskPass x.2 x.1) then some stParam
  else if !orderOk [] ds then some stParam
  else none

/-! ### Checks 7 and 8, and the instance table -/

/-- Check 7: every counter of the local range belongs to the context, and no instance in flight has one of them as local. -/
def localRangeOk (s : State) (ctx : Nat) (h : GHdr) : Bool :=
  ((List.range h.ctrCount).all fun k => look s.disp.owners (h.ctrBase + k) == some ctx) &&
  s.disp.insts.all fun i => !overlap h.ctrBase h.ctrCount i.hdr.ctrBase i.hdr.ctrCount

/-- The local counters of an instance set to 0 and its start recorded (R222). -/
def startInst (s : State) (n : Nat) : State :=
  match instOf s n with
  | none => s
  | some i =>
    let s := (List.range i.hdr.ctrCount).foldl (fun s k => putCtr s (i.hdr.ctrBase + k) 0) s
    modInst s n fun i => { i with start := s.time }

/-- A new entry of the instance table. A graph without tasks completes at once (R232). -/
def enterInst (s : State) (ctx tier addr : Nat) (h : GHdr) (params : Option (List Nat)) (step : Option Nat) (forceRef : Bool) :
    Nat × State :=
  let n := s.disp.nextNum
  let i : Inst := { num := n, ctx := ctx, part := partOf s ctx, step := step, forceRef := forceRef, tier := tier, addr := addr,
                    hdr := h, params := params, admitted := 0, ended := 0, voided := 0, status := 0, failTask := 0xFFFFFFFF,
                    suspect := none, late := false, start := 0, signals := [], closing := false }
  let s := { s with disp := { s.disp with insts := s.disp.insts ++ [i], nextNum := n + 1 } }
  (n, if h.tasks = 0 then tryComplete (startInst s n) n else s)

/-! ### SUBMIT_GRAPH (R217, R220, R221) -/

/-- The image as the checker reads it: header and descriptors, patched when it is an installed graph's. -/
def imageTasks (s : State) (tier addr : Nat) (h : GHdr) (params : Option (List Nat)) : List Bytes :=
  (List.range h.tasks).map fun k =>
    let d := ld s tier (taskAddr addr k) 64
    match params with
    | some ps => patched (patchesOf s tier addr h) ps k d
    | none => d

/-- The image's bytes: header and tasks, and the patch table. -/
def imageRegions (addr : Nat) (h : GHdr) : List (Nat × Nat) :=
  (addr, 64 + 64 * h.tasks) :: (if h.patchCount = 0 then [] else [(addr + h.patchOff, 16 * h.patchCount)])

/-- An image may be read at all: its 64 bytes stand in the context's blocks. -/
def imageNamed (s : State) (ctx tier addr : Nat) : Bool := tier < 2 && addr % 64 == 0 && mayName s ctx tier addr 64

/-- An image stands where the context may hold it, its header is good, and so is the place of its record (check 1). -/
def imagePlaced (s : State) (ctx tier addr : Nat) (installed : Bool) : Bool :=
  let b := ld s tier addr 64
  let h := hdrOf b
  tier < 2 && addr % 64 == 0 && mayName s ctx tier addr 64 && hdrOk s ctx installed b
  && (imageRegions addr h).all (fun r => mayName s ctx tier r.1 r.2)
  && (!h.statusEn || recordPlaceOk s ctx h.statusTier h.statusAddr)

/-- The first word of an image that does not decode. -/
def imageUe (s : State) (tier addr : Nat) : Option Nat :=
  (imageRegions addr (hdrOf (ld s tier addr 64))).findSome? fun r => firstBad s tier r.1 r.2

/-- Checks 7 and 8, then the instance and the reply. -/
def submitEnter (s : State) (r : Req) (tier addr : Nat) (h : GHdr) (params : Option (List Nat)) : State :=
  if !localRangeOk s r.pkt.hdr.ctx h then fail s r stParam
  else if 1024 ≤ s.disp.insts.length then fail s r stCapacity 4
  else
    let e := enterInst s r.pkt.hdr.ctx tier addr h params none false
    replyTo e.2 r stOK 0 (toLE 4 e.1)

/-- A submission's checks over an image that stands at a place. -/
def submitChecked (s : State) (r : Req) (tier addr : Nat) (params : Option (List Nat)) : State :=
  let c := r.pkt.hdr.ctx
  let installed := params.isSome
  if !imageNamed s c tier addr then fail s r stParam
  else match firstBad s tier addr 64 with
  | some x => cmdUe s r tier x
  | none =>
  if !imagePlaced s c tier addr installed then fail s r stParam
  else match imageUe s tier addr with
    | some x => cmdUe s r tier x
    | none =>
      let h := hdrOf (ld s tier addr 64)
      let s := chargeNear s tier (partOf s c) (64 + 64 * h.tasks)
      match graphFault s c h (imageTasks s tier addr h params) (fun _ _ => false) with
      | some st => fail s r st
      | none => submitEnter s r tier addr h params

/-- SUBMIT_GRAPH of an image. -/
def submitGraph (s : State) (r : Req) : State :=
  let pl := r.pkt.payload
  if num pl 3 1 ≠ 0 ∨ 256 < num pl 4 4 then fail s r stParam
  else if moduleFailed s && r.pkt.hdr.ctx != 0 then fail s r stRetired   -- R308, R461 (log 17)
  else if maintHolds s || (s.power.bindOff.isSome && r.pkt.hdr.ctx != 0) then fail s r stCapacity 0
  else submitChecked s r (num pl 1 1) (num pl 8 8) none

def execSubmitGraph (p : Pkt) (s : State) : Host.Outcome State Fault Refusal :=
  .next (receive s opSUBMIT (withByte p 0 0) submitGraph)

/-- SUBMIT_GRAPH of an installed graph with its parameter block (R220, R221). -/
def submitInstalled (s : State) (r : Req) : State :=
  let pl := r.pkt.payload
  let g := num pl 2 1
  let n := num pl 4 4
  if num pl 3 1 ≠ 0 ∨ 256 < n then fail s r stParam
  else if r.pkt.hdr.ctx ≠ 0 then fail s r stNoObj
  else if 15 < g then fail s r stParam
  else if maintHolds s then fail s r stCapacity 0
  else match look s.graphs g with
    | none => fail s r stNoObj
    | some ig =>
      let h := hdrOf (ld s ig.tier ig.addr 64)
      match imageUe s ig.tier ig.addr with
      | some x => cmdUe s r ig.tier x
      | none =>
        if (patchesOf s ig.tier ig.addr h).any fun p => n ≤ p.param then fail s r stParam
        else submitChecked s r ig.tier ig.addr (some (words32 pl 16 n))

def execSubmitGraphInstalled (p : Pkt) (s : State) : Host.Outcome State Fault Refusal :=
  .next (receive s opSUBMIT (withByte p 0 1) submitInstalled)

/-! ### SYNC_WAIT, SYNC_SIGNAL and SYNC_ALLOC (R213–R215) -/

/-- What naming a counter ends in, if anything (R212, R331). -/
def ctrFault (s : State) (ctx c : Nat) : Option Nat :=
  if 16383 < c then some stParam
  else if ctx = 0 ∨ look s.disp.owners c = some ctx then none
  else some stNoObj

def syncWait (s : State) (r : Req) : State :=
  let pl := r.pkt.payload
  let c := num pl 0 2
  let v := num pl 4 4
  let t := num pl 8 8
  if !allZero pl 2 2 then fail s r stParam
  else match ctrFault s r.pkt.hdr.ctx c with
    | some st => fail s r st
    | none =>
      if v ≤ ctrVal s c then replyTo s r stOK 0 (toLE 4 (ctrVal s c))
      else if 1024 ≤ s.disp.waits.length then fail s r stCapacity 4
      else
        let w : Wait := { req := r, ctr := c, value := v, expires := if t = 0 then none else some (s.time + t) }
        { s with disp := { s.disp with waits := s.disp.waits ++ [w] } }

def execSyncWait (p : Pkt) (s : State) : Host.Outcome State Fault Refusal :=
  .next (receive s opWAIT p syncWait)

/-- The timeout of an outstanding SYNC_WAIT expires. -/
def syncWaitTimeout (s : State) (ctx : Nat) (q : W32) : State :=
  match s.disp.waits.find? fun w => w.req.pkt.hdr.ctx == ctx && w.req.pkt.hdr.seq == q with
  | none => s
  | some w =>
    match w.expires with
    | none => s
    | some t =>
      if s.time < t then s
      else
        let s := { s with disp := { s.disp with
                     waits := s.disp.waits.filter fun x => !(x.req.pkt.hdr.ctx == ctx && x.req.pkt.hdr.seq == q) } }
        replyTo s w.req stDeadline 0 (toLE 4 (ctrVal s w.ctr))

def execSyncWaitTimeout (ctx : Nat) (seq : W32) (s : State) : Host.Outcome State Fault Refusal :=
  .next (syncWaitTimeout s ctx seq)

/-- ADD: saturating, a sum beyond the maximum counted once (R210). -/
def addCtr (s : State) (c v : Nat) : State :=
  if v = 0 then s
  else if 0xFFFFFFFF < ctrVal s c + v then setCtr (bump s rDISP_FAULT 15 8 1) c 0xFFFFFFFF
  else setCtr s c (ctrVal s c + v)

/-- SYNC_SIGNAL with the operation given. -/
def syncSignal (op : State → Nat → Nat → State) (s : State) (r : Req) : State :=
  let pl := r.pkt.payload
  if num pl 3 1 ≠ 0 then fail s r stParam
  else match ctrFault s r.pkt.hdr.ctx (num pl 0 2) with
    | some st => fail s r st
    | none => fail (op s (num pl 0 2) (num pl 4 4)) r stOK

def execSyncSignalAdd (p : Pkt) (s : State) : Host.Outcome State Fault Refusal :=
  .next (receive s opSIGNAL (withByte p 2 0) (syncSignal addCtr))
def execSyncSignalSet (p : Pkt) (s : State) : Host.Outcome State Fault Refusal :=
  .next (receive s opSIGNAL (withByte p 2 1) (syncSignal setCtr))

/-- Counters a context holds, and the lowest run of `n` that nobody holds. -/
def ctrsHeld (s : State) (c : Nat) : Nat := (s.disp.owners.filter fun x => x.2 == c).length
def freeCtrRun (s : State) (n : Nat) : Option Nat :=
  ((0 :: s.disp.owners.map fun x => x.1 + 1).find? fun b =>
    b + n ≤ 16384 && s.disp.owners.all fun x => !(b ≤ x.1 && x.1 < b + n))

/-- A run of counters given to a context, each at 0; one taken back. -/
def giveCtrs (s : State) (c b n : Nat) : State :=
  (List.range n).foldl (fun s k =>
    let s := putCtr s (b + k) 0
    { s with disp := { s.disp with owners := put s.disp.owners (b + k) c } }) s

/-- Counters freed: the waits on them complete with NO_OBJECT (R215). -/
def freeCtrs (s : State) (b n : Nat) : State :=
  let gone := fun (c : Nat) => decide (b ≤ c ∧ c < b + n)
  let due := s.disp.waits.filter fun w => gone w.ctr
  let s := { s with disp := { s.disp with
               owners := s.disp.owners.filter fun x => !gone x.1, waits := s.disp.waits.filter fun w => !gone w.ctr } }
  due.foldl (fun s w => fail s w.req stNoObj) s

def syncAlloc (s : State) (r : Req) : State :=
  let pl := r.pkt.payload
  let c := r.pkt.hdr.ctx
  let n := num pl 2 2
  let quota := match ctxOf s c with
    | some x => x.ctrQuota
    | none => 0
  if num pl 1 1 ≠ 0 ∨ num pl 6 2 ≠ 0 ∨ n = 0 ∨ 16384 < n then fail s r stParam
  else if c ≠ 0 ∧ quota < ctrsHeld s c + n then fail s r stCapacity 1
  else match freeCtrRun s n with
    | none => fail s r stNoObj
    | some b => replyTo (giveCtrs s c b n) r stOK 0 (toLE 2 b ++ zeros 2)

def execSyncAllocAllocate (p : Pkt) (s : State) : Host.Outcome State Fault Refusal :=
  .next (receive s opSALLOC (withByte p 0 0) syncAlloc)

/-- A counter of the run is local to an instance in flight, or a task in the window names it. -/
def ctrsInUse (s : State) (b n : Nat) : Bool :=
  (s.disp.insts.any fun i => overlap b n i.hdr.ctrBase i.hdr.ctrCount)
  || s.disp.window.any fun w => match instOf s w.2.inst with
      | some i => ((waitFields w.2.desc).map (·.1) ++ signalFields w.2.desc).any fun f =>
          b ≤ ctrOf i.hdr.ctrBase f && ctrOf i.hdr.ctrBase f < b + n
      | none => false

def syncFree (s : State) (r : Req) : State :=
  let pl := r.pkt.payload
  let c := r.pkt.hdr.ctx
  let n := num pl 2 2
  let b := num pl 4 2
  if num pl 1 1 ≠ 0 ∨ num pl 6 2 ≠ 0 ∨ n = 0 ∨ 16384 < b + n then fail s r stParam
  else if !((List.range n).all fun k => match look s.disp.owners (b + k) with
      | some o => o == c
      | none => false) then fail s r stParam
  else if ctrsInUse s b n then fail s r stParam
  else replyTo (freeCtrs s b n) r stOK 0 (toLE 2 b ++ zeros 2)

def execSyncAllocFree (p : Pkt) (s : State) : Host.Outcome State Fault Refusal :=
  .next (receive s opSALLOC (withByte p 0 1) syncFree)

/-! ### Admission to the window (R222, R223) -/

/-- Instances that have tasks to enter, steps in step order and the others by age. -/
def waitingSteps (s : State) : List Inst :=
  sortBy (fun i => i.step.getD 0) (s.disp.insts.filter fun i => i.step.isSome && i.admitted < i.hdr.tasks)
def waitingOthers (s : State) : List Inst := s.disp.insts.filter fun i => i.step.isNone && i.admitted < i.hdr.tasks

/-- Slots a condition on their instance holds. -/
def slotsHeld (s : State) (p : Inst → Bool) : Nat :=
  (s.disp.window.filter fun w => match instOf s w.2.inst with
    | some i => p i
    | none => false).length

/-- Most slots that steps together, all other instances together, and one of these may hold (R223, R235). -/
def stepLimit (s : State) : Nat := if (waitingOthers s).isEmpty then 16384 else 16320
def otherLimit (s : State) : Nat := 16384 - fld s rDISP_CTL 14 0
def graphCap (s : State) : Nat := fld s rDISP_CTL 31 16

/-- A non-step instance may take another slot. -/
def otherMay (s : State) (i : Inst) : Bool :=
  slotsHeld s (·.step.isNone) < otherLimit s && slotsHeld s (·.num == i.num) < graphCap s

/-- The instance whose next task enters, if any: a step, else the oldest of the next partition in turn. -/
def chooseEntry (s : State) : Option Inst :=
  if 16384 ≤ s.disp.window.length then none
  else match (if slotsHeld s (·.step.isSome) < stepLimit s then (waitingSteps s).head? else none) with
    | some i => some i
    | none =>
      (List.range 8).findSome? fun k =>
        (waitingOthers s).find? fun i => i.part == (s.disp.rr + k) % 8 && otherMay s i

/-- The lowest key a sorted table does not hold, from `k` on. -/
def firstGap {α : Type} : Nat → List (Nat × α) → Nat
  | k, [] => k
  | k, (i, _) :: m => if i = k then firstGap (k + 1) m else k

/-- The first entry check a task fails, in the order of Table 9.4 (R222). -/
def entryFault (s : State) (i : Inst) (d : Bytes) : Option Nat :=
  if engAbsent s d then some stUnit
  else if kindRetired s d then some stRetired
  else if !taskOk s i.ctx i.hdr.ctrCount d || !localWaitsMet i.signals d then some stParam
  else none

/-- The ranges a task's descriptor names: space, address, bytes, with the size that an image's or a list's header gives. What a task
reaches through a page location entry is checked as it runs (R201), and so is not among them (R126). -/
def taskNames (s : State) (d : Bytes) : List (Nat × Nat × Nat) :=
  let c := fun (a n : Nat) => ((0, a, n) : Nat × Nat × Nat)
  match dEngine d with
  | 1 =>
    let t := aTOKENS d
    [c (aACT d) ((aCOUNT d - 1) * aKS d + 64 + 512 * t)] ++ (if aSTART d == 1 || aEND d == 1 then [c (aSPILL d) (spillBytes t)] else [])
    ++ (if aHOME d then [c (aOUT d) (extent t (aOSTR d) (256 * elemSize (aFMT d)))] ++ (if aTOK d then [c (aSCALE d) (4 * t)] else [])
          ++ (if aSTATEN d then [c (aSTAT d) (extent t (aSSTR d) 16)] else []) else [])
  | 2 => [c (kREC d) (kROWS d * recSize (kOP d))]
  | 3 =>
    [c (vS0 d) (extent (vROWS d) (vSS d) (vIn d * elemSize (vSRC d))), c (vD d) (extent (vROWS d) (vDS d) (vOut d * elemSize (vDST d)))]
    ++ (vRegions d).map fun r => c r.1 r.2.1
  | 4 =>
    [(tSp d, tIMG d, imageSize (tOP d) (ld s (tSp d) (tIMG d) 64)),
     c (tACT d) (if tOP d = 1 then 4 * tTOKENS d else 64 + 512 * tTOKENS d), c (tOUT d) ((tTOKENS d + 1) * tOS d)]
    ++ (if tTOK d then [c (tSC d) (4 * tTOKENS d)] else [])
  | 5 =>
    let h := ld s (pSp d) (pLIST d) 64
    let n := if pOP d = 2 then max (num h 16 8 + 4 * num h 8 4 + 4) (max (num h 24 8 + 4 * num h 12 4) (num h 32 8 + 2 * num h 12 4))
             else 192 + 12 * num h 4 4
    [(pSp d, pLIST d, max 64 n), c (pOA d) (extent (pON d) (pOS d) (extent (pLEN d) (pOE d) (elemSize (pOF d))))]
    ++ (if pOP d = 0 then [] else [c (pPA d) (partnerBytes d)])
  | 6 => [c (sLOGIT d) (extent (sROWS d) (sSTRIDE d) (sV d * elemSize (sFMT d))), c (sPARAM d) (32 * sROWS d), c (sOUT d) (16 * sROWS d)]
  | 7 => c (hJOB d) (32 * hCOUNT d) :: (List.range (hCOUNT d)).map fun k => c (ldN s 0 (hJOB d + 32 * k + 16) 4) 128
  | 8 =>
    (if mOP d == 1 then [] else [(mSRC d, mSA d, extent (if mOP d = 2 then mARG d else mROWS d) (mSS d) (mRB d))])
    ++ (if mDST d == 3 then [] else [(mDST d, mDA d, extent (mROWS d) (mDS d) (mOutBytes d))])
    ++ (if mOP d = 2 then [c (mIX d) (4 * mROWS d)] else [])
  | 9 => match look s.coll.open_ (num d 16 2) with
    | some x => (collRegions x d).map fun r => c r.1 r.2
    | none => []
  | 10 => [c (num d 16 4) 8]
  | _ => []

/-- The next task of an instance enters the window, or fails its entry check. -/
def admitTask (s : State) (i : Inst) : State :=
  let s := if i.step.isNone then { s with disp := { s.disp with rr := (i.part + 1) % 8 } } else s
  let s := if i.admitted = 0 then startInst s i.num else s
  let s := chargeNear s i.tier (instPart s i) 64
  match firstBad s i.tier (taskAddr i.addr i.admitted) 64 with
  | some x =>
    failNow (readUe s i.tier x { ctx := i.ctx, object := i.num, task := i.admitted, flags := instFlags i }) i.num stFault i.admitted
  | none =>
    let d := taskOf s i i.admitted
    match entryFault s i d with
    | some st => failNow (bump s rDISP_FAULT 7 0 1) i.num st i.admitted
    | none =>
      let sl : Slot := { inst := i.num, index := i.admitted, desc := d, ready := waitsMet s i.hdr.ctrBase d, released := false,
                         forceRef := i.forceRef, result := none, names := taskNames s d }
      let s := { s with disp := { s.disp with window := put s.disp.window (firstGap 0 s.disp.window) sl } }
      modInst s i.num fun i => { i with admitted := i.admitted + 1, signals := addSignals i.signals d }

/-- A task waits to enter and no slot it could take is free (DISP_PERF.FULL, R235). -/
def entryFull (s : State) : Bool :=
  (!(waitingSteps s).isEmpty || !(waitingOthers s).isEmpty) && (chooseEntry s).isNone

/-- Up to `n` tasks enter. -/
def admitRun (s : State) : Nat → State
  | 0 => s
  | n + 1 =>
    match chooseEntry s with
    | some i => admitRun (admitTask s i) n
    | none => s

def execTaskAdmit (s : State) : Host.Outcome State Fault Refusal := .next (admitRun s 16)

/-! ### Release (R21, R121, R224) -/

/-- Tasks of the instance may be released: of a step, only while it is the step in flight; with RETRY_DIS in force, only of
graphs of context 0. -/
def mayRelease (s : State) (i : Inst) : Bool :=
  if i.step.isSome then (match s.serve.cur with
    | some c => c.insts.contains i.num
    | none => false) && !s.serve.retryDis
  else i.ctx == 0 || !s.serve.retryDis

/-- The order of release: PRIO, steps, age, index (R224), as one number. -/
def releaseKey (sl : Slot) (i : Inst) : Nat :=
  (((3 - bits 3 2 (num sl.desc 1 1)) * 2 + (if i.step.isSome then 0 else 1)) * 2 ^ 32 + i.num) * 2 ^ 20 + sl.index

/-- The ready tasks that may be released, in order. -/
def releasable (s : State) : List (Nat × Slot) :=
  (sortBy (fun x => x.2) (s.disp.window.filterMap fun w =>
    if w.2.ready && !w.2.released then
      match instOf s w.2.inst with
      | some i => if mayRelease s i then some (w, releaseKey w.2 i) else none
      | none => none
    else none)).map (·.1)

/-- One task released, next in the order of release: an array task wakes its array's bed (R47). -/
def releaseTask (s : State) (w : Nat × Slot) : State :=
  let s := { s with disp := { s.disp with
               window := put s.disp.window w.1 { w.2 with released := true, order := s.disp.nextRel }, nextRel := s.disp.nextRel + 1 } }
  if dEngine w.2.desc == 1 && fld s (rARRAY_MAP (aARRAY w.2.desc)) 7 7 == 1 then raiseBed s (physOf s (aARRAY w.2.desc) / 8)
  else s

def taskRelease (s : State) : State :=
  let l := (releasable s).take 16
  bump64 (l.foldl releaseTask s) rDISP_PERF l.length

def execTaskRelease (s : State) : Host.Outcome State Fault Refusal := .next (taskRelease s)

/-! ### Completion -/

/-- A task whose engine has stopped completes or fails (R227). -/
def taskComplete (s : State) (slot : Nat) : State :=
  match look s.disp.window slot with
  | none => s
  | some sl =>
    match sl.result, instOf s sl.inst with
    | some st, some i => retireTask s slot sl i st
    | _, _ => s

def execTaskComplete (slot : Nat) (s : State) : Host.Outcome State Fault Refusal := .next (taskComplete s slot)

/-- A released NULL task has done its work (R208). -/
def nullTask (s : State) (slot : Nat) : State :=
  match released s slot 0 (fun _ => true) with
  | none => s
  | some _ => endTask s slot stOK

def execNullTask (slot : Nat) (s : State) : Host.Outcome State Fault Refusal := .next (nullTask s slot)

/-- A released STAMP task writes the time (R208). -/
def stamp (s : State) (slot : Nat) : State :=
  match released s slot 10 (fun _ => true) with
  | none => s
  | some (sl, _) => endTask (st s 0 (num sl.desc 16 4) (toLE 8 s.time)) slot stOK

def execStamp (slot : Nat) (s : State) : Host.Outcome State Fault Refusal := .next (stamp s slot)

/-! ### Deadlines (R233, R234) -/

/-- An instance found late. -/
def findLate (s : State) (i : Inst) : State :=
  let s := modInst s i.num fun i => { i with late := true }
  let s := bump s rDISP_FAULT 31 16 1
  let s := record s { code := 0x0601, sev := 1, unit := 11, flags := instFlags i, ctx := i.ctx, object := i.num }
  let s := notify s i.ctx 0x0A12 i.hdr.hostTag 1 (toLE 4 i.num ++ toLE 1 1 ++ zeros 3 ++ toLE 8 i.hdr.deadline)
  if i.hdr.dlAbort then failNow s i.num stDeadline 0xFFFFFFFF else s

/-- The comparison of every instance's deadline with the time. -/
def deadlineCheck (s : State) : State :=
  (s.disp.insts.filter fun i => i.hdr.deadline != 0 && i.hdr.deadline < s.time && !i.late).foldl findLate s

def execDeadlineCheck (s : State) : Host.Outcome State Fault Refusal := .next (deadlineCheck s)

/-! ### Stalled instances (R44) -/

/-- Open slots that hold fewer partials than their CONTRIB and a partial of the instance. -/
def starvedSlots (s : State) (n : Nat) : List Nat :=
  (s.arr.slots.filter fun x => x.2.parts.length < x.2.contrib && x.2.parts.any fun p => p.inst == n).map (·.1)

/-- The array a released array task is on: the one that has begun it, be it remapped since (R454), else the one it will begin on. -/
def arrayOfTask (s : State) (k : Nat) (sl : Slot) : Nat :=
  match s.arr.arrays.find? fun x => match x.2.run with
    | some r => r.slot == k
    | none => false with
  | some x => x.1
  | none => physOf s (aARRAY sl.desc)

/-- A released task does not run at an engine: a home task that waits on its slot, an array task stalled on credits that open
slots hold, or one that waits behind such a task on its array. -/
def taskStuck (s : State) (k : Nat) (sl : Slot) : Bool :=
  dEngine sl.desc == 1 && sl.result.isNone &&
  ((s.arr.slots.any fun x => x.2.parts.any fun p => p.win == k && p.inst == sl.inst && p.index == sl.index)
   || (let a := arrayOfTask s k sl
       match (arrOf s a).run with
       | some r =>
         match look s.disp.window r.slot with
         | some o => !(arrOf s a).out.isEmpty && (arrOf s a).ret.isEmpty && !passReady s a r o.desc
         | none => false
       | none => false))

/-- The instance can admit no further task (R44). -/
def cannotAdmit (s : State) (i : Inst) : Bool :=
  i.hdr.tasks ≤ i.admitted
  || (let held := slotsHeld s (·.num == i.num)
      if i.step.isSome then stepLimit s ≤ held else min (graphCap s) (otherLimit s) ≤ held)

/-- The instance is stalled. An enabled wait on a global counter keeps it from being so, met or not (log 56). -/
def stalled (s : State) (i : Inst) : Bool :=
  let ws := s.disp.window.filter fun w => w.2.inst == i.num
  ws.all (fun w => if w.2.released then taskStuck s w.1 w.2
                   else !w.2.ready && (waitFields w.2.desc).all fun f => !bit 14 f.1)
  && cannotAdmit s i && !(starvedSlots s i.num).isEmpty

/-- The dispatcher finds a stalled instance: its starved slots are mismatches with cause 6, and it fails. -/
def stallDetect (s : State) (n : Nat) : State :=
  match instOf s n with
  | none => s
  | some i =>
    if !stalled s i then s
    else
      let s := (starvedSlots s n).foldl (fun s k => match look s.arr.slots k with
        | some r => mismatch s k r.parts.length r.contrib 6 r.parts
        | none => s) s
      failNow s n stParam 0xFFFFFFFF

def execStallDetect (inst : Nat) (s : State) : Host.Outcome State Fault Refusal := .next (stallDetect s inst)

end Sys2Proof.Machine
end

