-- ==== Sys2Proof/Machine/Requests.lean ====
section
/-! DEFINITION. The request table, page tables, prefix probes, admission, and the REQ_ commands (10, 11, 13). -/

namespace Sys2Proof.Machine

/-! ### Models and placements (R252, R261) -/

/-- Layers of a model, and the KV heads of a layer on this module, from the projection entries (R338). -/
def layersOf (m : Model) : Nat := m.projs.foldl (fun n p => max n (p.1 + 1)) 0
def headsOf (m : Model) (l : Nat) : Nat :=
  match m.projs.find? fun p => p.1 == l && p.2.1 == 1 with
  | some p => max 1 (min 7 (p.2.2.2 / 128))
  | none => 1

/-- The collectives that the tasks of a model's graphs name. -/
def collsOfModel (s : State) (m : Model) : List Nat :=
  dedup (m.graphs.flatMap fun g => match look s.graphs g with
    | some ig =>
      let h := hdrOf (ld s ig.tier ig.addr 64)
      (List.range h.tasks).filterMap fun k =>
        let d := ld s ig.tier (taskAddr ig.addr k) 32
        if dEngine d = 9 then some (num d 16 2) else none
    | none => [])

/-- The members of a model's placement: those of its collectives. -/
def placement (s : State) (m : Model) : List Nat :=
  dedup ((collsOfModel s m).flatMap fun id => match collOf s id with
    | some c => c.memb
    | none => [])
def grouped (s : State) (m : Model) : Bool := !(collsOfModel s m).isEmpty
/-- This module leads the placement: it has the lowest slot. -/
def isLead (s : State) (m : Model) : Bool := (placement s m).all fun c => myCode s ≤ c
/-- The member code of a placement's lead. -/
def leadOf (s : State) (m : Model) : Nat := (placement s m).foldl min (myCode s)

/-! ### The table (R236) -/

def genOf (s : State) (k : Nat) : Nat := (look s.serve.gens k).getD 0
def reqIdOf (k gen : Nat) : Nat := gen * 32768 + k % 32768
def setReq (s : State) (k : Nat) (q : Request) : State := { s with serve := { s.serve with reqs := put s.serve.reqs k q } }
def modReq (s : State) (k : Nat) (f : Request → Request) : State :=
  { s with serve := { s.serve with reqs := modify s.serve.reqs k f } }
def reqAt (s : State) (k : Nat) : Option Request := look s.serve.reqs k

/-- The entry an identifier names: of the table's own, then of those another module leads. -/
def findReq (s : State) (id : Nat) : Option (Nat × Request) :=
  s.serve.reqs.find? fun r => r.1 % 32768 == id % 32768 && r.2.gen == id / 32768

/-- The request a row belongs to, if its entry is still the same. -/
def rowReqOf (s : State) (r : Row) : Option Request :=
  (reqAt s r.req).bind fun q => if q.gen = r.gen then some q else none

/-- What firmware's pending work is: the position prefill goes to, and the state a held request returns to. -/
def Request.target (q : Request) : Nat := if q.regain ≠ 0 then q.regain else q.tokens.length
def Request.resume (q : Request) : Nat :=
  if q.regain = 0 && !q.out.isEmpty && q.tokens.length == q.seqLen + 1 then 3 else 2
def Request.outToks (q : Request) : List W32 := q.out.map (·.1)

/-- A request ends, for the first reason it meets. -/
def endReq (q : Request) (reason : Nat) : Request := if q.ending.isSome then q else { q with ending := some reason }
/-- The state ENDING (Table 10.2). -/
def enterEnding (q : Request) : Request :=
  match q.ending with
  | some r => { q with state := 7, endReason := r }
  | none => q

/-! ### Page tables and pages (R250–R253) -/

def noPage : Nat := 0xFFFFFFFF
def ptSlot (q : Request) (l j : Nat) : Nat := q.ptAddr.getD 0 + (l * q.ptCap + j) * 4
/-- The page-table entry of block `j` in layer `l`. -/
def ptGet (s : State) (q : Request) (l j : Nat) : Nat := if q.ptAddr.isNone then noPage else ldN s 1 (ptSlot q l j) 4
def ptSet (s : State) (q : Request) (l j e : Nat) : State := charge (st s 1 (ptSlot q l j) (toLE 4 e)) 0 0 4
def pageId (e : Nat) : Nat := e % 2 ^ 26
def pageAt (s : State) (id : Nat) : Option Page := look s.serve.pages id

/-- Layers of a request's model. -/
def reqLayers (s : State) (q : Request) : Nat := match look s.models q.model with
  | some m => layersOf m
  | none => 0

/-- Every page a request lists: layer, index, identifier. -/
def reqPages (s : State) (q : Request) : List (Nat × Nat × Nat) :=
  if q.ptAddr.isNone then [] else
  (List.range (reqLayers s q)).flatMap fun l => (List.range q.ptCap).filterMap fun j =>
    let e := ptGet s q l j
    if e = noPage then none else some (l, j, pageId e)

/-- A reference given and taken. -/
def addRef (s : State) (id : Nat) : State :=
  { s with serve := { s.serve with pages := modify s.serve.pages id fun p => { p with refs := p.refs + 1 } } }
def dropRef (s : State) (id : Nat) : State :=
  { s with serve := { s.serve with pages := modify s.serve.pages id fun p => { p with refs := p.refs - 1 } } }

/-- A page's block returned to its pool. -/
def freePage (s : State) (id : Nat) : State :=
  match pageAt s id with
  | some p => { freeBlock s p.space (p.addr / 65536) with serve := { s.serve with pages := del s.serve.pages id } }
  | none => s

/-- The reference of one page-table entry released. -/
def dropEntry (s : State) (q : Request) (x : Nat × Nat × Nat) : State := ptSet (dropRef s x.2.2) q x.1 x.2.1 noPage

/-! ### Pools and reservations (R239) -/

def heldEntries (s : State) (c : Nat) : Nat :=
  (s.serve.reqs.filter fun r => r.1 < 32768 && r.2.ctx == c).length + (s.serve.owed.filter fun r => r.2.ctx == c).length
def heldPages (s : State) (c : Nat) : Nat := (s.serve.pages.filter fun p => p.2.space < 2 && p.2.owner == c).length
def freeEntries (s : State) : Nat := 32768 - entriesUsed s
def freePool (s : State) : Nat := freePages s 0 + freePages s 1

/-- Reserved entries and pages that their contexts do not use. -/
def unusedEntries (s : State) : Nat := sumOf (s.kct.ctxs.map fun c => c.2.reqReserve - heldEntries s c.1)
def unusedPages (s : State) : Nat := sumOf (s.kct.ctxs.map fun c => c.2.pageReserve - heldPages s c.1)
/-- Every page of the commons and the near tier that could hold a KV page, and the reservations of all contexts. -/
def poolPages (s : State) : Nat :=
  sumOf ([0, 1].map fun sp => (capOf s sp - (reservedOf s sp).2) / 65536 - withdrawnIn s sp) - 384
def reservedEntries (s : State) : Nat := sumOf (s.kct.ctxs.map fun c => c.2.reqReserve)
def reservedPages (s : State) : Nat := sumOf (s.kct.ctxs.map fun c => c.2.pageReserve)

/-- A GUARANTEED request lies within its context's reservation. -/
def withinReserve (s : State) (c cls need : Nat) : Bool :=
  cls == 0 && (match ctxOf s c with
    | some x => heldEntries s c < x.reqReserve && heldPages s c + need ≤ x.pageReserve
    | none => false)

/-- Entries and pages the class may use now (R239). -/
def mayEntries (s : State) (cls : Nat) : Nat := if cls = 2 then freeEntries s else freeEntries s - unusedEntries s
def mayPages (s : State) (cls : Nat) : Nat := if cls = 2 then freePool s else freePool s - unusedPages s
/-- A request fits (R240). -/
def fits (s : State) (cls need : Nat) : Bool := 1 ≤ mayEntries s cls && need ≤ mayPages s cls

/-- It could not fit even on an empty module. -/
def neverFits (s : State) (c cls need : Nat) : Bool :=
  let own := match ctxOf s c with
    | some x => if cls = 0 then x.pageReserve else 0
    | none => 0
  let all := poolPages s
  max own (if cls = 2 then all else all - reservedPages s) < need || (cls != 2 && own == 0 && 32768 ≤ reservedEntries s)

/-- Pages the prompt needs beyond `r` reused blocks (R240). -/
def pagesNeeded (layers prompt r : Nat) : Nat := layers * ((prompt - 32 * r) / 32 + 1)

/-- SCAVENGER requests that a condition picks, the most recently admitted first (R241). -/
def victims (s : State) (p : Request → Bool) : List Nat :=
  ((sortBy (fun r => r.2.order) (s.serve.reqs.filter fun r =>
    r.1 < 32768 && r.2.cls == 2 && r.2.state != 1 && r.2.ending.isNone && p r.2)).reverse).map (·.1)

/-! ### The prefix table in memory (R279, R291) -/

/-- Where the prefix table stands, and the token records: in the far tier, on a KX11-B in the near tier's region, and with the far tier
withdrawn in blocks of the near tier, if there were enough (R308, log 8). -/
def pfxBase (s : State) : Nat := shadowBase s + 3072 * mib
def tokBase (s : State) : Option (Nat × Nat) :=
  if capOf s 2 ≠ 0 then some (2, capOf s 2 - 512 * mib)
  else if s.fuses.variantB then some (1, shadowBase s + 4576 * mib)
  else s.graft.tokRun.map fun b => (1, b * 65536)

/-- The 64 bytes of an entry (Table 11.5). -/
def pfxBytes (e : PfxEntry) : Bytes :=
  toLE 8 e.hash ++ toLE 8 e.prev ++ toLE 4 e.modelId ++ toLE 4 e.graftId ++ toLE 2 e.owner ++ zeros 2 ++ toLE 4 e.users
  ++ toLE 8 e.lastUse ++ toLE 8 e.pagesAddr ++ toLE 8 e.tokAddr ++ zeros 8

/-- A way of the table written as the entry it holds, or empty. -/
def pfxSync (s : State) (key : Nat) : State :=
  if stackCount s = 0 then s
  else
    let b := match look s.graft.pfx key with
      | some e => pfxBytes e
      | none => zeros 64
    charge (st s 1 (pfxBase s + 64 * key) b) 0 0 64

/-- An entry changed. -/
def modPfx (s : State) (key : Nat) (f : PfxEntry → PfxEntry) : State :=
  pfxSync { s with graft := { s.graft with pfx := modify s.graft.pfx key f } } key

/-- The memory an entry's page list takes. -/
def listRange (e : PfxEntry) : Nat × Nat := (e.pagesAddr, round64 (4 * e.pages.length))

/-- A place for a page list of `n` bytes: in the blocks that hold such lists, else in new ones of context 0 (log 8). -/
def listPlace (s : State) (n : Nat) : Option (Nat × State) :=
  let m := round64 n
  let used := s.graft.pfx.map fun e => listRange e.2
  let free := fun (b a : Nat) => decide (b * 65536 ≤ a ∧ a + m ≤ (b + 1) * 65536) && used.all fun u => !overlap a m u.1 u.2
  match s.graft.lists.findSome? fun b => (b * 65536 :: used.map fun u => u.1 + u.2).find? (free b) with
  | some a => some (a, s)
  | none => (takeRun s 1 (ceilDiv m 65536)).map fun x =>
      (x.1 * 65536, { x.2 with graft := { x.2.graft with
        lists := x.2.graft.lists ++ (List.range (ceilDiv m 65536)).map (· + x.1) } })

/-- The blocks in which no page list is left, returned. -/
def trimLists (s : State) : State :=
  let inUse := fun (b : Nat) => s.graft.pfx.any fun e => overlap (b * 65536) 65536 (listRange e.2).1 (listRange e.2).2
  let gone := s.graft.lists.filter fun b => !inUse b
  gone.foldl (fun s b => freeBlock s 1 b) { s with graft := { s.graft with lists := s.graft.lists.filter inUse } }

/-! ### Prefix entries (R279–R282) -/

/-- The table key of a bucket's way. -/
def pfxKey (hash way : Nat) : Nat := hash % 2 ^ 20 * 4 + way
def pfxWays (hash : Nat) : List Nat := (List.range 4).map (pfxKey hash)

/-- The 128 bytes of a block's token ids. -/
def tokBytes (ts : List W32) : Bytes := ts.flatMap fun t => toLE 4 t.toNat
def blockToks (ts : List W32) (k : Nat) : List W32 := (ts.drop (32 * k)).take 32

/-- The hashes of the first `n` blocks of a sequence, as one chain (R172). -/
def chainHashes (model graft : Nat) (ts : List W32) (n : Nat) : List Nat :=
  ((List.range n).foldl (fun (acc : Nat × List Nat) k =>
    let h := blockHash acc.1 model graft (tokBytes (blockToks ts k))
    (h, h :: acc.2)) (0, [])).2.reverse

/-- The way of a bucket that matches a block, and the collisions met (R280). -/
def pfxMatch (s : State) (model graft ctx prev hash : Nat) (toks : List W32) : Option Nat × Nat :=
  let same := (pfxWays hash).filter fun k => match look s.graft.pfx k with
    | some e => e.hash == hash
    | none => false
  let good := fun (k : Nat) => match look s.graft.pfx k with
    | some e => e.prev == prev && e.modelId == model && e.graftId == graft && (!s.serve.pfxScope || e.owner == ctx)
                && e.tokens == toks
    | none => false
  (same.find? good, (same.filter fun k => !good k).length)

/-- A probe: the keys of the leading blocks that match, the collisions, and whether it stopped short (R281). -/
def probeRun (s : State) (model graft ctx : Nat) (ts : List W32) : List (Nat × Nat) → Nat → List Nat × Nat × Bool
  | [], _ => ([], 0, false)
  | (k, h) :: hs, prev =>
    match pfxMatch s model graft ctx prev h (blockToks ts k) with
    | (some w, c) =>
      let r := probeRun s model graft ctx ts hs h
      (w :: r.1, c + r.2.1, r.2.2)
    | (none, c) => ([], c, true)

/-- The keys a request would reuse, with nothing counted. -/
def probeKeys (s : State) (m : Model) (graft ctx : Nat) (ts : List W32) : List Nat × Nat × Bool :=
  if !s.serve.pfxEn then ([], 0, false)
  else
    let b := (ts.length - 1) / 32
    probeRun s m.modelId graft ctx ts ((List.range b).zip (chainHashes m.modelId graft ts b)) 0

/-- A probe made, with its counts and the time of use of what it hit. -/
def probe (s : State) (m : Model) (graft ctx : Nat) (ts : List W32) : List Nat × State :=
  let r := probeKeys s m graft ctx ts
  let s := bump s rPFX_STAT 31 16 r.2.1
  let s := if r.2.2 then bump64 s (rPFX_PERF + 8) 1 else s
  (r.1, r.1.foldl (fun s k => modPfx s k fun e => { e with lastUse := stepCount s }) s)

/-! ### REQ_ADMIT (R238, R240, R333, R334) -/

def graftIdOf (g : Graft) (idx : Nat) : Nat := b2n g.delta * 2 ^ 31 + g.gen * 65536 + idx
/-- The registered graft an identifier names (R267). -/
def findGraft (s : State) (id : Nat) : Option (Nat × Graft) :=
  match look s.graft.reg (id % 65536) with
  | some g => if graftIdOf g (id % 65536) = id then some (id % 65536, g) else none
  | none => none

/-- What naming a graft ends in, if anything (R238, R268, R277, R331). -/
def graftFault (s : State) (ctx model id : Nat) : Option Nat :=
  if id = 0 then none
  else if s.fuses.variantB && bit 31 id then some stUnit
  else match findGraft s id with
    | none => some stNoObj
    | some (_, g) => if g.unreg || g.model != model || (ctx != 0 && g.ctx != ctx) then some stNoObj else none

/-- The token ids of a payload from an offset. -/
def tokensAt (pl : Bytes) (o n : Nat) : List W32 := (words32 pl o n).map (BitVec.ofNat 32)

/-- The entry a REQ_ADMIT payload asks for. -/
def newRequest (s : State) (r : Req) (gen ctx cls : Nat) (grp : Bool) (id : Nat) : Request :=
  let pl := r.pkt.payload
  let f := num pl 1 1
  let p := num pl 28 4
  let mx := num pl 24 4
  { gen := gen, state := 2, model := num pl 0 1, ctx := ctx, cls := cls, dlPrune := bit 0 f, saltSet := bit 1 f,
    group := grp, logprob := bit 3 f, fullFinal := bit 2 f, endReason := 0, graft := num pl 4 4,
    hostTag := r.pkt.hdr.hostTag, seed := BitVec.ofNat 64 (num pl 8 8),
    salt := BitVec.ofNat 32 (if bit 1 f then num pl 16 4 else id), stop := BitVec.ofNat 32 (num pl 20 4), maxTokens := mx,
    promptLen := p, seqLen := 0, tent := 0, drafts := [],
    graceMs := if num pl 2 2 = 0xFFFF then fld s rSERVE_CTL 15 0 else num pl 2 2, firstDl := num pl 32 8, completeDl := num pl 40 8,
    cadence := num pl 48 4, queuePos := 0, firstTime := 0, stallSince := 0, lastHash := 0, ptAddr := none,
    ptCap := ceilDiv (p + mx + 16) 32, stepLast := 0, topP := BitVec.ofNat 32 (num pl 56 4),
    temp := BitVec.ofNat 32 (num pl 52 4), topK := num pl 60 2, lastStatus := 0, admission := r, tokens := tokensAt pl 64 p,
    out := [], gate := [], sampled := [], spec := [], accept := none, appended := [], ending := none, finalLate := false,
    admitting := true, order := 0, fails := 0, regain := 0, missedTok := 0, missedEnd := false, blocks := 0, pfx := [] }

/-- The checks of R238 and R333 on a payload. -/
def admitFault (s : State) (r : Req) : Option Nat :=
  let pl := r.pkt.payload
  let p := num pl 28 4
  if pl.length ≠ 64 + 4 * p then some stLength
  else if 16 ≤ num pl 0 1 ∨ 16 ≤ num pl 1 1 ∨ num pl 62 2 ≠ 0 ∨ p = 0 then some stParam
  else if (match look s.models (num pl 0 1) with
      | some m => decide (m.ctxLimit < p + num pl 24 4)
      | none => false) then some stParam
  else if badParam { seed := 0, salt := 0, pos := 0, temp := num pl 52 4, topK := num pl 60 2, draw := 0, topP := num pl 56 4 } then
    some stParam
  else match look s.models (num pl 0 1) with
    | none => some stNoObj
    | some m =>
      if m.removing || m.lost then some stNoObj
      else match graftFault s r.pkt.hdr.ctx (num pl 0 1) (num pl 4 4) with
        | some st => some st
        | none => if !isLead s m then some stParam else none

/-- The lowest table entry that is free (log 20). -/
def freeEntry (s : State) : Nat := firstGap 0 s.serve.reqs

/-- A refusal (R334). -/
def admitRefuse (s : State) (r : Req) (st detail reuse : Nat) : State :=
  replyTo s r st detail (toLE 4 noPage ++ zeros 8 ++ toLE 4 reuse)

/-- An entry made and answered: admitted at the next boundary, or queued. -/
def admitEntry (s : State) (r : Req) (ctx cls reuse : Nat) (m : Model) (defer : Bool) : State :=
  let k := freeEntry s
  let id := reqIdOf k (genOf s k)
  let q := newRequest s r (genOf s k) ctx cls (grouped s m) id
  let q := { q with order := s.serve.nextOrder, lastStatus := if defer then stDeferred else stOK }
  let s := { s with serve := { s.serve with nextOrder := s.serve.nextOrder + 1 } }
  if defer then
    let pos := s.serve.queue.length + 1
    let s := setReq s k { q with state := 1, admitting := false, queuePos := pos }
    let s := { s with fresh := s.fresh + 1, serve := { s.serve with queue := s.serve.queue ++ [k] } }
    replyTo s r stDeferred 0 (toLE 4 id ++ toLE 4 pos ++ toLE 4 (Config.waitMs (s.fresh - 1)) ++ toLE 4 reuse)
  else replyTo (setReq s k q) r stOK 0 (toLE 4 id ++ zeros 8 ++ toLE 4 reuse)

/-- The entry a GUARANTEED request within its reservation gets of a full table: one whose request is ending, else that of a SCAVENGER
request, which is preempted (R240, R241, log 20). -/
def yieldedEntry (s : State) : Option Nat :=
  let spare := fun (k : Nat) => (look s.serve.owed k).isNone
  match s.serve.reqs.find? fun r => r.1 < 32768 && r.2.ending.isSome && spare r.1 with
  | some r => some r.1
  | none => (victims s fun _ => true).find? spare

/-- A request admitted to an entry that is about to be freed: it takes it, with its next generation, when it is. -/
def admitOwed (s : State) (r : Req) (ctx cls reuse : Nat) (m : Model) (k : Nat) : State :=
  let gen := (genOf s k + 1) % 2 ^ 17
  let id := reqIdOf k gen
  let q := { newRequest s r gen ctx cls (grouped s m) id with order := s.serve.nextOrder, lastStatus := stOK }
  let s := modReq s k fun q => endReq q 3
  let s := { s with serve := { s.serve with nextOrder := s.serve.nextOrder + 1, owed := put s.serve.owed k q } }
  replyTo s r stOK 0 (toLE 4 id ++ zeros 8 ++ toLE 4 reuse)

/-- The outcomes of Table 10.4, in order. -/
def reqAdmit (s : State) (r : Req) : State :=
  let pl := r.pkt.payload
  let c := r.pkt.hdr.ctx
  if moduleFailed s then fail s r stRetired   -- R308, R461 (log 17)
  else if s.power.bindOff.isSome then admitRefuse s r stCapacity 0 0   -- R420
  else match admitFault s r, look s.models (num pl 0 1), ctxOf s c with
    | some st, _, _ => fail s r st
    | none, some m, some x =>
      let p := num pl 28 4
      let t := probe s m (num pl 4 4) c (tokensAt pl 64 p)
      let s := t.2
      let reuse := t.1.length
      let need := pagesNeeded (layersOf m) p reuse
      let cls := x.cls
      if x.reqQuota ≤ heldEntries s c then admitRefuse s r stCapacity 1 reuse
      else if neverFits s c cls need then admitRefuse s r stCapacity 2 reuse
      else if 32768 ≤ entriesUsed s then
        (if withinReserve s c cls need then match yieldedEntry s with
           | some k => admitOwed s r c cls reuse m k
           | none => admitRefuse s r stCapacity 0 reuse
         else if cls = 2 then admitRefuse s r stClass 0 reuse else admitRefuse s r stCapacity 0 reuse)
      else if withinReserve s c cls need || fits s cls need then admitEntry s r c cls reuse m false
      else if cls ≠ 2 && 1 ≤ mayEntries s cls && s.serve.queue.length < fld s rSERVE_CTL 31 16 then
        admitEntry s r c cls reuse m true
      else if cls = 2 then admitRefuse s r stClass 0 reuse
      else admitRefuse s r stCapacity 0 reuse
    | none, _, _ => fail s r stNoObj

def execReqAdmit (p : Pkt) (s : State) : Host.Outcome State Fault Refusal := .next (receive s opADMIT p reqAdmit)

/-! ### The other request commands (R254, R255, R335) -/

/-- The request a command names, or the status it ends in (R236, R261, R331). -/
def namedReq (s : State) (r : Req) : Except Nat (Nat × Request) :=
  match findReq s (num r.pkt.payload 0 4) with
  | none => .error stNoObj
  | some (k, q) =>
    if 32768 ≤ k then .error stParam
    else if r.pkt.hdr.ctx ≠ 0 ∧ q.ctx ≠ r.pkt.hdr.ctx then .error stNoObj
    else .ok (k, q)

/-- REQ_APPEND with DRAFT = 0: applied at the next boundary. -/
def reqAppend (s : State) (r : Req) : State :=
  let pl := r.pkt.payload
  let n := num pl 8 4
  if 2 ≤ num pl 4 1 ∨ !allZero pl 5 3 then fail s r stParam
  else match namedReq s r with
    | .error st => fail s r st
    | .ok (k, q) =>
      if n = 0 ∨ (q.state ≠ 2 ∧ q.state ≠ 3) ∨ q.ptCap * 32 < q.tokens.length + q.appended.length + n then fail s r stParam
      else fail (modReq s k fun q => { q with appended := q.appended ++ tokensAt pl 12 n }) r stOK

def execReqAppend (p : Pkt) (s : State) : Host.Outcome State Fault Refusal :=
  .next (receive s opAPPEND (withByte p 4 (num p.payload 4 1 / 2 * 2)) reqAppend)

/-- REQ_APPEND with DRAFT = 1: the drafts wait for the next step (R255). -/
def reqAppendDraft (s : State) (r : Req) : State :=
  let pl := r.pkt.payload
  let n := num pl 8 4
  if 2 ≤ num pl 4 1 ∨ !allZero pl 5 3 then fail s r stParam
  else match namedReq s r with
    | .error st => fail s r st
    | .ok (k, q) =>
      if n = 0 ∨ 15 < n + q.drafts.length ∨ q.state ≠ 3 ∨ q.ptCap * 32 < q.seqLen + 1 + q.drafts.length + n then fail s r stParam
      else fail (modReq s k fun q => { q with drafts := q.drafts ++ tokensAt pl 12 n }) r stOK

def execReqAppendDraft (p : Pkt) (s : State) : Host.Outcome State Fault Refusal :=
  .next (receive s opAPPEND (withByte p 4 (num p.payload 4 1 / 2 * 2 + 1)) reqAppendDraft)

/-- REQ_PRUNE: pending until the next gate or boundary (R254). -/
def reqPrune (s : State) (r : Req) : State :=
  match namedReq s r with
  | .error st => fail s r st
  | .ok (k, _) => fail (modReq s k fun q => endReq q 2) r stOK

def execReqPrune (p : Pkt) (s : State) : Host.Outcome State Fault Refusal := .next (receive s opPRUNE p reqPrune)

/-- REQ_ACCEPT: pending until item 9 of the next boundary (R255). -/
def reqAccept (s : State) (r : Req) : State :=
  match namedReq s r with
  | .error st => fail s r st
  | .ok (k, q) =>
    let a := num r.pkt.payload 4 4
    if q.state ≠ 4 ∨ q.sampled.length ≤ a then fail s r stParam
    else fail (modReq s k fun q => { q with accept := some a }) r stOK

def execReqAccept (p : Pkt) (s : State) : Host.Outcome State Fault Refusal := .next (receive s opACCEPT p reqAccept)

/-- The 128 bytes of an entry (Table 10.1). -/
def requestBytes (s : State) (k : Nat) (q : Request) : Bytes :=
  toLE 4 (reqIdOf k q.gen) ++ toLE 2 (q.model * 4096 + q.ctx)
  ++ toLE 1 (q.state * 32 + q.cls * 8 + b2n q.dlPrune * 4 + b2n q.saltSet * 2 + b2n q.group) ++ toLE 1 q.endReason
  ++ toLE 4 q.graft ++ toLE 4 q.hostTag.toNat ++ toLE 8 q.seed.toNat ++ toLE 4 q.salt.toNat ++ toLE 4 q.stop.toNat
  ++ toLE 4 q.maxTokens ++ toLE 4 q.out.length ++ toLE 4 q.promptLen ++ toLE 4 q.seqLen ++ toLE 1 q.tent
  ++ toLE 1 q.drafts.length ++ toLE 2 q.graceMs ++ toLE 4 (reqPages s q).length ++ toLE 8 q.firstDl ++ toLE 8 q.completeDl
  ++ toLE 4 q.cadence ++ toLE 4 q.queuePos ++ toLE 8 q.firstTime ++ toLE 8 (if q.state = 5 then q.stallSince else 0) ++ toLE 8 q.lastHash
  ++ toLE 8 (q.ptAddr.getD 0) ++ toLE 4 q.stepLast ++ toLE 4 q.topP.toNat ++ toLE 4 q.temp.toNat ++ toLE 2 q.topK
  ++ toLE 1 q.lastStatus ++ [0]

def reqQuery (s : State) (r : Req) : State :=
  let pl := r.pkt.payload
  let a := num pl 4 4
  let n := num pl 8 4
  match namedReq s r with
  | .error st => fail s r st
  | .ok (k, q) =>
    if 2000 < n ∨ (n ≠ 0 ∧ q.seqLen < a + n) then fail s r stParam
    else replyTo s r (if q.state = 5 then stStall else stOK) 0 (requestBytes s k q ++ tokBytes ((q.tokens.drop a).take n))

def execReqQuery (p : Pkt) (s : State) : Host.Outcome State Fault Refusal := .next (receive s opQUERY p reqQuery)

end Sys2Proof.Machine
end

