-- ==== Sys2Proof/Machine/Pages.lean ====
section
/-! DEFINITION. KV pages of serving requests: allocation and its sources, headers, moves between tiers, loss, the prefix table and
the end of a request (10, 11, R451, R452). -/

namespace Sys2Proof.Machine

/-! ### Headers (R182, R185, R251) -/

def pageFirst (s : State) (p : Page) : Nat := ldN s p.space (p.addr + 8) 4
def pageCommit (s : State) (p : Page) : Nat := ldN s p.space (p.addr + 16) 1
def setCommit (s : State) (id v : Nat) : State :=
  match pageAt s id with
  | some p => st s p.space (p.addr + 16) (toLE 1 v)
  | none => s

/-- A generator key that no page allocated since cast-on has had: a free one, or where that one is taken the lowest that is not (R185,
log 1). -/
def newKey (s : State) : Nat :=
  let c := Config.free s.fresh % 2 ^ 64
  if s.serve.keys.contains c then ((List.range (s.serve.keys.length + 1)).find? fun k => !s.serve.keys.contains k).getD 0 else c

/-- The header of a new page: its key, its position, layer and heads, every TAG 2. -/
def newHeader (key first layer heads : Nat) : Bytes :=
  toLE 8 key ++ toLE 4 first ++ toLE 2 layer ++ toLE 1 heads ++ zeros 49
  ++ (List.range 14).flatMap (fun _ => toLE 4 0x20000) ++ zeros 392

/-- Pages a row appends to, by layer and index, that the request does not hold yet. -/
def pagesWanted (s : State) (q : Request) (first count : Nat) : List (Nat × Nat) :=
  if count = 0 then [] else
  (List.range (reqLayers s q)).flatMap fun l =>
    (List.range ((first + count - 1) / 32 - first / 32 + 1)).filterMap fun i =>
      if ptGet s q l (first / 32 + i) = noPage then some (l, first / 32 + i) else none

/-- A page in a free block: the commons first, then the near tier (R251). -/
def takePage (s : State) (k : Nat) (q : Request) (l j : Nat) : Option State :=
  let sp := if (findRun s q.ctx 0 1).isSome then 0 else 1
  (findRun s q.ctx sp 1).map fun b =>
    let heads := match look s.models q.model with
      | some m => headsOf m l
      | none => 1
    let s := grantBlock { s with fresh := s.fresh + 1 } q.ctx sp b
    let key := newKey s
    let s := st { s with serve := { s.serve with keys := key :: s.serve.keys } } sp (b * 65536) (newHeader key (32 * j) l heads)
    let id := firstGap 0 s.serve.pages
    let s := { s with fresh := s.fresh + 1, serve := { s.serve with
      pages := put s.serve.pages id { space := sp, addr := b * 65536, owner := q.ctx, refs := 1, spill := false } } }
    match reqAt s k with
    | some q => ptSet s q l j id
    | none => s

/-- A page would lie within its context's reservation. -/
def ownPage (s : State) (q : Request) : Bool :=
  q.cls == 0 && (match ctxOf s q.ctx with
    | some x => decide (heldPages s q.ctx < x.pageReserve)
    | none => false)

/-- The class may take a free page (R239). -/
def pageAllowed (s : State) (q : Request) : Bool := if ownPage s q then 1 ≤ freePool s else 1 ≤ mayPages s q.cls

/-! ### Prefix entries (R284, R285) -/

/-- Pages whose count has reached 0 return to the pools (item 14). -/
def freeIdle (s : State) : State :=
  (s.serve.pages.filter fun p => p.2.refs == 0).foldl (fun s p => freePage s p.1) s

/-- An entry removed, its references released. -/
def dropPfx (s : State) (key : Nat) : State :=
  match look s.graft.pfx key with
  | none => s
  | some e =>
    let s := { s with graft := { s.graft with pfx := del s.graft.pfx key },
                      serve := { s.serve with reqs := s.serve.reqs.map fun r => (r.1, { r.2 with pfx := r.2.pfx.filter (· != key) }) } }
    trimLists (pfxSync (e.pages.foldl dropRef s) key)

/-- Every entry a condition picks, removed. -/
def purgePfx (s : State) (p : PfxEntry → Bool) : State :=
  (s.graft.pfx.filter fun e => p e.2).foldl (fun s e => dropPfx s e.1) s

/-- The least recently used entry of a list that no request holds. -/
def oldestUnused (l : List (Nat × PfxEntry)) : Option Nat :=
  ((sortBy (fun e => e.2.lastUse) (l.filter fun e => e.2.users == 0)).head?).map (·.1)

/-- The way a new entry of a bucket takes: an empty one, else the oldest unused. -/
def pfxSlot (s : State) (hash : Nat) : Option Nat :=
  match (pfxWays hash).find? fun k => (look s.graft.pfx k).isNone with
  | some k => some k
  | none => oldestUnused (s.graft.pfx.filter fun e => (pfxWays hash).contains e.1)

/-- A new entry: its page list and token record written, the entry, and a reference on each page. Without room for them there is none
(log 8). -/
def enterPfx (s : State) (key : Nat) (e : PfxEntry) : Option State :=
  match tokBase s, listPlace s (4 * e.pages.length) with
  | some t, some x =>
    let toks := tokBytes e.tokens
    let s := charge (st x.2 1 x.1 (e.pages.flatMap (toLE 4))) 0 0 (4 * e.pages.length)
    let s := charge (st s t.1 (t.2 + 128 * key) toks) (resOf t.1) 0 toks.length
    let e := { e with pagesAddr := x.1, tokAddr := t.2 + 128 * key }
    some (pfxSync (e.pages.foldl addRef { s with graft := { s.graft with pfx := put s.graft.pfx key e } }) key)
  | _, _ => none

/-- One complete block of a request registered (R284). -/
def registerBlock (s : State) (k : Nat) : State :=
  match reqAt s k with
  | none => s
  | some q =>
    match look s.models q.model with
    | none => s
    | some m =>
      let b := q.blocks
      let toks := blockToks q.tokens b
      let h := blockHash q.lastHash m.modelId q.graft (tokBytes toks)
      let hit := pfxMatch s m.modelId q.graft q.ctx q.lastHash h toks
      let s := bump s rPFX_STAT 31 16 hit.2
      let hold := fun (s : State) (key : Option Nat) =>
        modReq s k fun q => { q with lastHash := h, blocks := b + 1, pfx := q.pfx ++ key.toList }
      match hit.1 with
      | some key => hold (modPfx s key fun e => { e with users := e.users + 1, lastUse := stepCount s }) (some key)
      | none =>
        match pfxSlot s h with
        | none => hold (bump s rPFX_STAT 15 0 1) none
        | some key =>
          let s := if (look s.graft.pfx key).isSome then bump64 (dropPfx s key) (rPFX_PERF + 16) 1 else s
          let pages := (List.range (layersOf m)).map fun l => pageId (ptGet s q l b)
          let e : PfxEntry := { hash := h, prev := q.lastHash, modelId := m.modelId, graftId := q.graft, owner := q.ctx, users := 1,
                                lastUse := stepCount s, pages := pages, tokens := toks }
          match enterPfx s key e with
          | some t => hold t (some key)
          | none => hold (bump s rPFX_STAT 15 0 1) none

/-- Blocks of every request that have become complete and committed (item 10), the lower table index first. -/
def registerAll (s : State) : State :=
  if !s.serve.pfxEn then s else
  s.serve.reqs.foldl (fun s r =>
    if r.2.ending.isSome || r.2.state == 1 || r.2.admitting then s
    else (List.range (r.2.seqLen / 32 - r.2.blocks)).foldl (fun s _ => registerBlock s r.1) s) s

/-- A request's hold on its prefix entries released. -/
def unholdPfx (s : State) (keys : List Nat) : State :=
  keys.foldl (fun s k => modPfx s k fun e => { e with users := e.users - 1 }) s

/-! ### The end of a request (R237, R336, item 13) -/

/-- The final status of Table 10.3. -/
def finalCode (q : Request) (reason : Nat) : Nat :=
  if reason ≤ 1 then (if q.finalLate then stLate else stOK)
  else if reason ≤ 4 then stPruned
  else if reason = 6 then stPages
  else if reason = 7 then stParam
  else stFault

/-- A STREAM payload (Table 13.8). -/
def streamPayload (id index : Nat) (final lp : Bool) (ts : List (W32 × W32)) : Bytes :=
  toLE 4 id ++ toLE 4 index ++ toLE 4 ts.length ++ toLE 1 (b2n final + 2 * b2n lp) ++ zeros 3
  ++ ts.flatMap (fun t => toLE 4 t.1.toNat) ++ (if lp then ts.flatMap (fun t => toLE 4 t.2.toNat) else [])

/-- The header of a STREAM packet of a request. -/
def streamHdr (s : State) (q : Request) (status detail plen : Nat) : Hdr :=
  let credit := match ctxOf s q.ctx with
    | some c => 256 - c.started.length
    | none => 0
  { answerHdr q.admission.pkt status detail credit plen with stream := true }

/-- The final packet, as a segmented transfer. -/
def sendFinal (s : State) (k : Nat) (q : Request) (reason : Nat) : State :=
  if reason = 5 ∨ 32768 ≤ k then s
  else
    let own := if reason ≤ 1 then q.gate else []
    let ts := if q.fullFinal then q.out else own
    let pl := streamPayload (reqIdOf k q.gen) (q.out.length - ts.length) true q.logprob ts
    let code := finalCode q reason
    let s := bump64 s rSERVE_PERF own.length
    beginXfer s q.admission.via q.admission.pkt.src (streamHdr s q code reason pl.length) pl

/-- Blocks a page table takes. -/
def ptBlocks (s : State) (q : Request) : Nat := ceilDiv (max 1 (reqLayers s q * q.ptCap * 4)) 65536

/-- Blocks a copy of a request's token log takes: 4 bytes for every position its page table has room for (R291). -/
def logBlocks (q : Request) : Nat := ceilDiv (max 1 (q.ptCap * 128)) 65536

/-- The tokens a request has beyond its log written to the log's copies. -/
def writeLog (s : State) (k : Nat) : State :=
  match reqAt s k with
  | none => s
  | some q =>
    let new := tokBytes ((q.tokens.take (q.ptCap * 32)).drop q.logged)
    let copy := fun (s : State) (sp : Nat) (b : Option Nat) => match b with
      | some b => charge (st s sp (b * 65536 + 4 * q.logged) new) (resOf sp) 0 new.length
      | none => s
    if q.logNear.isNone || new.isEmpty then s
    else modReq (copy (copy s 1 q.logNear) 2 q.logFar) k fun q => { q with logged := q.tokens.length }

/-- Blocks of the near tier taken for the prefix token records of a KX11-A whose far tier is withdrawn (R308, log 8). -/
def tokRegion (s : State) : State :=
  if capOf s 2 ≠ 0 || s.fuses.variantB || s.graft.tokRun.isSome then s
  else match takeRun s 1 8192 with
    | some x => { x.2 with graft := { x.2.graft with tokRun := some x.1 } }
    | none => s

/-- The copy of a request's log in a space given up. -/
def dropLog (s : State) (q : Request) (sp : Nat) (b : Option Nat) : State := match b with
  | some b => freeRunOf s sp b (logBlocks q)
  | none => s

/-- A request leaves the table: its references, its hold on prefix entries, its page table and its token log released, its entry freed, or
taken by the request that was admitted to it. -/
def freeReq (s : State) (k : Nat) (q : Request) : State :=
  let s := (reqPages s q).foldl (fun s x => dropRef s x.2.2) s
  let s := unholdPfx s q.pfx
  let s := match q.ptAddr with
    | some a => freeRunOf s 1 (a / 65536) (ptBlocks s q)
    | none => s
  let s := dropLog (dropLog s q 1 q.logNear) q 2 q.logFar
  let s := { s with serve := { s.serve with
    reqs := del s.serve.reqs k, gens := put s.serve.gens k ((q.gen + 1) % 2 ^ 17), queue := s.serve.queue.filter (· != k) } }
  match look s.serve.owed k with
  | some q => setReq { s with serve := { s.serve with owed := del s.serve.owed k } } k q
  | none => s

/-- One request that has ended. -/
def finishReq (s : State) (k : Nat) (q : Request) : State :=
  match q.ending with
  | none => s
  | some reason =>
    let s := if reason = 6 then bump s rSERVE_EVT 15 8 1 else if reason = 3 then bump s rSERVE_EVT 7 0 1 else s
    freeReq (sendFinal s k q reason) k q

/-- Item 13: every request in ENDING. -/
def finishAll (s : State) : State := s.serve.reqs.foldl (fun s r => finishReq s r.1 r.2) s

/-- A victim of preemption, handled as in items 13 and 14 (R241). -/
def preempt (s : State) (k : Nat) : State :=
  match reqAt s k with
  | some q => freeIdle (finishReq s k (enterEnding (endReq q 3)))
  | none => s

/-- The request lists a page of the commons or the near tier. -/
def holdsPages (s : State) (q : Request) : Bool :=
  (reqPages s q).any fun x => match pageAt s x.2.2 with
    | some p => decide (p.space < 2)
    | none => false

/-- Victims that hold pages ended until a condition holds; nothing is ended where it would not come to hold. -/
def preemptUntil (s : State) (p : State → Bool) : Option State :=
  (victims s (holdsPages s)).foldl (fun (acc : State × Option State) k =>
    match acc.2 with
    | some _ => acc
    | none =>
      let t := preempt acc.1 k
      (t, if p t then some t else none)) (s, if p s then some s else none) |>.2

/-! ### Sources of a page (R256) -/

/-- Whole prefix entries reclaimed, least recently used first, until a page is free. -/
def reclaim (s : State) (q : Request) : Nat → State
  | 0 => s
  | n + 1 =>
    if pageAllowed s q then s
    else match oldestUnused s.graft.pfx with
      | none => s
      | some key => reclaim (freeIdle (bump64 (dropPfx s key) (rPFX_PERF + 16) 1)) q n

/-- One page from sources 1 and 2, or for a GUARANTEED request within its reservation by preemption (R241). -/
def getPage (s : State) (k : Nat) (l j : Nat) : State × Bool :=
  match reqAt s k with
  | none => (s, false)
  | some q =>
    let s := reclaim s q (s.graft.pfx.length + 1)
    let s := if pageAllowed s q || !ownPage s q then s else (preemptUntil s fun t => pageAllowed t q).getD s
    if !pageAllowed s q then (s, false)
    else match takePage s k q l j with
      | some t => (t, true)
      | none => (s, false)

/-- Every page of a list; the flag says whether all were found. -/
def getPages (s : State) (k : Nat) : List (Nat × Nat) → State × Bool
  | [] => (s, true)
  | (l, j) :: rest =>
    match getPage s k l j with
    | (s, true) => getPages s k rest
    | (s, false) => (s, false)

/-! ### Spilling and promotion (R251, R256) -/

/-- Steps since one carried the request, modulo 2^32 (R264). -/
def idleSteps (s : State) (q : Request) : Nat := (stepCount s % 2 ^ 32 + 2 ^ 32 - q.stepLast) % 2 ^ 32

/-- Near-tier pages of requests of a class or lower that a condition picks, with the request, in the order of spilling. No other request
lists such a page; prefix entries may. -/
def coldPages (s : State) (cls : Nat) (ok : Nat → Request → Bool) : List (Nat × Nat) :=
  let may := fun (r : Nat × Request) => cls ≤ r.2.cls && ok r.1 r.2
  let rs := sortBy (fun r => (3 - r.2.cls) * 2 ^ 33 + (2 ^ 32 - idleSteps s r.2)) (s.serve.reqs.filter fun r => may r && r.2.ending.isNone)
  let kept := (s.serve.reqs.filter fun r => !may r).flatMap fun r => (reqPages s r.2).map (·.2.2)
  let all := rs.flatMap fun r => (sortBy (fun x => x.2.1) (reqPages s r.2)).filterMap fun x => match pageAt s x.2.2 with
    | some p => if p.space = 1 ∧ !p.spill ∧ !kept.contains x.2.2 then some (r.1, x.2.2) else none
    | none => none
  all.foldl (fun acc x => if acc.any fun y => y.2 == x.2 then acc else acc ++ [x]) []

/-- A page marked for spilling: its copy completes by a later boundary. -/
def markSpill (s : State) (id : Nat) : State :=
  { s with serve := { s.serve with pages := modify s.serve.pages id fun p => { p with spill := true } } }
def park (s : State) (k : Nat) : State := modReq s k fun q => if q.state == 7 || q.ending.isSome then q else { q with state := 6, stallSince := 0 }

/-- Every request that lists a page enters PARKED. -/
def parkListers (s : State) (id : Nat) : State :=
  s.serve.reqs.foldl (fun s r => if (reqPages s r.2).any fun x => x.2.2 == id then park s r.1 else s) s

/-- Spilling for a requester: `n` pages of other requests of its class or lower, which enter PARKED (source 3). -/
def spillFor (s : State) (k : Nat) (q : Request) (n : Nat) : State :=
  if capOf s 2 = 0 then s
  else ((coldPages s q.cls fun i _ => i != k).take n).foldl (fun s x => parkListers (markSpill s x.2) x.2) s

/-- The content of a page copied to a block of another space, and its old block freed. -/
def movePage (s : State) (id sp : Nat) : Option State :=
  match pageAt s id with
  | none => none
  | some p =>
    (findRun s p.owner sp 1).map fun b =>
      let s := grantBlock { s with fresh := s.fresh + 1 } p.owner sp b
      let s := copyRange s p.space p.addr 65536 sp (b * 65536)
      let s := charge (charge s (resOf p.space) 0 65536) (resOf sp) 0 65536
      let s := freeBlock s p.space (p.addr / 65536)
      { s with serve := { s.serve with pages := put s.serve.pages id { p with space := sp, addr := b * 65536, spill := false } } }

/-- Requests that list a page in the far tier. -/
def farPages (s : State) (q : Request) : List Nat :=
  (reqPages s q).filterMap fun x => match pageAt s x.2.2 with
    | some p => if p.space = 2 then some x.2.2 else none
    | none => none

/-- The copies of marked pages complete: the pages lie in the far tier, and the requests that list them are PARKED. -/
def settleSpills (s : State) : State :=
  let s := (s.serve.pages.filter fun p => p.2.spill).foldl (fun s p =>
    if p.2.space = 1 then match movePage s p.1 2 with
      | some t => bump64 t (rSERVE_PERF + 8) 1
      | none => { s with serve := { s.serve with pages := modify s.serve.pages p.1 fun x => { x with spill := false } } }
    else s) s
  s.serve.reqs.foldl (fun s r => if (farPages s r.2).isEmpty then s else park s r.1) s

/-- PARKED requests promoted while the near tier has room above SPILL_LOW. -/
def promoteParked (s : State) : State :=
  (sortBy (fun r => r.2.cls * 2 ^ 64 + r.2.order) (s.serve.reqs.filter fun r => r.2.state == 6)).foldl (fun s r =>
    let far := farPages s r.2
    let marked := (reqPages s r.2).any fun x => match pageAt s x.2.2 with
      | some p => p.spill
      | none => false
    if marked then s
    else if far.isEmpty || fld s rPAGE_WATER 23 0 + far.length ≤ freePages s 1 then
      let s := far.foldl (fun s id => (movePage s id 1).getD s) s
      if (farPages s r.2).isEmpty then
        modReq s r.1 fun q => { q with state := if q.sampled.isEmpty then q.resume else 4, stallSince := 0 } else s
    else s) s

/-- Commons pages that hold 32 committed positions moved to the near tier (R251). -/
def settleFull (s : State) : State :=
  (s.serve.pages.filter fun p => p.2.space == 0 && 32 ≤ pageCommit s p.2).foldl (fun s p => (movePage s p.1 1).getD s) s

/-! ### Lost pages (R452) -/

/-- A page can no longer be read: its block is withdrawn, a line of it does not decode, or a block of it has tag 3. -/
def pageLost (s : State) (p : Page) : Bool :=
  capOf s p.space < p.addr + 65536 || (blockAt s p.space (p.addr / 65536)).withdrawn || badIn s p.space p.addr 65536
  || (List.range (2 * ldN s p.space (p.addr + 14) 1)).any fun b => bits 17 16 (ldN s p.space (p.addr + 64 + 4 * b) 4) == 3

/-- A request falls back to a position: its pages from there on are released and it prefills them again. -/
def fallBack (s : State) (k : Nat) (q : Request) (pos : Nat) : State :=
  let old := q.seqLen
  let held := !q.out.isEmpty && q.tokens.length == old + 1
  let s := ((reqPages s q).filter fun x => pos ≤ 32 * x.2.1).foldl (fun s x => dropEntry s q x) s
  let m := match look s.models q.model with
    | some m => m.modelId
    | none => 0
  let n := min q.blocks (pos / 32)
  modReq s k fun q =>
    { q with seqLen := min pos old, tent := 0, sampled := [], spec := [], accept := none,
             state := if q.state == 5 || q.state == 6 || q.state == 7 then q.state else 2,
             regain := if q.regain ≠ 0 then q.regain else if held && pos < old then old else 0,
             blocks := n, lastHash := (chainHashes m q.graft q.tokens n).getLastD 0 }

/-- Every request that lists a lost page falls back to the lowest of them; entries that cover one are removed. -/
def settleLost (s : State) : State :=
  let lost := (s.serve.pages.filter fun p => pageLost s p.2).map (·.1)
  if lost.isEmpty then s else
  let s := purgePfx s fun e => e.pages.any lost.contains
  s.serve.reqs.foldl (fun s r =>
    match (sortBy id ((reqPages s r.2).filterMap fun x => if lost.contains x.2.2 then some (32 * x.2.1) else none)).head? with
    | some pos => fallBack s r.1 r.2 pos
    | none => s) s

end Sys2Proof.Machine
end

