-- ==== Sys2Proof/Machine/Serving.lean ====
section
/-! DEFINITION. Deadlines of requests, the composition of a step, and the reply gate (10, R243–R249, R258–R260, R273, R276, R450). -/

namespace Sys2Proof.Machine

/-! ### Deadlines (R258–R260) -/

/-- When token `i` is due; 0: it has no deadline (R259). -/
def tokenDue (q : Request) (i : Nat) : Nat :=
  if i = 0 then q.firstDl else if q.cadence = 0 || q.firstTime = 0 then 0 else q.firstTime + i * q.cadence
def isPast (due t : Nat) : Bool := due != 0 && due < t

/-- A missed deadline: counted, recorded, told, and with DL_ACTION = PRUNE the request's end (R260). -/
def missDl (s : State) (k due : Nat) : State :=
  match reqAt s k with
  | none => s
  | some q =>
    let id := reqIdOf k q.gen
    let s := bump s rSERVE_EVT 31 16 1
    let s := record s { code := 0x0602, sev := 1, unit := 12, ctx := q.ctx, object := id }
    let s := notify s q.ctx 0x0A12 q.hostTag 1 (toLE 4 id ++ zeros 4 ++ toLE 8 due)
    if q.dlPrune then modReq s k fun q => endReq q 4 else s

/-- Token deadlines that have passed, from a token on and the first not yet found missed. -/
def missTokens (s : State) (k t i : Nat) : Nat → State
  | 0 => s
  | n + 1 =>
    match reqAt s k with
    | none => s
    | some q =>
      let j := max i q.missedTok
      if j < q.maxTokens && q.ending.isNone && isPast (tokenDue q j) t then
        missTokens (missDl (modReq s k fun q => { q with missedTok := j + 1 }) k (tokenDue q j)) k t i n
      else s

/-- The final reply's deadline. -/
def missEnd (s : State) (k t : Nat) : State :=
  match reqAt s k with
  | none => s
  | some q =>
    if !q.missedEnd && q.ending.isNone && isPast q.completeDl t then
      missDl (modReq s k fun q => { q with missedEnd := true }) k q.completeDl
    else s

/-- The deadlines of one request outside a step (item 11): those of the tokens not yet delivered, in SPEC_WAIT after the ones its reply
has carried (log 20). -/
def scanReq (s : State) (t k : Nat) : State :=
  match reqAt s k with
  | none => s
  | some q => missEnd (missTokens s k t (q.out.length + (if q.state = 4 then q.sampled.length else 0)) (q.maxTokens + 1)) k t

/-- Item 11: every request that a list does not name. -/
def scanDeadlines (s : State) (t : Nat) (carried : List Nat) : State :=
  s.serve.reqs.foldl (fun s r => if r.1 < 32768 && !carried.contains r.1 then scanReq s t r.1 else s) s

/-- Item 12: requests whose grace in STALL has run out (R257). -/
def scanGrace (s : State) (t : Nat) : State :=
  s.serve.reqs.foldl (fun s r =>
    if r.2.state == 5 && r.2.graceMs != 0 && r.2.stallSince + r.2.graceMs * 25000 < t then modReq s r.1 fun q => endReq q 6
    else s) s

/-! ### What a step's outcome makes of a request (items 8 and 9) -/

/-- A row of a completed step committed (R246 item 8, R255, R452). -/
def commitRow (q : Request) (r : Row) (t : Nat) : Request :=
  if !r.drafts.isEmpty then { q with state := 4, tent := r.count, sampled := q.gate, spec := r.drafts, gate := [] }
  else
    let n := r.first + r.count
    if r.sample then
      { q with seqLen := n, tokens := q.tokens ++ q.gate.map (·.1), out := q.out ++ q.gate, state := 3,
               firstTime := if q.out.isEmpty then t else q.firstTime,
               gate := if q.ending.isSome then q.gate else [] }
    else
      let rg := if q.regain ≤ n then 0 else q.regain
      { q with seqLen := n, regain := rg, state := if rg = 0 && !q.out.isEmpty && q.tokens.length == n + 1 then 3 else 2 }

/-- A row of a failed step: its request keeps what it held, the drafts wait again, and the third failure in a row ends it (R248, R451). -/
def failRow (q : Request) (r : Row) : Request :=
  let q := { q with fails := q.fails + 1, gate := [], drafts := r.drafts ++ q.drafts }
  if 3 ≤ q.fails then endReq q 8 else q

/-- A pending accept applied (R255): the committed positions hold the drafts, the tokens delivered are those sampled. -/
def acceptReq (q : Request) : Request :=
  match q.accept with
  | none => q
  | some a =>
    if q.state ≠ 4 then { q with accept := none }
    else
      let got := q.sampled.take (a + 1)
      let q := { q with
        seqLen := q.seqLen + 1 + a, tent := 0, out := q.out ++ got, sampled := [], spec := [], accept := none, state := 3,
        tokens := q.tokens ++ q.spec.take a ++ ((q.sampled.drop a).take 1).map (·.1) }
      if got.any fun t => t.1 == q.stop && q.stop != 0xFFFFFFFF then endReq q 0
      else if q.maxTokens ≤ q.out.length then endReq q 1 else q

/-- A pending append applied (R335): the pending token is committed ahead of the new tokens. -/
def appendReq (q : Request) : Request :=
  if q.appended.isEmpty || q.state == 4 || q.state == 1 || q.state == 7 then q
  else { q with tokens := q.tokens ++ q.appended, promptLen := q.promptLen + q.appended.length, appended := [],
                state := if q.state == 3 then 2 else q.state }

/-! ### Composition (R243–R245, R273, R276) -/

/-- The row a step carries for a request. -/
def rowIn (st : Step) (k : Nat) : Option Row := st.rows.find? fun r => r.req == k && !r.dead

/-- A request as it will stand after the boundary of the step in flight; `none` when it can have no row. -/
def predict (s : State) (t k : Nat) (q : Request) : Option Request :=
  if q.ending.isSome || q.state == 1 || q.state == 5 || q.state == 6 || q.state == 7 || 32768 ≤ k then none
  else
    let q := if q.admitting then match look s.models q.model with
        | some m => { q with seqLen := 32 * (probeKeys s m q.graft q.ctx q.tokens).1.length }
        | none => q
      else q
    let q := match s.serve.cur with
      | some st => match rowIn st k with
          | some r => if r.gen ≠ q.gen then q else if st.failed.isSome then failRow q r else commitRow q r t
          | none => q
      | none => q
    let q := appendReq (acceptReq q)
    if q.ending.isSome || q.state == 4 then none else some q

/-- A model takes part in steps: installed, staying, no array of it with a definite fault, its exchange not failed. -/
def modelServes (s : State) (n : Nat) : Bool :=
  match look s.models n with
  | none => false
  | some m => !m.removing && !m.lost && !((barredArrays s).any fun a => m.ranges.any fun r => r.1 == a)
              && !(s.serve.exchange.any fun x => x.1 == n)

/-- Firmware forms steps now: not while RETRY_DIS holds, in maintenance, failed, or during a hand-over. -/
def mayForm (s : State) : Bool :=
  s.power.dev == .active && !s.serve.retryDis && !s.tier.maint && !moduleFailed s && s.trust.handover.isNone
  && s.trust.ready

/-- The order in which requests are taken: class, next due time, order of admission (R243). -/
def byOrder (l : List (Nat × Request)) : List (Nat × Request) :=
  let due := fun (q : Request) => let d := tokenDue q q.out.length; if d = 0 then 2 ^ 65 else d
  sortBy (fun r => r.2.cls) (sortBy (fun r => due r.2) (sortBy (fun r => r.2.order) l))

/-- A step being composed. -/
structure Forming where
  budget : Nat
  rows   : List Row
  vec    : List Nat
  cold   : Nat
  delta  : List Nat
  deriving DecidableEq, Repr

/-- The graft of a request may join the step (R273, R276). -/
def graftJoins (s : State) (f : Forming) (g : Nat) : Option Forming :=
  let i := g % 65536
  if g = 0 then some f
  else if bit 31 g then
    (if f.delta.contains i then some f else if f.delta.length < 16 then some { f with delta := f.delta ++ [i] } else none)
  else if f.vec.contains i then some f
  else if 1024 ≤ f.vec.length then none
  else if s.graft.hot.any fun h => h.2.1 == i then some { f with vec := f.vec ++ [i] }
  else if f.cold < fld s rGRAFT_CTL 7 0 then some { f with vec := f.vec ++ [i], cold := f.cold + 1 }
  else none

/-- The row a request offers within a budget. -/
def offer (q : Request) (budget : Nat) : Option (Nat × List W32 × Bool) :=
  if q.state = 3 then
    (if 1 + q.drafts.length ≤ budget then some (1 + q.drafts.length, q.drafts, true) else none)
  else
    let left := q.target - q.seqLen
    let n := if left ≤ budget then left else budget / 32 * 32
    if n = 0 then none else some (n, [], n == left && q.regain == 0 && q.maxTokens != 0)

/-- A request taken into the step, if it fits. -/
def takeRow (s : State) (f : Forming) (x : Nat × Request) : Forming :=
  match offer x.2 f.budget, graftJoins s f x.2.graft with
  | some o, some g =>
    { g with budget := f.budget - o.1,
             rows := f.rows ++ [{ req := x.1, gen := x.2.gen, first := x.2.seqLen, count := o.1, drafts := o.2.1, sample := o.2.2,
                                  dead := false }] }
  | _, _ => f

/-- The delta graft a row runs under; 0: none. -/
def deltaOf (s : State) (r : Row) : Nat := match reqAt s r.req with
  | some q => if bit 31 q.graft then q.graft else 0
  | none => 0

/-- The rows of each delta graft consecutive (R276). -/
def groupRows (s : State) (rows : List Row) : List Row :=
  let ds := dedup ((rows.map (deltaOf s)).filter (· != 0))
  (rows.filter fun r => deltaOf s r == 0) ++ ds.flatMap fun d => rows.filter fun r => deltaOf s r == d

/-- The rows of the next step (R243). -/
def composeRows (s : State) (t : Nat) : List Row :=
  let cs := s.serve.reqs.filterMap fun r => (predict s t r.1 r.2).bind fun q =>
    if modelServes s q.model then some (r.1, q) else none
  groupRows s ((byOrder cs).foldl (takeRow s) { budget := rd s rSERVE_LIMIT, rows := [], vec := [], cold := 0, delta := [] }).rows

/-! ### A step's instances (R221, R276) -/

/-- A field of a descriptor replaced. -/
def putField (d : Bytes) (o w v : Nat) : Bytes := d.take o ++ toLE w v ++ d.drop (o + w)

/-- The rows of a step that run a model. -/
def modelRows (s : State) (rows : List Row) (n : Nat) : List Row :=
  rows.filter fun r => match reqAt s r.req with
    | some q => q.model == n
    | none => false

/-- The near-tier address of a delta graft's delta for a projection of a layer (Table 11.4). -/
def deltaFor (s : State) (g : Graft) (layer proj : Nat) : Option Nat :=
  let n := num (ld s g.tier g.addr 64) 12 2
  (((List.range n).map fun e => ld s g.tier (g.addr + 64 + 16 * e) 16).find? fun b => num b 0 2 == layer && num b 2 1 == proj).map
    fun b => g.addr + num b 8 8

/-- A DELTA task of a template as firmware patches it for a step's rows: which group and projection the task serves is the template's
(log 7); the graft of the group gives its delta, its rows and the first of them; a group without one does nothing (R276). -/
def groupTask (s : State) (n : Nat) (m : Model) (rows : List Row) (g k : Nat) (d : Bytes) : Bytes :=
  let mine := modelRows s rows n
  let ids := dedup ((mine.map (deltaOf s)).filter (· != 0))
  let id := ids.getD (Config.rank (2 * g) k % 16) 0
  let pr := m.projs.getD (Config.rank (2 * g + 1) k % max 1 m.projs.length) default
  let first := sumOf ((mine.takeWhile fun r => deltaOf s r != id).map (·.count))
  let len := sumOf ((mine.filter fun r => deltaOf s r == id).map (·.count))
  match (findGraft s id).bind fun x => deltaFor s x.2 pr.1 pr.2.1 with
  | none => putField d 60 4 0
  | some a => putField (putField (putField (putField d 24 8 a) 20 2 len) 32 4 (pPA d + first * pPE d)) 44 4 (pOA d + first * pOE d)

/-- Parameter `i` of a step's instance: what a patched DELTA task needs, else the template's (log 7). -/
def stepParam (s : State) (n : Nat) (m : Model) (rows : List Row) (g : Nat) (ig : InstGraph) (ps : List Patch) (i : Nat) : Nat :=
  let task := fun (k : Nat) => ld s ig.tier (taskAddr ig.addr k) 64
  match ps.find? fun p => p.param == i && dEngine (task p.first) == 5 && pOP (task p.first) == 2 with
  | some p => num (groupTask s n m rows g p.first (task p.first)) p.off p.width
  | none => Config.param s.fresh i

/-- The patched tasks of an instance pass step 5 of Table 9.4 (R221). -/
def patchedOk (s : State) (ig : InstGraph) (h : GHdr) (patches : List Patch) (params : List Nat) : Bool :=
  (List.range h.tasks).all fun k =>
    !(patches.any fun p => p.touches k) || taskOk s 0 h.ctrCount (patched patches params k (ld s ig.tier (taskAddr ig.addr k) 64))

/-- One model's part of a step: an instance of one of its graphs, in a local range no instance in flight uses, with its parameters. The
instances whose patched tasks fail their check are noted beside it. -/
def stepInst (rows : List Row) (force : Bool) (acc : List Nat × List Nat × State) (n : Nat) : List Nat × List Nat × State :=
  let s := acc.2.2
  match look s.models n with
  | none => acc
  | some m =>
    let g := m.graphs.getD (Config.free s.fresh % max 1 m.graphs.length) 0
    match look s.graphs g with
    | none => acc
    | some ig =>
      let h := hdrOf (ld s ig.tier ig.addr 64)
      let free := ig.bases.find? fun b => s.disp.insts.all fun i => !overlap b h.ctrCount i.hdr.ctrBase i.hdr.ctrCount
      let h := { h with ctrBase := free.getD 0 }
      let patches := patchesOf s ig.tier ig.addr h
      let ps := (List.range 256).map (stepParam s n m rows g ig patches)
      let e := enterInst { s with fresh := s.fresh + 1 } 0 ig.tier ig.addr h (some ps) (some (stepCount s + 1)) force
      (acc.1 ++ [e.1], if patchedOk s ig h patches ps then acc.2.1 else acc.2.1 ++ [e.1], e.2)

/-- Models of rows. -/
def rowModels (s : State) (rows : List Row) : List Nat := dedup (rows.filterMap fun r => (reqAt s r.req).map (·.model))

/-- The instances of some models entered for the step formed, and those whose patches fail their check ended with BAD_PARAM (R221). -/
def stepInsts (s : State) (st : Step) (ms : List Nat) : State :=
  let e := ms.foldl (stepInst st.rows st.forceRef) (st.insts, [], s)
  let s := { e.2.2 with serve := { e.2.2.serve with next := some { st with insts := e.1 } } }
  e.2.1.foldl (fun s n => failNow s n stParam 0xFFFFFFFF) s

/-- The instance table has room for a step's instances (R219, log 7). -/
def stepRoom (s : State) (rows : List Row) : Bool := s.disp.insts.length + (rowModels s rows).length ≤ 1024

/-- The step formed behind the one in flight, from rows. -/
def formFrom (s : State) (rows : List Row) (force : Bool) : State :=
  if rows.isEmpty || !stepRoom s rows then { s with serve := { s.serve with next := none } }
  else
    stepInsts s { rows := rows, insts := [], gated := false, gateTime := 0, forceRef := force, failed := none, suspected := false,
                  commits := [] } (rowModels s rows)

/-- The formation point: the rows of a suspected step again, else the composition (R243, R450). -/
def formStep (s : State) (t : Nat) : State :=
  if !mayForm s then { s with serve := { s.serve with next := none } }
  else match s.serve.rerun with
    | some rows =>
      if !stepRoom s rows then { s with serve := { s.serve with next := none } }
      else formFrom { s with serve := { s.serve with rerun := none } } (rows.map fun r => { r with dead := false }) true
    | none => formFrom s (composeRows s t) false

/-! ### The reply gate (R246 items 1 to 4, R249, R336, R449, R450) -/

/-- A STREAM packet of tokens. -/
def sendTokens (s : State) (k : Nat) (q : Request) (ts : List (W32 × W32)) (late : Bool) : State :=
  if 32768 ≤ k then s
  else
    let pl := streamPayload (reqIdOf k q.gen) q.out.length false q.logprob ts
    let st := if late then stLate else stOK
    let s := bump64 s rSERVE_PERF ts.length
    let e := takeEce s q.admission.pkt.src
    let s := emit e.2 { via := q.admission.via, dst := q.admission.pkt.src, payload := pl,
                        hdr := { streamHdr s q st 0 pl.length with ece := e.1 } }
    modReq s k fun q => { q with lastStatus := st }

/-- The end a sampled token brings: STOP_TOKEN, then MAX_TOKENS. -/
def tokenEnd (q : Request) (tok : W32) : Option Nat :=
  if tok = q.stop && q.stop != 0xFFFFFFFF then some 0
  else if q.maxTokens ≤ q.out.length + 1 then some 1 else none

/-- A row's tokens judged against their due time and delivered, or kept for the final packet (items 2 and 3). -/
def deliver (s : State) (t k : Nat) (r : Row) (ts : List (W32 × W32)) : State :=
  match reqAt s k with
  | none => s
  | some q =>
    let i := q.out.length
    let fin := if r.drafts.isEmpty then tokenEnd q ((ts.map (·.1)).headD 0) else none
    let late := isPast (tokenDue q i) t
    let s := if late && q.missedTok ≤ i then missDl (modReq s k fun q => { q with missedTok := i + 1 }) k (tokenDue q i) else s
    let s := if fin.isSome then missEnd s k t else s
    match reqAt s k with
    | none => s
    | some q2 =>
      if q2.ending.isSome then s
      else
        let s := modReq s k fun q => { q with gate := ts }
        match fin with
        | some reason => modReq s k fun q => { endReq q reason with finalLate := late || isPast q.completeDl t }
        | none => sendTokens s k q2 ts late

/-- A request whose prompt is complete and that generates nothing ends (R238). -/
def endsEmpty (q : Request) (r : Row) : Bool := q.maxTokens == 0 && r.first + r.count == q.tokens.length

/-- One row at the gate. -/
def gateRow (s : State) (t : Nat) (r : Row) (res : RowResult) : State :=
  match rowReqOf s r with
  | none => s
  | some q =>
    if r.dead then s
    else if q.ending.isSome then modReq s r.req enterEnding
    else if 32768 ≤ r.req then s
    else if r.sample && res.status != 0 then modReq s r.req fun q => enterEnding (endReq q 7)
    else if r.sample then
      modReq (deliver s t r.req r ((List.range res.tokens.length).map fun i => (res.tokens.getD i 0, res.logprobs.getD i 0))) r.req
        enterEnding
    else if endsEmpty q r then
      modReq (missEnd s r.req t) r.req fun q =>
        enterEnding { endReq q 1 with finalLate := isPast q.completeDl t }
    else s

/-- A row of a step that delivers nothing: only a prune pending takes effect. -/
def gateFailed (s : State) (r : Row) : State :=
  if r.dead then s else modReq s r.req fun q => if q.gen = r.gen then enterEnding q else q

/-- STEP_FAILED to context 0 and the owners (R449). -/
def stepFailed (s : State) (st : Step) (status : Nat) : State :=
  let qs := st.rows.filterMap fun r => if r.dead then none else (rowReqOf s r).map fun q => (q.ctx, reqIdOf r.req q.gen)
  let owners := dedup (0 :: qs.map (·.1))
  owners.foldl (fun s c =>
    notify s c 0x0A14 0 2 (toLE 8 (stepCount s) ++ toLE 1 status
      ++ (((qs.filter fun x => x.1 == c).map (·.2)).take 57).flatMap (toLE 4))) s

/-- The sampler tasks of a step have completed: none waits to be admitted, none is in the window without a result. -/
def samplersDone (s : State) (st : Step) : Bool :=
  st.insts.all fun n => match instOf s n with
    | none => true
    | some i =>
      ((List.range (i.hdr.tasks - i.admitted)).all fun k => dEngine (taskOf s i (i.admitted + k)) != 6) &&
      s.disp.window.all fun w => !(w.2.inst == n && dEngine w.2.desc == 6 && w.2.result.isNone)

/-- Every instance of a step has completed. -/
def instsDone (s : State) (st : Step) : Bool := st.insts.all fun n => (instOf s n).isNone

/-- The gate can pass (R248, R249). -/
def gateReady (s : State) (st : Step) : Bool :=
  !st.gated && (instsDone s st || (samplersDone s st && (st.failed.isNone || st.suspected)))

/-- The results carry what each sampled row needs. -/
def resultsFit (st : Step) (rs : List RowResult) : Bool :=
  (st.rows.zip (List.range st.rows.length)).all fun x =>
    let r := x.1
    let o := rs.getD x.2 { status := 0, tokens := [], logprobs := [] }
    r.dead || !r.sample || 32768 ≤ r.req || o.status != 0
    || (o.tokens.length == r.drafts.length + 1 && o.logprobs.length == r.drafts.length + 1)

/-- Items 1 to 4 for the step in flight. -/
def replyGate (s : State) (rs : List RowResult) (ctr : Option Nat) : State :=
  match s.serve.cur with
  | none => s
  | some st =>
    if !gateReady s st || s.trust.handover.isSome || (st.failed.isNone && !resultsFit st rs) then s
    else
      let t := s.time
      let s := { s with serve := { s.serve with cur := some { st with gated := true, gateTime := t } } }
      let s := match st.failed with
        | none => (st.rows.zip (List.range st.rows.length)).foldl (fun s x =>
            gateRow s t x.1 (rs.getD x.2 { status := 0, tokens := [], logprobs := [] })) s
        | some status => stepFailed (st.rows.foldl gateFailed s) st status
      let s := if st.suspected && !st.forceRef then { s with serve := { s.serve with rerun := some st.rows } } else s
      let s := match ctr with
        | some c => signalCtr s (c % 16384)
        | none => s
      formStep s t

def execReplyGate (results : List RowResult) (gateCtr : Option Nat) (s : State) : Host.Outcome State Fault Refusal :=
  .next (replyGate s results gateCtr)

end Sys2Proof.Machine
end

