-- ==== Sys2Proof/Machine/Grafts.lean ====
section
/-! DEFINITION. Registering and freeing grafts, the hot area (11), and the install mirror's copies (R291). -/

namespace Sys2Proof.Machine

/-! ### The install mirror (R291, R307) -/

/-- A far-tier copy of `n` near-tier bytes: its first block and the number of blocks, none where there is no far tier. Where the far
tier has too few free blocks there is no answer. -/
def mirrorOf (s : State) (a n : Nat) : Option (Option (Nat × Nat) × State) :=
  if capOf s 2 = 0 then some (none, s)
  else
    let k := ceilDiv n 65536
    (takeRun s 2 k).map fun x => (some (x.1, k), charge (charge (firmCopy x.2 1 a n 2 (x.1 * 65536)) 0 0 n) 1 0 n)

/-- A mirror copy given up. -/
def dropMirror (s : State) (x : Nat × Nat) : State := freeRunOf s 2 x.1 x.2

/-! ### Graft images (R269, R270, R274) -/

/-- The registry slot of a vector graft (R271), and a slot of the hot area (R272). -/
def slotAddr (i : Nat) : Nat := 16384 * i
def regSlot (s : State) (i : Nat) : Nat := registryBase s + slotAddr i
def hotSlot (h : Nat) : Nat := hotBase + slotAddr h

/-- A vector graft entry's data bytes: scales, then steering vector, of the site's channels. -/
def graftBytes (m : Model) (e : Bytes) : Nat :=
  let count := match m.sites[num e 0 1]? with
    | some x => x.2.2.2
    | none => 0
  2 * count * popcount 2 (num e 1 1)

/-- An entry of Table 11.3. -/
def vectorEntryOk (m : Model) (size : Nat) (e : Bytes) : Bool :=
  num e 0 1 < m.sites.length && 1 ≤ num e 1 1 && num e 1 1 < 4 && allZero e 2 2 && num e 4 4 % 64 == 0 && allZero e 8 8
  && num e 4 4 + graftBytes m e ≤ size

/-- An entry of Table 11.4, with the structural fields of its delta (Table 6.8). -/
def deltaEntryOk (s : State) (m : Model) (tier addr size : Nat) (e : Bytes) : Bool :=
  let o := num e 8 8
  let h := ld s tier (addr + o) 64
  let n := num h 8 4
  let nnz := num h 12 4
  num e 2 1 < 7 && num e 3 1 == 0 && allZero e 4 4 && o % 64 == 0 && o + 64 ≤ size
  && fmtOk s (num h 0 2) && (num h 2 1 == 0x81 || num h 2 1 == 0x82) && num h 3 1 == 0 && allZero h 40 24
  && num h 16 8 % 64 == 0 && num h 24 8 % 64 == 0 && num h 32 8 % 64 == 0
  && o + num h 16 8 + 4 * (n + 1) ≤ size && o + num h 24 8 + 4 * nnz ≤ size && o + num h 32 8 + 2 * nnz ≤ size
  && m.projs.any fun p => p.1 == num e 0 2 && p.2.1 == num e 2 1 && p.2.2.1 == num h 4 4 && p.2.2.2 == n

/-- The header of Table 11.2. -/
def graftHeadOk (s : State) (tier : Nat) (h : Bytes) : Bool :=
  let kind := num h 2 1
  let size := num h 8 4
  let n := num h 12 2
  fmtOk s (num h 0 2) && kind < 2 && num h 3 1 == 0 && 64 ≤ size && (kind == 1 || size ≤ 16384)
  && n ≤ (if kind = 0 then 256 else 4096) && allZero h 14 50 && 64 + 16 * n ≤ size && (kind == 0 || tier == 1)

/-- The installed model an image's MODEL_ID names. -/
def modelById (s : State) (id : Nat) : Option (Nat × Model) := s.models.find? fun m => m.2.modelId == id && !m.2.lost

/-- Every entry of an image is good. -/
def entriesOk (s : State) (m : Model) (tier addr : Nat) (h : Bytes) : Bool :=
  let es := (List.range (num h 12 2)).map fun e => ld s tier (addr + 64 + 16 * e) 16
  if num h 2 1 = 0 then es.all (vectorEntryOk m (num h 8 4)) && distinct (es.map fun e => num e 0 1)
  else es.all (deltaEntryOk s m tier addr (num h 8 4))

/-- A good image entered in the registry (R267, R271, R275). -/
def enterGraft (s : State) (r : Req) (tier addr : Nat) (h : Bytes) (model : Nat) : State :=
  if 65536 ≤ s.graft.reg.length then fail s r stNoObj
  else
    let i := firstGap 0 s.graft.reg
    let gen := (look s.graft.gens i).getD 1
    let delta := num h 2 1 == 1
    let size := num h 8 4
    let t := if delta then s
      else charge (chargeNear (copyRange (wipeRange s 1 (regSlot s i) 16384) tier addr size 1 (regSlot s i)) tier (partOf s r.pkt.hdr.ctx)
        size) 0 0 size
    match if delta then some (none, t) else mirrorOf t (regSlot t i) 16384 with
    | none => fail s r stCapacity 0
    | some (mir, t) =>
      let g : Graft := { delta := delta, gen := gen, model := model, ctx := r.pkt.hdr.ctx, tier := if delta then tier else 1,
                         addr := if delta then addr else regSlot t i, size := size, mirror := mir.map (·.1), unreg := false }
      replyTo { t with graft := { t.graft with reg := put t.graft.reg i g } } r stOK 0 (toLE 4 (graftIdOf g i))

def graftRegister (s : State) (r : Req) : State :=
  let pl := r.pkt.payload
  let c := r.pkt.hdr.ctx
  let tier := num pl 1 1
  let addr := num pl 8 8
  if 1 < tier ∨ num pl 2 2 ≠ 0 then fail s r stParam
  else if !mayName s c tier addr 64 then fail s r stParam
  else match firstBad s tier addr 64 with
    | some x => cmdUe s r tier x
    | none =>
      let h := ld s tier addr 64
      let size := num h 8 4
      if num h 2 1 = 1 ∧ s.fuses.variantB then fail s r stUnit
      else if num h 2 1 = 1 ∧ unitsLeft s 6 8 = 0 then fail s r stRetired   -- R6, R460
      else if !graftHeadOk s tier h ∨ !mayName s c tier addr size then fail s r stParam
      else match firstBad s tier addr size, modelById s (num h 4 4) with
        | some x, _ => cmdUe s r tier x
        | none, none => fail s r stParam
        | none, some (n, m) =>
          if !entriesOk s m tier addr h then fail s r stParam
          else if num h 12 2 = 0 then replyTo s r stOK 0 (toLE 4 0)
          else enterGraft s r tier addr h n

def execGraftRegister (p : Pkt) (s : State) : Host.Outcome State Fault Refusal :=
  .next (receive s opGRAFT (withByte p 0 0) graftRegister)

/-- UNREGISTER: the graft is retiring until no request names it, and freed at a boundary (R277). -/
def graftUnregister (s : State) (r : Req) : State :=
  let pl := r.pkt.payload
  let id := num pl 4 4
  if num pl 2 2 ≠ 0 ∨ id = 0 then fail s r stParam
  else match findGraft s id with
    | none => fail s r stNoObj
    | some (i, g) =>
      if r.pkt.hdr.ctx ≠ 0 ∧ g.ctx ≠ r.pkt.hdr.ctx then fail s r stNoObj
      else replyTo { s with graft := { s.graft with reg := put s.graft.reg i { g with unreg := true } } } r stOK 0 (toLE 4 id)

def execGraftUnregister (p : Pkt) (s : State) : Host.Outcome State Fault Refusal :=
  .next (receive s opGRAFT (withByte p 0 1) graftUnregister)

/-! ### Freeing (R267, R277) -/

def nextGen (g : Nat) : Nat := if g = 32767 then 1 else g + 1

/-- The blocks given up while a delta graft named them, returned once none does (R275). -/
def freeOwed (s : State) : State :=
  let l := s.graft.owed.filter fun k => !deltaNames s (k / 2 ^ 32) (k % 2 ^ 32)
  l.foldl (fun s k => freeNow s (k / 2 ^ 32) (k % 2 ^ 32))
    { s with graft := { s.graft with owed := s.graft.owed.filter fun k => !l.contains k } }

/-- A registry entry freed: out of the hot area, its generation advanced, its prefix entries removed, and the blocks it kept returned. -/
def freeGraft (s : State) (i : Nat) (g : Graft) : State :=
  let s := purgePfx s fun e => e.graftId == graftIdOf g i
  let s := match g.mirror with
    | some b => dropMirror s (b, 1)
    | none => s
  freeOwed { s with graft := { s.graft with reg := del s.graft.reg i, gens := put s.graft.gens i (nextGen g.gen),
                                            hot := s.graft.hot.filter fun h => h.2.1 != i } }

/-- Retiring grafts that no request names, freed at a boundary. -/
def freeGrafts (s : State) : State :=
  s.graft.reg.foldl (fun s g =>
    if g.2.unreg && !(s.serve.reqs.any fun r => r.2.graft == graftIdOf g.2 g.1) then freeGraft s g.1 g.2 else s) s

/-- Every graft a condition picks becomes retiring. -/
def unregisterAll (s : State) (p : Graft → Bool) : State :=
  { s with graft := { s.graft with reg := s.graft.reg.map fun g => (g.1, if p g.2 then { g.2 with unreg := true } else g.2) } }

/-! ### The hot set (R272, R273) -/

/-- Vector grafts that a step's rows name. -/
def stepGrafts (s : State) (rows : List Row) : List Nat :=
  dedup (rows.filterMap fun r => match reqAt s r.req with
    | some q => if q.graft = 0 || bit 31 q.graft then none else (findGraft s q.graft).map (·.1)
    | none => none)

/-- One graft brought into the hot area: a free slot, else that of the graft used least recently of those the step does not use. -/
def promoteGraft (used : List Nat) (s : State) (i : Nat) : State :=
  if s.graft.hot.any fun h => h.2.1 == i then s
  else
    let old := (sortBy (fun h => h.2.2) (s.graft.hot.filter fun h => !used.contains h.2.1)).head?
    let slot := if s.graft.hot.length < 1024 then some (firstGap 0 (sortBy (fun h => h.1) s.graft.hot)) else old.map (·.1)
    match slot with
    | none => s
    | some h =>
      let s := charge (firmCopy s 1 (regSlot s i) 16384 0 (hotSlot h)) 0 0 16384
      { s with graft := { s.graft with hot := (h, i, 0) :: s.graft.hot.filter fun x => x.1 != h } }

/-- The grafts of the next step made hot, and their use noted (item 6). -/
def promoteGrafts (s : State) (rows : List Row) : State :=
  let used := stepGrafts s rows
  let s := used.foldl (promoteGraft used) s
  { s with graft := { s.graft with
      hot := s.graft.hot.map fun h => if used.contains h.2.1 then (h.1, h.2.1, stepCount s + 1) else h } }

end Sys2Proof.Machine
end

