-- ==== Sys2Proof/Machine/Models.lean ====
section
/-! DEFINITION. Installing models, loading their weights, and removing them (05, 09, 11, R338). -/

namespace Sys2Proof.Machine

/-! ### The manifest (R338) -/

structure Manifest where
  modelId : Nat
  limit   : Nat
  ranges  : List (Nat × Nat × Nat)
  graphs  : List (Nat × Nat)
  images  : List (Nat × Nat × Nat)
  sites   : List (Nat × Nat × Nat × Nat)
  projs   : List (Nat × Nat × Nat × Nat)
  clean   : Bool
  deriving DecidableEq, Repr

/-- The records of a manifest: `n` of `w` bytes from offset `o`. -/
def recsAt (pl : Bytes) (o w n : Nat) : List Bytes := (List.range n).map fun i => sliceOf pl (o + w * i) w

/-- Offsets of the manifest's parts, and its length. -/
def manifestLen (pl : Bytes) : Nat :=
  64 + 8 * num pl 2 2 + 16 * num pl 12 1 + 16 * num pl 13 1 + 8 * num pl 14 2 + 12 * num pl 16 2

/-- A manifest read; `clean` holds when every reserved field is 0. -/
def manifestOf (pl : Bytes) : Manifest :=
  let oG := 64 + 8 * num pl 2 2
  let oI := oG + 16 * num pl 12 1
  let oS := oI + 16 * num pl 13 1
  let oP := oS + 8 * num pl 14 2
  let rs := recsAt pl 64 8 (num pl 2 2)
  let gs := recsAt pl oG 16 (num pl 12 1)
  let is := recsAt pl oI 16 (num pl 13 1)
  let ss := recsAt pl oS 8 (num pl 14 2)
  let ps := recsAt pl oP 12 (num pl 16 2)
  { modelId := num pl 4 4, limit := num pl 8 4,
    ranges := rs.map fun b => (num b 0 1, num b 2 2, num b 4 2),
    graphs := gs.map fun b => (num b 0 1, num b 8 8),
    images := is.map fun b => (num b 0 1, num b 1 1, num b 8 8),
    sites := ss.map fun b => (num b 0 2, num b 2 1, num b 4 2, num b 6 2),
    projs := ps.map fun b => (num b 0 2, num b 2 1, num b 4 4, num b 8 4),
    clean := allZero pl 18 46 && rs.all (fun b => num b 1 1 == 0 && allZero b 6 2) && gs.all (fun b => allZero b 1 7)
      && is.all (fun b => allZero b 2 6) && ss.all (fun b => num b 3 1 == 0) && ps.all fun b => num b 3 1 == 0 }

/-- Tile ranges overlap. -/
def rangesMeet (a b : Nat × Nat × Nat) : Bool := a.1 == b.1 && overlap a.2.1 a.2.2 b.2.1 b.2.2

/-- The width of a graft site's point (R266). -/
def siteWidth (m : Manifest) (layer point : Nat) : Option Nat :=
  let key := match point with
    | 0 => (layer, 0)
    | 1 => (layer, 3)
    | 2 => (layer, 4)
    | 3 => (layer, 6)
    | _ => (0, 0)
  (m.projs.find? fun p => p.1 == key.1 && p.2.1 == key.2).map (·.2.2.1)

/-- Counts, ranges, sites and projections of a manifest (R105, R266, R338). -/
def manifestOk (s : State) (pl : Bytes) (m : Manifest) : Bool :=
  fmtOk s (num pl 0 2) && m.clean && 1 ≤ m.limit && m.limit ≤ 16777216 && 1 ≤ m.graphs.length && m.graphs.length ≤ 16
  && m.sites.length ≤ 256
  && m.ranges.all (fun r => r.1 < 96 && r.2.1 + r.2.2 ≤ sliceSlots) && m.ranges.any (fun r => r.2.2 != 0)
  && m.ranges.all (fun r => s.models.all fun x => x.2.ranges.all fun q => !rangesMeet r q)
  && s.models.all (fun x => x.2.modelId != m.modelId)
  && m.projs.all (fun p => p.2.1 < 7 && p.2.2.1 != 0 && p.2.2.2 != 0)
  && m.sites.all fun x => x.2.1 < 5 && 1 ≤ x.2.2.2 && x.2.2.2 ≤ 8192 && (match siteWidth m x.1 x.2.1 with
      | some w => decide (x.2.2.1 + x.2.2.2 ≤ w)
      | none => false)

/-! ### Images (R116, R156) -/

/-- A table or embedding image passes its header check and stands in blocks of context 0. -/
def imageOk (s : State) (i : Nat × Nat × Nat) : Bool :=
  let h := ld s i.2.1 i.2.2 64
  i.1 < 2 && i.2.1 < 2 && i.2.2 % 64 == 0 && ownsRange s 0 i.2.1 i.2.2 64
  && (if i.1 = 0 then tableHeaderOk s i.2.1 i.2.2 h else embedHeaderOk s i.2.1 i.2.2 h)
  && ownsRange s 0 i.2.1 i.2.2 (imageSize i.1 h)

/-! ### Graphs (R220) -/

/-- A patch entry of Table 9.5. -/
def patchOk (tasks : Nat) (b : Bytes) : Bool :=
  let p := patchOf b
  1 ≤ p.count && 1 ≤ p.step && num b 12 1 < 64 && 16 ≤ p.off && (p.width == 1 || p.width == 2 || p.width == 4)
  && p.off + p.width ≤ 64 && num b 15 1 == 0 && p.first + (p.count - 1) * p.step < tasks

/-- Values tried in a patched field, which the installation check exempts: the image's own, values that lie in every range and
alignment, strides of every width, and the open collectives (log 33). -/
def exemptValues (s : State) (d : Bytes) (p : Patch) : List Nat :=
  [num d p.off p.width, 0, 1, 64, 0x3F800000] ++ ((List.range 15).map fun k => 2 ^ (k + 7)) ++ s.coll.open_.map (·.1)

/-- A task passes with some values in its patched fields. -/
def passesPatched (s : State) (ok : Bytes → Bool) : List Patch → Bytes → Bool
  | [], d => ok d
  | p :: ps, d => (exemptValues s d p).any fun v => passesPatched s ok ps (d.take p.off ++ toLE p.width v ++ d.drop (p.off + p.width))

/-- What the installation check of a graph ends in, if anything. -/
def installFault (s : State) (g : Nat × Nat) : Option Nat :=
  let b := ld s g.1 g.2 64
  let h := hdrOf b
  if !(g.1 < 2 && g.2 % 64 == 0 && hdrOk s 0 true b && (imageRegions g.2 h).all (fun r => ownsRange s 0 g.1 r.1 r.2)
       && (!h.statusEn || recordPlaceOk s 0 h.statusTier h.statusAddr)) then some stParam
  else if !((List.range h.patchCount).all fun e => patchOk h.tasks (ld s g.1 (g.2 + h.patchOff + 16 * e) 16)) then some stParam
  else
    let ps := patchesOf s g.1 g.2 h
    graphFault s 0 h (imageTasks s g.1 g.2 h none) fun k d =>
      let mine := ps.filter (·.touches k)
      !mine.isEmpty && passesPatched s (taskOk s 0 h.ctrCount) mine d

/-! ### MODEL_INSTALL -/

/-- Two local counter ranges for a graph, held by context 0 (R213). -/
def twoRanges (s : State) (n : Nat) : Option (List Nat × State) :=
  match freeCtrRun s n with
  | none => none
  | some a =>
    let s := giveCtrs s 0 a n
    (freeCtrRun s n).map fun b => ([a, b], giveCtrs s 0 b n)

/-- One graph entered under the lowest free number. -/
def enterGraph (model : Nat) (acc : State × List Nat) (g : Nat × Nat) : Option (State × List Nat) :=
  let h := hdrOf (ld acc.1 g.1 g.2 64)
  (twoRanges acc.1 h.ctrCount).map fun r =>
    let n := firstGap 0 r.2.graphs
    ({ r.2 with graphs := put r.2.graphs n { model := model, tier := g.1, addr := g.2, bases := r.1 } }, acc.2 ++ [n])

/-- The near-tier artefacts of a model, mirrored, if the far tier has the blocks (R291). -/
def mirrorAll (s : State) (l : List (Nat × Nat)) : Option (State × List (Nat × Nat)) :=
  foldOpt (fun (acc : State × List (Nat × Nat)) r => (mirrorOf acc.1 r.1 r.2).map fun m => (m.2, acc.2 ++ m.1.toList)) l (s, [])

/-- The near-tier artefacts of a manifest: place and size. -/
def nearParts (s : State) (graphs : List (Nat × Nat)) (images : List (Nat × Nat × Nat)) : List (Nat × Nat) :=
  (images.filterMap fun i => if i.2.1 = 1 then some (i.2.2, imageSize i.1 (ld s 1 i.2.2 64)) else none)
  ++ graphs.flatMap fun g => if g.1 = 1 then imageRegions g.2 (hdrOf (ld s 1 g.2 64)) else []

/-- A checked manifest installed: without effect where its counters or its mirror find no room (R213, R291). -/
def installModel (s : State) (r : Req) (m : Manifest) : State :=
  let n := firstGap 0 s.models
  match foldOpt (fun acc g => enterGraph n acc g) m.graphs (s, []) with
  | none => fail s r stCapacity 0
  | some (t, gs) =>
    match mirrorAll t (nearParts s m.graphs m.images) with
    | none => fail s r stCapacity 0
    | some (t, mir) =>
      let x : Model := { modelId := m.modelId, fmt := num r.pkt.payload 0 2, ctxLimit := m.limit, ranges := m.ranges, graphs := gs,
                         images := m.images, sites := m.sites, projs := m.projs, mirror := mir, removing := false, lost := false }
      replyTo { t with models := put t.models n x } r stOK 0 (toLE 1 n ++ gs.flatMap (toLE 1))

/-- The ranges of memory that the check of a manifest reads: space, address, bytes. -/
def manifestReads (s : State) (m : Manifest) : List (Nat × Nat × Nat) :=
  let is := m.images.map fun (i : Nat × Nat × Nat) => (i.2.1, i.2.2, 64)
  let gs := m.graphs.flatMap fun (g : Nat × Nat) =>
    (g.1, g.2, 64) :: (imageRegions g.2 (hdrOf (ld s g.1 g.2 64))).map fun (x : Nat × Nat) => (g.1, x.1, x.2)
  is ++ gs

/-- The first word of a manifest's images that does not decode. -/
def manifestUe (s : State) (m : Manifest) : Option (Nat × Nat) :=
  (manifestReads s m).findSome? fun x => (firstBad s x.1 x.2.1 x.2.2).map fun a => (x.1, a)

/-- The first word of what the mirror copies that does not decode (R490). -/
def mirrorUe (s : State) (m : Manifest) : Option Nat :=
  if capOf s 2 = 0 then none else (nearParts s m.graphs m.images).findSome? fun x => firstBad s 1 x.1 x.2

def modelInstall (s : State) (r : Req) : State :=
  let pl := r.pkt.payload
  if s.power.bindOff.isSome then fail s r stCapacity 0   -- R420
  else if pl.length ≠ manifestLen pl then fail s r stLength
  else
    let m := manifestOf pl
    if s.fuses.variantB && m.images.any fun i => i.1 < 2 then fail s r stUnit
    else if unitsLeft s 5 32 = 0 && m.images.any fun i => i.1 < 2 then fail s r stRetired   -- R6, R159, R460
    else if !manifestOk s pl m then fail s r stParam
    else if m.images.any (fun i => 1 < i.2.1) || m.graphs.any fun g => 1 < g.1 then fail s r stParam
    else if 16 < s.graphs.length + m.graphs.length then fail s r stCapacity 4
    else match manifestUe s m with
      | some x => cmdUe s r x.1 x.2
      | none =>
        if !m.images.all (imageOk s) then fail s r stParam
        else match m.graphs.findSome? (installFault s) with
          | some st => fail s r st
          | none => match mirrorUe s m with
            | some x => cmdUe s r 1 x
            | none => installModel s r m

def execModelInstall (p : Pkt) (s : State) : Host.Outcome State Fault Refusal := .next (receive s opINSTALL p modelInstall)

/-! ### LOAD_WEIGHTS (R106–R108, R130) -/

/-- A tile record of a LOAD_WEIGHTS payload. -/
structure TileRec where
  array : Nat
  tile  : Nat
  entry : Nat
  rsv   : Nat
  bytes : Bytes
  deriving DecidableEq, Repr

/-- A record's length by its directory entry. -/
def weightLen (entry : Nat) : Nat := if bit 8 entry then 128 * (entry % 256) else slotBytes

/-- The records of a payload; `none` where a length is wrong. -/
def tileRecs : Nat → Bytes → Option (List TileRec)
  | 0, pl => if pl.isEmpty then some [] else none
  | n + 1, pl =>
    let e := num pl 4 4
    let k := 8 + weightLen e
    if pl.length < k then none
    else (tileRecs n (pl.drop k)).map fun l =>
      { array := num pl 0 1, tile := num pl 2 2, entry := e, rsv := num pl 1 1, bytes := (pl.drop 8).take (weightLen e) } :: l

/-- Entries that fail before their records can be measured. -/
def entryBad (e : Nat) : Bool := 512 ≤ e || (bit 8 e && (e % 256 == 0 || 208 < e % 256))

/-- The structural fields of a skein record (R130). -/
def skeinOk (lines : Nat) (b : Bytes) : Bool :=
  let nblk := num b 512 2
  let nrow := num b 514 2
  let nnz := num b 516 4
  let fin := 528 + 8 * nblk + 8 * nrow + ceilDiv nnz 8
  nblk ≤ 32 && nrow ≤ 64 * nblk && nnz ≤ 64 * nrow && allZero b 524 4 && ceilDiv fin 128 == lines && allZero b fin (b.length - fin)

def tileHeldBy (m : Model) (t : TileRec) : Bool :=
  m.ranges.any fun r => r.1 == t.array && r.2.1 ≤ t.tile && t.tile < r.2.1 + r.2.2

def tileOk (m : Model) (t : TileRec) : Bool :=
  t.rsv == 0 && tileHeldBy m t && (!bit 8 t.entry || skeinOk (t.entry % 256) t.bytes)

/-- The lowest failure while the payload's entries are walked. -/
def walkEntries : Nat → Bytes → Bool
  | 0, _ => true
  | n + 1, pl => if pl.length < 8 then true else !entryBad (num pl 4 4) && walkEntries n (pl.drop (8 + weightLen (num pl 4 4)))

/-- A record and its entry written to a slice, unless its bed is Off (R108). -/
def writeSlice (s : State) (t : TileRec) (e a : Nat) : State :=
  if bedState s (a / 8) = 3 || moveOf s (a / 8) == .entering 3 then s
  else
    let s := if bedState s (a / 8) = 2 || moveOf s (a / 8) == .entering 2 then bedToIdle s (a / 8) else s
    stSlice (stSlice s (sliceBase a + slotBytes * t.tile) t.bytes) (sliceBase a + dirOff + 4 * t.tile) (toLE 4 e)

/-- The physical arrays whose slices hold a logical array's tiles: the one that serves it, and a spare whose repair copy is complete and
which serves it from the next boundary on (R113, log 57). -/
def holdersOf (s : State) (lg : Nat) : List Nat :=
  (if fld s (rARRAY_MAP lg) 7 7 = 0 then [] else [physOf s lg]) ++ (copiedSpare s lg).toList

/-- One record and its entry written to the shadow image, and to the slices that hold the array's tiles (R107, R108). -/
def writeTile (s : State) (t : TileRec) : State :=
  let e := if bit 8 t.entry then t.entry else 209
  let base := imageBase s t.array
  let s := if stackCount s = 0 then s
    else charge (st (st s 1 (base + slotBytes * t.tile) t.bytes) 1 (base + dirOff + 4 * t.tile) (toLE 4 e)) 0 0 (t.bytes.length + 4)
  (holdersOf s t.array).foldl (fun s a => writeSlice s t e a) s

def loadWeights (s : State) (r : Req) : State :=
  let pl := r.pkt.payload
  if s.power.bindOff.isSome then fail s r stCapacity 0   -- R420
  else match look s.models (num pl 0 1) with
  | none => fail s r stNoObj
  | some m =>
    if !allZero pl 1 3 ∨ !fmtOk s m.fmt ∨ !walkEntries (num pl 4 4) (pl.drop 8) then fail s r stParam   -- the version: R8, log 57
    else match tileRecs (num pl 4 4) (pl.drop 8) with
      | none => fail s r stLength
      | some ts => if ts.all (tileOk m) then fail (ts.foldl writeTile s) r stOK else fail s r stParam

def execLoadWeights (p : Pkt) (s : State) : Host.Outcome State Fault Refusal := .next (receive s opWEIGHTS p loadWeights)

/-! ### MODEL_REMOVE (R109, R278, R456, R491) -/

/-- The removal takes effect at the next boundary. -/
def modelRemove (s : State) (r : Req) : State :=
  let n := num r.pkt.payload 0 1
  if !allZero r.pkt.payload 1 3 then fail s r stParam
  else match look s.models n with
    | none => fail s r stNoObj
    | some m => fail { s with models := put s.models n { m with removing := true } } r stOK

def execModelRemove (p : Pkt) (s : State) : Host.Outcome State Fault Refusal := .next (receive s opREMOVE p modelRemove)

/-- A range's records and entries cleared, in the slices that hold them and in the shadow copy (R109). -/
def clearRange (s : State) (r : Nat × Nat × Nat) : State :=
  let clr := fun (wp : State → Nat → Nat → State) (s : State) (base : Nat) =>
    wp (wp s (base + slotBytes * r.2.1) (slotBytes * r.2.2)) (base + dirOff + 4 * r.2.1) (4 * r.2.2)
  let s := if stackCount s = 0 then s else charge (clr (fun s a n => wipeRange s 1 a n) s (imageBase s r.1)) 0 0 (slotBytes * r.2.2)
  (holdersOf s r.1).foldl (fun s a => clr wipeSlice s (sliceBase a)) s

/-- Models that leave service at this boundary: their grafts are unregistered and their requests end (R278, R456). -/
def beginRemovals (s : State) : State :=
  let gone := fun (m : Model) => m.removing || m.ranges.any fun r => r.2.2 != 0 && fld s (rARRAY_MAP r.1) 7 7 == 0
  (s.models.filter fun m => gone m.2).foldl (fun s m =>
    let s := { s with models := put s.models m.1 { m.2 with removing := true },
                      serve := { s.serve with reqs := s.serve.reqs.map fun r =>
                        (r.1, if r.2.model == m.1 then endReq r.2 8 else r.2) } }
    unregisterAll s fun g => g.model == m.1) s

/-- A model gone: its prefix entries, tiles, graphs with their counters, and mirror. -/
def dropModel (s : State) (n : Nat) (m : Model) : State :=
  let s := purgePfx s fun e => e.modelId == m.modelId
  let s := m.ranges.foldl clearRange s
  let s := m.graphs.foldl (fun s g => match look s.graphs g with
    | some ig =>
      let k := (hdrOf (ld s ig.tier ig.addr 64)).ctrCount
      let s := ig.bases.foldl (fun s b => freeCtrs s b k) s
      { s with graphs := del s.graphs g }
    | none => s) s
  let s := m.mirror.foldl dropMirror s
  { s with models := del s.models n }

/-- The removals of this boundary completed, once their requests are gone. -/
def endRemovals (s : State) : State :=
  (s.models.filter fun m => m.2.removing && !(s.serve.reqs.any fun r => r.2.model == m.1)).foldl (fun s m => dropModel s m.1 m.2) s

end Sys2Proof.Machine
end

