-- ==== Sys2Proof/Machine/Contexts.lean ====
section
/-! DEFINITION. Opening and closing contexts (13, R318–R320, R231, R239). -/

namespace Sys2Proof.Machine

/-! ### OPEN_CONTEXT (R318, R319) -/

/-- The payload of Table 13.4 is within its ranges. -/
def openOk (pl : Bytes) : Bool :=
  let cls := num pl 0 1
  cls ≤ 2 && 1 ≤ num pl 1 1 && num pl 1 1 ≤ 7 && 1 ≤ num pl 2 2 && num pl 2 2 ≤ 16384 && 1 ≤ num pl 4 4 && num pl 4 4 ≤ 32768
  && 1 ≤ num pl 16 4 && (cls == 0 || (num pl 8 4 == 0 && num pl 12 4 == 0)) && allZero pl 24 8

/-- A token that no open context holds: the free choice where it is one, else the lowest (log 1). -/
def pickToken (s : State) : Nat :=
  let used := s.kct.ctxs.map fun c => (tokenOf s c.1).toNat
  let c := Config.free s.fresh % 2 ^ 32
  if c ≠ 0 ∧ !used.contains c then c
  else ((List.range (used.length + 1)).map (· + 1)).find? (fun t => !used.contains t) |>.getD 1

/-- The reservations of all contexts, with these, stay within the table and the pools (R239). -/
def reserveFits (s : State) (e p : Nat) : Bool :=
  reservedEntries s + e ≤ 32768 && reservedPages s + p ≤ poolPages s

def openContext (s : State) (r : Req) : State :=
  let pl := r.pkt.payload
  if !openOk pl then fail s r stParam
  else if 4096 ≤ s.kct.ctxs.length then fail s r stNoCtx
  else if !reserveFits s (num pl 8 4) (num pl 12 4) then fail s r stCapacity
  else
    let n := firstGap 0 s.kct.ctxs
    let tok := if num pl 20 4 = 0 then pickToken s else num pl 20 4
    let c : Ctx := { cls := num pl 0 1, part := num pl 1 1, ctrQuota := num pl 2 2, reqQuota := num pl 4 4, reqReserve := num pl 8 4,
                     pageReserve := num pl 12 4, memQuota := num pl 16 4, token := BitVec.ofNat 32 tok, h := 0, seen := [0],
                     cache := [], started := [], sub := none, closing := [] }
    replyTo (setCtx { s with fresh := s.fresh + 1 } n c) r stOK 0 (toLE 2 n ++ zeros 2 ++ toLE 4 tok)

def execOpenContext (p : Pkt) (s : State) : Host.Outcome State Fault Refusal := .next (receive s opOPEN p openContext)

/-! ### CLOSE_CONTEXT (R320, R231) -/

/-- What stops at once: unreleased tasks, the subscription and the segmented transfers; requests end and grafts are unregistered at the
next boundary. -/
def beginClose (s : State) (c : Nat) : State :=
  let s := (s.kct.inX.filter fun x => x.req.pkt.hdr.ctx == c).foldl endIn s
  let s := { s with kct := { s.kct with outX := s.kct.outX.filter fun x => x.hdr.ctx != c },
                    serve := { s.serve with owed := s.serve.owed.filter fun q => q.2.ctx != c, reqs := s.serve.reqs.map fun q =>
                      (q.1, if q.2.ctx == c && q.1 < 32768 then { q.2 with ending := some 5 } else q.2) } }
  let s := unregisterAll s fun g => g.ctx == c
  let s := modCtx s c fun x => { x with sub := none }
  (s.disp.insts.filter fun i => i.ctx == c && i.step.isNone).foldl (fun s i =>
    tryComplete (voidRest (modInst s i.num fun i => { i with closing := true }) i.num) i.num) s

def closeContext (s : State) (r : Req) : State :=
  let c := r.pkt.hdr.ctx
  let t := num r.pkt.payload 0 2
  if num r.pkt.payload 2 2 ≠ 0 ∨ 4095 < t ∨ (c = 0 ∧ t = 0) then fail s r stParam
  else if c ≠ 0 ∧ t ≠ c then fail s r stNoObj
  else match ctxOf s t with
    | none => fail s r stNoCtx
    | some x => modCtx (if x.closing.isEmpty then beginClose s t else s) t fun x => { x with closing := x.closing ++ [r] }

def execCloseContext (p : Pkt) (s : State) : Host.Outcome State Fault Refusal := .next (receive s opCLOSE p closeContext)

/-- Every counter of a context driven to its maximum, which releases what waits on it, then freed (R231). -/
def freeAllCtrs (s : State) (c : Nat) : State :=
  let mine := (s.disp.owners.filter fun x => x.2 == c).map (·.1)
  let s := mine.foldl (fun s k => setCtr s k 0xFFFFFFFF) s
  mine.foldl (fun s k => freeCtrs s k 1) s

/-- The blocks of a context returned to the pools, but for those that hold a page still shared. -/
def freeAllBlocks (s : State) (c : Nat) : State :=
  let live := s.serve.pages.map fun p => blockKey p.2.space (p.2.addr / 65536)
  (s.blocks.filter fun b => b.2.granted && b.2.owner == some c && !live.contains b.1).foldl
    (fun s b => freeBlock s (b.1 / 2 ^ 32) (b.1 % 2 ^ 32)) s

/-- A closing context none of whose instances and requests remains is gone, and its CLOSE_CONTEXT is answered. -/
def endClose (s : State) (c : Nat) (x : Ctx) : State :=
  if x.closing.isEmpty || (s.disp.insts.any fun i => i.ctx == c) || (s.serve.reqs.any fun q => q.2.ctx == c && q.1 < 32768) then s
  else
    let s := freeAllCtrs s c
    let s := (s.coll.open_.filter fun k => k.2.ctx == c).foldl (fun s k => dropColl s k.1) s
    let s := freeAllBlocks s c
    let s := { s with kct := { s.kct with ctxs := del s.kct.ctxs c } }
    x.closing.foldl (fun s r => fail s r stOK) s

def endCloses (s : State) : State := s.kct.ctxs.foldl (fun s c => endClose s c.1 c.2) s

end Sys2Proof.Machine
end

