-- ==== Sys2Proof/Machine/Boundary.lean ====
section
/-! DEFINITION. The step boundary: items 5 to 18 of R246, the exchange between the modules of a placement, and firmware's work while
no step is in flight (10, R244–R262). -/

namespace Sys2Proof.Machine

def modAllReqs (s : State) (f : Nat → Request → Request) : State :=
  { s with serve := { s.serve with reqs := s.serve.reqs.map fun r => (r.1, f r.1 r.2) } }

/-! ### Records of other modules (R262, R283) -/

/-- The model a record is about, by its identifier, and the table key of a request its sender leads. -/
def recModel (s : State) (p : BoundaryRec) : Option (Nat × Model) := s.models.find? fun m => m.2.modelId == p.model
def peerKey (lead id : Nat) : Nat := 32768 * (lead + 1) + id % 32768
/-- The key a record's request identifier has here: this module's own table when it leads. -/
def keyHere (s : State) (m : Model) (id : Nat) : Nat := if isLead s m then id % 32768 else peerKey (leadOf s m) id

/-- A request the lead has admitted, entered here. -/
def peerAdmit (s : State) (n : Nat) (m : Model) (x : Nat × Nat × Bytes) : State :=
  let k := keyHere s m x.1
  if (reqAt s k).isSome then s
  else
    let r : Req := { (default : Req) with pkt := { (default : Pkt) with payload := x.2.2 } }
    let cls := match ctxOf s x.2.1 with
      | some c => c.cls
      | none => 1
    let q := newRequest s r (x.1 / 32768) x.2.1 cls true x.1
    let s := { s with serve := { s.serve with nextOrder := s.serve.nextOrder + 1 } }
    setReq s k { q with model := n, order := s.serve.nextOrder - 1 }

/-- The lead's admissions, tokens and accepts taken over; `late` when the step they belong to is already committed here. -/
def takeLead (s : State) (late : Bool) (p : BoundaryRec) : State :=
  match recModel s p with
  | none => s
  | some (n, m) =>
    if isLead s m || p.code != leadOf s m then s
    else
      let s := p.admitted.foldl (fun s x => peerAdmit s n m x) s
      let s := p.tokens.foldl (fun s x => modReq s (keyHere s m x.1) fun q =>
        let ts := x.2.map fun t => (t, (0 : W32))
        if late then { q with tokens := q.tokens ++ x.2, out := q.out ++ ts, state := if x.2.isEmpty then q.state else 3 }
        else { q with gate := ts }) s
      p.accepted.foldl (fun s x => modReq s (keyHere s m x.1) fun q => { q with accept := some x.2 }) s

/-- Requests that a record ends: the lowest END_REASON counts. -/
def takeEnds (s : State) (p : BoundaryRec) : State :=
  match recModel s p with
  | none => s
  | some (_, m) => p.ended.foldl (fun s x => modReq s (keyHere s m x.1) fun q =>
      { q with ending := some (match q.ending with
          | some r => min r x.2
          | none => x.2) }) s

/-- The smallest reuse count carried for a request. -/
def peerReuse (s : State) (peers : List BoundaryRec) (k r : Nat) : Nat :=
  peers.foldl (fun r p => match recModel s p with
    | some (_, m) => (p.reuse.filter fun x => keyHere s m x.1 == k).foldl (fun r x => min r x.2) r
    | none => r) r

/-! ### This module's records (R262, R283) -/

/-- The record of a model, where this boundary's exchange has one, changed. -/
def modRecord (s : State) (n : Nat) (f : BoundaryRec → BoundaryRec) : State :=
  match look s.models n with
  | none => s
  | some m => { s with serve := { s.serve with records := s.serve.records.map fun p => if p.model == m.modelId then f p else p } }

/-- What a request has committed with the step that ends: its tokens, and the drafts an accept takes. -/
def committed (s : State) (n : Nat) (p : BoundaryRec) (x : Nat × Request) : BoundaryRec :=
  let id := reqIdOf x.1 x.2.gen
  let row := s.serve.cur.bind fun st => if st.failed.isSome then none else rowIn st x.1
  if x.2.model ≠ n || 32768 ≤ x.1 then p
  else match row, x.2.accept with
    | some r, _ => if r.gen = x.2.gen && r.drafts.isEmpty && r.sample then { p with tokens := p.tokens ++ [(id, x.2.gate.map (·.1))] } else p
    | none, some a => if x.2.state = 4 then { p with accepted := p.accepted ++ [(id, a)] } else p
    | none, none => p

/-- A record for each model placed over several modules, with the ends since the last boundary and from the lead what the requests
commit. -/
def startRecords (s : State) : State :=
  let record := fun (m : Nat × Model) =>
    if (placement s m.2).length ≤ 1 then none
    else
      let ends := s.serve.lateEnds.filterMap fun x => if x.1 == m.1 then some x.2 else none
      let p : BoundaryRec := { code := myCode s, model := m.2.modelId, held := [], ended := ends, reuse := [], admitted := [], tokens := [],
                               accepted := [], rows := [] }
      some (if isLead s m.2 then s.serve.reqs.foldl (committed s m.1) p else p)
  { s with serve := { s.serve with records := s.models.filterMap record, lateEnds := [] } }

/-- The requests that end here, noted before they leave (item 13): model, identifier, reason. -/
def endsNow (s : State) : List (Nat × Nat × Nat) :=
  s.serve.reqs.filterMap fun r => r.2.ending.map fun e => (r.2.model, reqIdOf r.1 r.2.gen, e)
def noteEnds (s : State) : State :=
  (endsNow s).foldl (fun s x => modRecord s x.1 fun p => { p with ended := p.ended ++ [x.2] }) s

/-- Requests held, and from the lead the rows of the next step (items 16 and 17). -/
def noteRows (s : State) : State :=
  let s := s.serve.reqs.foldl (fun s r => if r.2.state == 5 || r.2.state == 6 then
      modRecord s r.2.model fun p => { p with held := p.held ++ [reqIdOf r.1 r.2.gen] } else s) s
  match s.serve.next with
  | none => s
  | some st => st.rows.foldl (fun s r => match rowReqOf s r with
      | some q => if r.dead || 32768 ≤ r.req then s
          else modRecord s q.model fun p =>
            { p with rows := p.rows ++ [(reqIdOf r.req r.gen, r.first, r.count, r.drafts, r.sample)] }
      | none => s) s

/-! ### Items 6 to 9 -/

/-- Item 6: remaps, the links and models that change at a boundary, the register settings, and the hot set of the next step. -/
def item6 (s : State) : State :=
  let s := beginRemovals (quarantineDue (remapAll s))
  let s := { s with serve := { s.serve with
    retryDis := fld s rCOMMONS_CTL 0 0 == 1, pfxEn := fld s rPFX_CTL 0 0 == 1, pfxScope := fld s rPFX_CTL 1 1 == 1 } }
  match s.serve.next with
  | some st => promoteGrafts s st.rows
  | none => s

/-- Item 7: the requests of a failed step keep what they held; the third failure in a row ends one (R248, R451). -/
def rollBack (s : State) (st : Step) : State :=
  let s := st.commits.foldl (fun s c => setCommit s c.1 c.2) s
  st.rows.foldl (fun s r => if r.dead then s else modReq s r.req fun q => if q.gen = r.gen then failRow q r else q) s

/-- Item 8: a completed step's rows committed. -/
def commitStep (s : State) (st : Step) : State :=
  st.rows.foldl (fun s r => if r.dead then s else modReq s r.req fun q =>
    if q.gen ≠ r.gen || (q.state == 7 && 1 < q.endReason) then q
    else
      let n := commitRow { q with fails := 0 } r st.gateTime
      if q.state == 7 then { n with state := 7 } else n) s

/-- Pages of a speculative step after its accept (R255 steps 4 and 5). -/
def acceptPages (s : State) (q new : Request) : State :=
  (reqPages s q).foldl (fun s x =>
    if new.seqLen ≤ 32 * x.2.1 then dropEntry s q x
    else if q.seqLen < 32 * x.2.1 + 32 then setCommit s x.2.2 (min 32 (new.seqLen - 32 * x.2.1)) else s) s

/-- An end that an accept brings: its final reply is late, or its request pruned, when COMPLETE_DL has passed (R260). -/
def acceptEnd (s : State) (t k : Nat) (a : Request) : State :=
  if a.ending.isNone then setReq s k (appendReq a)
  else
    let s := missEnd (setReq s k { a with ending := none }) k t
    modReq s k fun q => if q.ending.isSome then q else { q with ending := a.ending, finalLate := isPast q.completeDl t }

/-- Item 9: pending accepts and appends, for a delivery time. -/
def item9 (s : State) (t : Nat) : State :=
  s.serve.reqs.foldl (fun s r =>
    if r.2.ending.isSome then s
    else
      let a := acceptReq r.2
      acceptEnd (if r.2.accept.isSome && r.2.state == 4 then acceptPages s r.2 a else s) t r.1 a) s

/-- Items 7 to 9 for the step that has ended, if there was one; the token logs follow (R291). -/
def settleStep (s : State) (t : Nat) : State :=
  let s := match s.serve.cur with
    | none => s
    | some st => if st.failed.isSome then rollBack s st else commitStep s st
  let s := item9 s t
  s.serve.reqs.foldl (fun s r => writeLog s r.1) s

/-! ### Items 10 to 15 -/

/-- Item 13: the requests that end leave. -/
def leaveReqs (s : State) : State := finishAll (modAllReqs s fun _ q => enterEnding q)

/-- Items 13 and 14, with what else leaves at a boundary: grafts, models and contexts (R277, R278, R320). -/
def leave (s : State) : State := freeIdle (endCloses (endRemovals (freeGrafts (leaveReqs s))))

/-- The page table of a request, with no page (R253), and its token log: in the near tier, and in the far tier where there is one with
room, unless its copy there still stands (R291). -/
def newTable (s : State) (k : Nat) (q : Request) : Option State :=
  let n := reqLayers s q * q.ptCap * 4
  (takeRun s 1 (ptBlocks s q)).bind fun t => (takeRun t.2 1 (logBlocks q)).map fun l =>
    let f := if capOf s 2 = 0 || q.logFar.isSome then none else takeRun l.2 2 (logBlocks q)
    let u := match f with
      | some x => x.2
      | none => l.2
    let far := match f with
      | some x => some x.1
      | none => q.logFar
    writeLog (setReq (charge (st u 1 (t.1 * 65536) (List.replicate n 0xFF)) 0 0 n) k
      { q with ptAddr := some (t.1 * 65536), logNear := some l.1, logFar := far, logged := 0 }) k

/-- One reused block: a reference on each layer's page, marked in the page table, and a user of its entry (R282). -/
def reuseBlock (k : Nat) (s : State) (x : Nat × Nat) : State :=
  match look s.graft.pfx x.1, reqAt s k with
  | some e, some q =>
    let s := (e.pages.zip (List.range e.pages.length)).foldl (fun s p => ptSet (addRef s p.1) q p.2 x.2 (p.1 + 2 ^ 31)) s
    let s := modPfx s x.1 fun e => { e with users := e.users + 1, lastUse := stepCount s }
    modReq s k fun q => { q with lastHash := e.hash, blocks := x.2 + 1, seqLen := 32 * (x.2 + 1), pfx := q.pfx ++ [x.1] }
  | _, _ => s

/-- An admission takes effect: capacity borrowed by SCAVENGER requests returns, the page table, the final probe (R241, R282, R283).
Without near-tier room for the page table it waits. -/
def admitOne (peers : List BoundaryRec) (s : State) (k : Nat) : State :=
  match reqAt s k with
  | none => s
  | some q =>
    if !q.admitting || q.ending.isSome then s
    else match look s.models q.model with
      | none => s
      | some m =>
        let need := pagesNeeded (layersOf m) q.promptLen (probeKeys s m q.graft q.ctx q.tokens).1.length
        let own := q.cls == 0 && (match ctxOf s q.ctx with
          | some x => decide (heldPages s q.ctx + need ≤ x.pageReserve)
          | none => false)
        let s := if own then (preemptUntil s fun t => decide (need ≤ freePool t)).getD s else s
        match newTable s k q with
        | none => s
        | some s =>
          let p := probe s m q.graft q.ctx q.tokens
          let r := peerReuse s peers k p.1.length
          let s := ((p.1.take r).zip (List.range r)).foldl (reuseBlock k) p.2
          let s := bump64 s rPFX_PERF r
          let id := reqIdOf k q.gen
          let s := modRecord s q.model fun p =>
            { p with reuse := p.reuse ++ [(id, r)],
                     admitted := if k < 32768 then p.admitted ++ [(id, q.ctx, q.admission.pkt.payload)] else p.admitted }
          let s := modReq s k fun q => { q with admitting := false }
          match reqAt s k with
          | some q => if (farPages s q).isEmpty then s else park s k
          | none => s

/-- The deferred queue served from its head while each request fits (R242). -/
def serveQueue (peers : List BoundaryRec) (s : State) : Nat → State
  | 0 => s
  | n + 1 =>
    match s.serve.queue with
    | [] => s
    | k :: rest =>
      let next := fun (s : State) => { s with serve := { s.serve with queue := rest } }
      match reqAt s k with
      | none => serveQueue peers (next s) n
      | some q =>
        match look s.models q.model with
        | none => serveQueue peers (next s) n
        | some m =>
          let need := pagesNeeded (layersOf m) q.promptLen (probeKeys s m q.graft q.ctx q.tokens).1.length
          match preemptUntil s fun t => decide (need ≤ mayPages t q.cls) with
          | none => s
          | some t =>
            let t := next t
            let t := { t with serve := { t.serve with nextOrder := t.serve.nextOrder + 1 } }
            let t := modReq t k fun q =>
              { q with state := 2, admitting := true, queuePos := 0, order := t.serve.nextOrder - 1 }
            serveQueue peers (admitOne peers t k) n

/-- Item 15: admissions decided since the last boundary, in their order, then the queue, whose positions are renewed. -/
def item15 (peers : List BoundaryRec) (s : State) : State :=
  let due := sortBy (fun r => r.2.order) (s.serve.reqs.filter fun r => r.2.admitting)
  let s := due.foldl (fun s r => admitOne peers s r.1) s
  let s := serveQueue peers s (s.serve.queue.length + 1)
  (s.serve.queue.zip (List.range s.serve.queue.length)).foldl (fun s x => modReq s x.1 fun q => { q with queuePos := x.2 + 1 }) s

/-- Items 6 to 15 for a delivery time `t`. -/
def toItem15 (peers : List BoundaryRec) (s : State) (t : Nat) : State :=
  let carried := match s.serve.cur with
    | some st => if st.failed.isSome then [] else (st.rows.filter fun r => !r.dead).map (·.req)
    | none => []
  let s := peers.foldl (fun s p => takeLead s false p) (item6 s)
  let s := registerAll (settleLost (settleStep (startRecords s) t))
  let s := scanGrace (scanDeadlines s t carried) t
  let s := peers.foldl takeEnds (noteEnds s)
  let s := promoteParked (settleFull (settleSpills (leave s)))
  item15 peers { s with serve := { s.serve with cur := none } }

/-! ### Items 16 to 18 -/

/-- The pages a held request needs for its next positions. -/
def stalledWants (s : State) (q : Request) : List (Nat × Nat) :=
  pagesWanted s q q.seqLen (if q.resume = 3 then 1 + q.drafts.length else min (q.target - q.seqLen) (32 - q.seqLen % 32))

/-- Pages for one request; without them it enters STALL, or stays there, and pages of others may be spilled (R256). -/
def allocFor (t : Nat) (s : State) (k : Nat) (wants : List (Nat × Nat)) : State :=
  match getPages s k wants with
  | (s, true) => modReq s k fun q => if q.state = 5 then { q with state := q.resume, stallSince := 0 } else q
  | (s, false) =>
    match reqAt s k with
    | none => s
    | some q =>
      let left := (wants.filter fun w => ptGet s q w.1 w.2 == noPage).length
      let s := spillFor s k q (left - (s.serve.pages.filter fun p => p.2.spill).length)
      modReq s k fun q => if q.state = 5 then q else { q with state := 5, stallSince := t }

/-- The pages that rows of the next step need, for a class. -/
def allocRows (s : State) (t cls : Nat) (pick : Row → Bool) : State :=
  match s.serve.next with
  | none => s
  | some st => (st.rows.filter pick).foldl (fun s r => match rowReqOf s r with
      | some q => if q.cls == cls && (q.state == 2 || q.state == 3) && q.ending.isNone && q.ptAddr.isSome then
          allocFor t s r.req (pagesWanted s q r.first r.count) else s
      | none => s) s

/-- Item 16: within each class STALL requests first, then the rows of the next step. -/
def item16 (s : State) (t : Nat) : State :=
  [0, 1, 2].foldl (fun s cls =>
    let held := sortBy (fun r => r.2.order) (s.serve.reqs.filter fun r => r.2.state == 5 && r.2.cls == cls && r.2.ending.isNone)
    allocRows (held.foldl (fun s r => allocFor t s r.1 (stalledWants s r.2)) s) t cls fun _ => true) s

/-- A row no longer stands for what its request has to do (R245). -/
def rowDead (s : State) (r : Row) : Bool :=
  match rowReqOf s r with
  | none => true
  | some q =>
    r.dead || q.ending.isSome || !(q.state == 2 || q.state == 3) || q.admitting || q.ptAddr.isNone || q.seqLen != r.first
    || !modelServes s q.model || (!r.drafts.isEmpty && q.state != 3)
    || (if r.sample then r.first + r.count != q.tokens.length + r.drafts.length else q.target < r.first + r.count)

/-- Item 17 for some rows: the dead ones found, and COMMIT of the pages that the others append to noted (R245, R248). -/
def item17 (s : State) (pick : Row → Bool) : State :=
  match s.serve.next with
  | none => s
  | some st =>
    let rows := st.rows.map fun r => if pick r then { r with dead := rowDead s r } else r
    let cs := st.commits ++ (rows.filter pick).flatMap fun r => if r.dead then [] else match rowReqOf s r with
      | some q => (reqPages s q).filterMap fun x =>
          if r.first < 32 * x.2.1 + 32 ∧ 32 * x.2.1 < r.first + r.count then
            (pageAt s x.2.2).map fun p => (x.2.2, pageCommit s p) else none
      | none => []
    { s with serve := { s.serve with next := some { st with rows := rows, commits := cs } } }

/-! ### The records of the next step (item 17, R184, R245, R272) -/

/-- A page location entry (R184), and the sink. -/
def sinkLoc : Nat := 2 ^ 31
def pageLoc (s : State) (q : Request) (l j : Nat) : Nat :=
  let e := ptGet s q l j
  match if e = noPage then none else pageAt s (pageId e) with
  | some p => p.space * 2 ^ 30 + p.addr / 65536
  | none => sinkLoc

/-- The token positions of rows, in order: row and offset. -/
def rowToks (rows : List Row) : List (Row × Nat) := rows.flatMap fun r => (List.range r.count).map fun o => (r, o)

/-- A row record and its page list. A dead row has NKEYS = 0. Where the template keeps queries, outputs, partials and statistics, its
windows, and where firmware keeps the lists, the spec does not say: those fields are free (log 7). -/
def writeRowRec (s : State) (d : Bytes) (base : Nat) (x : (Row × Nat) × Nat) : State :=
  let r := x.1.1
  let f := fun (j m : Nat) => Config.free (base + 8 * x.2 + j) % m
  let q := if r.dead then none else rowReqOf s r
  let keys := if q.isSome then r.first + r.count else 0
  let list := f 0 (2 ^ 26) * 4
  let locs := match q with
    | some q => (List.range (ceilDiv keys 32)).map (pageLoc s q (kLAYER d))
    | none => []
  let b := toLE 4 list ++ toLE 4 keys ++ toLE 4 (r.first + x.1.2) ++ toLE 4 (f 1 (2 ^ 32)) ++ toLE 4 (f 2 (2 ^ 22) * 64)
    ++ toLE 4 (f 3 (2 ^ 22) * 64) ++ toLE 4 (f 4 (2 ^ 22) * 64) ++ toLE 4 (f 5 (2 ^ 25) * 8)
  st (st s 0 list (locs.flatMap (toLE 4))) 0 (kREC d + 32 * x.2) b

/-- The pieces of a row by page: page index, first position in the page, positions. -/
def rowPieces (r : Row) : List (Nat × Nat × Nat) :=
  if r.count = 0 then []
  else (List.range ((r.first + r.count - 1) / 32 - r.first / 32 + 1)).map fun i =>
    let j := r.first / 32 + i
    let a := max r.first (32 * j)
    (j, a - 32 * j, min (r.first + r.count) (32 * j + 32) - a)

/-- The append records of rows in a layer: location, first position, positions; a dead row's name the sink. -/
def appendRecs (s : State) (rows : List Row) (l : Nat) : List (Nat × Nat × Nat) :=
  rows.flatMap fun r => (rowPieces r).map fun p => match if r.dead then none else rowReqOf s r with
    | some q => (pageLoc s q l p.1, p.2)
    | none => (sinkLoc, p.2)

/-- The sampled positions of rows, with the row. -/
def sampledToks (rows : List Row) : List (Row × Nat) :=
  rows.flatMap fun r => if !r.sample then [] else if r.drafts.isEmpty then [(r, r.count - 1)] else (List.range r.count).map fun o => (r, o)

/-- A row parameter record (Table 7.7): the request's own key, salt and parameters; the position is that of the token drawn. -/
def samplerRec (s : State) (x : Row × Nat) : Bytes :=
  match rowReqOf s x.1 with
  | some q => toLE 8 q.seed.toNat ++ toLE 4 q.salt.toNat ++ toLE 4 (x.1.first + x.2 + 1) ++ toLE 4 q.temp.toNat ++ toLE 2 q.topK ++ zeros 2
      ++ toLE 4 q.topP.toNat ++ zeros 4
  | none => zeros 32

/-- The pointer of a row's request to its graft's vectors at a site (R272). -/
def graftPtr (s : State) (site : Nat) (x : Row × Nat) : Nat :=
  let none_ := 0xFFFFFFFF
  match (rowReqOf s x.1).bind fun q => if q.graft = 0 || bit 31 q.graft then none else findGraft s q.graft with
  | none => none_
  | some (i, _) =>
    match s.graft.hot.find? fun h => h.2.1 == i with
    | none => none_
    | some h =>
      let a := hotSlot h.1
      let es := (List.range (num (ld s 0 a 64) 12 2)).map fun e => ld s 0 (a + 64 + 16 * e) 16
      match es.find? fun e => num e 0 1 == site with
      | some e => a + num e 4 4
      | none => none_

/-- The records that a task of a step's instance reads, written for the model's rows in their order. What stands beyond them has no row:
NKEYS = 0, the sink, the rootstock. Which site a GRAFT task serves is the template's (log 7). -/
def writeTaskRecs (s : State) (m : Model) (g : Nat) (rows : List Row) (k : Nat) (d : Bytes) : State :=
  let base := s.fresh
  let none_ : Row × Nat := ({ (default : Row) with dead := true }, 0)
  let fill := fun {α : Type} (l : List α) (n : Nat) (z : α) => ((List.range n).map fun r => (l.getD r z, r))
  if dEngine d = 2 && kOP d < 2 then
    (fill (rowToks rows) (kROWS d) none_).foldl (fun s x => writeRowRec s d base x) { s with fresh := base + 2 ^ 20 }
  else if dEngine d = 2 && kOP d = 2 then
    (fill (appendRecs s rows (kLAYER d)) (kROWS d) (sinkLoc, 0, 1)).foldl (fun s x =>
      st s 0 (kREC d + 16 * x.2) (toLE 4 x.1.1 ++ toLE 1 x.1.2.1 ++ toLE 1 x.1.2.2 ++ zeros 2
        ++ toLE 4 (Config.free (base + x.2) % 2 ^ 22 * 64) ++ zeros 4)) { s with fresh := base + 2 ^ 20 }
  else if dEngine d = 6 then
    (fill (sampledToks rows) (sROWS d) none_).foldl (fun s x => st s 0 (sPARAM d + 32 * x.2) (samplerRec s x.1)) s
  else if dEngine d = 3 && vOP d = 0x30 && m.sites.length != 0 then
    (fill (rowToks rows) (vROWS d) none_).foldl (fun s x =>
      st s 0 (vS1 d + 4 * x.2) (toLE 4 (graftPtr s (Config.rank (2 * g) k % m.sites.length) x.1))) s
  else s

/-- The records of one instance of the step. -/
def writeInstRecs (rows : List Row) (s : State) (n : Nat) : State :=
  match instOf s n with
  | none => s
  | some i =>
    match s.graphs.find? fun g => g.2.tier == i.tier && g.2.addr == i.addr with
    | none => s
    | some (g, ig) =>
      match look s.models ig.model with
      | none => s
      | some m =>
        (List.range i.hdr.tasks).foldl (fun s k => writeTaskRecs s m g (modelRows s rows ig.model) k (taskOf s i k)) s

/-- The records of the step that is about to be released (item 17). -/
def writeRecords (s : State) : State := match s.serve.next with
  | some st => st.insts.foldl (writeInstRecs st.rows) s
  | none => s

/-- Item 18: the records stand, the step counter advances and the step is in flight (R264). -/
def release (s : State) : State :=
  let s := writeRecords s
  match s.serve.next with
  | none => s
  | some st =>
    let c := (stepCount s + 1) % 2 ^ 48
    let s := wr64 s rSTEP_COUNT c
    let s := st.rows.foldl (fun s r => if r.dead then s else modReq s r.req fun q =>
      { q with stepLast := c % 2 ^ 32, drafts := q.drafts.drop r.drafts.length }) s
    let s := bump64 s (rSERVE_PERF + 16) (reqsIn s 5)
    let s := { s with serve := { s.serve with cur := some st, next := none } }
    if c = 0 then notifyAll s 0x0A1B 0 [] else s

/-- Models whose exchange the next step needs: placements of several modules with rows, or with requests another module leads. -/
def exchangeModels (s : State) : List Nat :=
  let rows := match s.serve.next with
    | some st => st.rows.filterMap fun r => (reqAt s r.req).map (·.model)
    | none => []
  let led := s.serve.reqs.filterMap fun r => if 32768 ≤ r.1 then some r.2.model else none
  (dedup (rows ++ led)).filter fun n => match look s.models n with
    | some m => 1 < (placement s m).length && !(s.serve.exchange.any fun x => x.1 == n)
    | none => false

/-- Every other member's record has come. -/
def exchangeDone (s : State) (peers : List BoundaryRec) (n : Nat) : Bool :=
  match look s.models n with
  | some m => (placement s m).all fun c => c == myCode s || peers.any fun p => p.code == c && p.model == m.modelId
  | none => true

/-- Rows that the lead carries in the next step, taken into this module's (R262). -/
def leadRows (s : State) (p : BoundaryRec) : List Row :=
  match recModel s p with
  | none => []
  | some (_, m) =>
    if isLead s m || p.code != leadOf s m then []
    else p.rows.map fun x =>
      { req := keyHere s m x.1, gen := x.1 / 32768, first := x.2.1, count := x.2.2.1, drafts := x.2.2.2.1, sample := x.2.2.2.2,
        dead := false }

def addLeadRows (s : State) (peers : List BoundaryRec) : State :=
  let old := match s.serve.next with
    | some st => st.rows
    | none => []
  let new := (peers.flatMap (leadRows s)).filter fun r => !(old.any fun o => o.req == r.req)
  if new.isEmpty || !mayForm s || !stepRoom s (old ++ new) then s
  else
    let s := match s.serve.next with
      | none => formFrom s new false
      | some st => stepInsts s { st with rows := old ++ new } ((rowModels s new).filter fun n => !(rowModels s old).contains n)
    promoteGrafts s (old ++ new)

/-- Requests a record holds have their rows dead here. -/
def deadHeld (s : State) (peers : List BoundaryRec) : State :=
  let keys := peers.flatMap fun p => match recModel s p with
    | some (_, m) => p.held.map (keyHere s m)
    | none => []
  { s with serve := { s.serve with
      next := s.serve.next.map fun st => { st with rows := st.rows.map fun r => { r with dead := r.dead || keys.contains r.req } } } }

/-- Item 18, unless an exchange is still awaited; one awaited already keeps its start. -/
def tryRelease (s : State) (peers : List BoundaryRec) : State :=
  let wait := (exchangeModels s).filter fun n => !exchangeDone s peers n
  let s := { s with serve := { s.serve with awaited := wait.map fun n =>
    (n, ((s.serve.awaited.find? fun y => y.1 == n).map (·.2)).getD s.time) } }
  if wait.isEmpty then release s else s

/-- Items 16 and 17, then item 18. -/
def toItem18 (peers : List BoundaryRec) (s : State) (t : Nat) : State :=
  let s := item17 (item16 (addLeadRows s peers) t) fun _ => true
  tryRelease (noteRows (deadHeld s peers)) peers

/-! ### The rows of the table -/

/-- The delivery time of the step that ends: its gate, or now. -/
def boundaryTime (s : State) : Nat := match s.serve.cur with
  | some st => st.gateTime
  | none => s.time

/-- What bind-off ends at a boundary, as REQ_PRUNE does: at the first every QUEUED request, and once DRAIN_DL has passed every
request (R421 steps 1 and 2). -/
def bindOffEnds (s : State) : State :=
  match s.power.bindOff with
  | none => s
  | some b =>
    let past := b.drainDl != 0 && b.drainDl < s.time
    let s := modAllReqs s fun k q => if k < 32768 && (past || (!b.queued && q.state == 1)) then endReq q 2 else q
    { s with power := { s.power with bindOff := some { b with queued := true } } }

/-- A MAINT_ENTER that waits: from this boundary on no step is formed (R302). -/
def maintFrom (s : State) : State :=
  if s.tier.maintWant.isEmpty then s else { s with tier := { s.tier with maint := true } }

/-- Items 6 to 18. -/
def boundary (s : State) (peers : List BoundaryRec) : State :=
  let t := boundaryTime s
  toItem18 peers (toItem15 peers (bindOffEnds (maintFrom s)) t) t

/-- The step in flight, if any, has passed its gate and its instances have completed. -/
def boundaryDue (s : State) : Bool := match s.serve.cur with
  | none => true
  | some st => st.gated && instsDone s st

/-- Firmware runs: the device is active after READY, and no hand-over is in progress. -/
def firmwareRuns (s : State) : Bool := s.trust.ready && !s.trust.recovery && s.power.dev == .active && s.trust.handover.isNone

/-- The bed targets are due: at a step boundary, and while no step is in flight 1 ms after they were last set (R406). -/
def policyDue (s : State) : Bool :=
  boundaryDue s && s.power.dev == .active && (s.serve.cur.isSome || s.power.policyAt + 25000 ≤ s.time)

/-- The targets are set (R406). -/
def execBedTargetPolicy (forecast : List Nat) (s : State) : Host.Outcome State Fault Refusal :=
  .next (if policyDue s then bedPolicy { s with power := { s.power with policyAt := s.time } } forecast else s)

/-- Item 5 with an activation pending: the running image writes its state, which holds the step formed, and the service cores start on
the new one (R435). -/
def startHandover (s : State) : State :=
  match s.trust.pending with
  | none => s
  | some i =>
    let s := bump s rSEC_HANDOVERS 31 0 1
    { s with trust := { s.trust with handover := some s.time, m2 := sha256 (s.trust.m2 ++ i.digest) } }

/-- The step that was formed, given up: its instances are voided, their tasks signalling, and leave (R227). -/
def dropNext (s : State) : State :=
  match s.serve.next with
  | none => s
  | some st =>
    let s := st.insts.foldl (fun s n => tryComplete (voidRest s n) n) s
    { s with serve := { s.serve with next := none, rerun := if st.forceRef then some st.rows else s.serve.rerun } }

/-- A request whose reuse here exceeds the smallest count carried gives up the blocks beyond it (R283). -/
def trimReuse (s : State) (peers : List BoundaryRec) (m : Model) (x : Nat × Nat) : State :=
  let k := keyHere s m x.1
  let r := peerReuse s peers k x.2
  match reqAt s k with
  | none => s
  | some q =>
    if x.2 ≤ r || q.gen ≠ x.1 / 32768 then s
    else
      let s := ((reqPages s q).filter fun y => r ≤ y.2.1).foldl (fun s y => dropEntry s q y) s
      let s := unholdPfx s (q.pfx.drop r)
      modReq s k fun q => { q with seqLen := 32 * r, blocks := r, pfx := q.pfx.take r,
                                   lastHash := if r = 0 then 0 else (chainHashes m.modelId q.graft q.tokens r).getLastD 0 }

/-- The reuse counts of this boundary's admissions brought to the smallest carried. -/
def trimAll (s : State) (peers : List BoundaryRec) : State :=
  s.serve.records.foldl (fun s p => match recModel s p with
    | some (_, m) => p.reuse.foldl (fun s x => trimReuse s peers m x) s
    | none => s) s

/-- Rows of requests that a record ends, or whose positions it has moved, are dead (R245, R262, R283). -/
def deadMoved (s : State) (peers : List BoundaryRec) : State :=
  let ends := peers.flatMap fun p => match recModel s p with
    | some (_, m) => p.ended.map fun x => keyHere s m x.1
    | none => []
  { s with serve := { s.serve with next := s.serve.next.map fun st => { st with rows := st.rows.map fun r =>
      { r with dead := r.dead || ends.contains r.req || (match rowReqOf s r with
          | some q => q.seqLen != r.first
          | none => false) } } } }

/-- The records that were awaited arrive (R262, R283): what they carry is applied, the lead's admissions and rows are taken in, and the
step is released. A command that came meanwhile waits for the next boundary (R247). -/
def exchangeArrives (s : State) (peers : List BoundaryRec) : State :=
  let s := peers.foldl takeEnds (peers.foldl (fun s p => takeLead s true p) s)
  let s := (sortBy (fun r => r.2.order) (s.serve.reqs.filter fun r => r.2.admitting && 32768 ≤ r.1)).foldl
    (fun s r => admitOne peers s r.1) s
  let s := deadMoved (trimAll s peers) peers
  let old : List Nat := match s.serve.next with
    | some st => st.rows.map fun (r : Row) => r.req
    | none => []
  let new := fun (r : Row) => !old.contains r.req
  let s := addLeadRows s peers
  let s := item17 ([0, 1, 2].foldl (fun s cls => allocRows s s.time cls new) s) new
  tryRelease (deadHeld s peers) peers

def stepBoundary (s : State) (peers : List BoundaryRec) : State :=
  if !firmwareRuns s then s
  else if !s.serve.awaited.isEmpty then exchangeArrives s peers
  else if !boundaryDue s then s
  else if s.trust.pending.isSome then startHandover s
  else answerMaint (boundary s peers)

/-- No step is in flight, formed, or awaited. -/
def idleServe (s : State) : Bool := s.serve.cur.isNone && s.serve.next.isNone && s.serve.awaited.isEmpty

/-- A step formed as soon as there is a row (R244). -/
def stepFormOnDemand (s : State) : State :=
  if !firmwareRuns s || !idleServe s || s.trust.pending.isSome then s
  else
    let t := formStep (toItem15 [] s s.time) s.time
    match t.serve.next with
    | none => s
    | some st => toItem18 [] (promoteGrafts t st.rows) s.time

def execStepFormOnDemand (s : State) : Host.Outcome State Fault Refusal := .next (stepFormOnDemand s)

/-- Deadlines and grace judged every 25,000 ticks while no step is in flight, with items 13 and 14 (R244); what leaves at a step boundary
waits for one. -/
def idleDeadlineScan (s : State) : State :=
  if !firmwareRuns s || !idleServe s || s.time < s.serve.lastScan + 25000 then s
  else
    let s := scanGrace (scanDeadlines { s with serve := { s.serve with lastScan := s.time } } s.time []) s.time
    freeIdle (leaveReqs { s with serve := { s.serve with lateEnds := s.serve.lateEnds ++ endsNow s } })

def execIdleDeadlineScan (s : State) : Host.Outcome State Fault Refusal := .next (idleDeadlineScan s)

/-- Rows of a model in the next step made dead. -/
def deadModel (s : State) (n : Nat) : State :=
  { s with serve := { s.serve with next := s.serve.next.map fun st => { st with rows := st.rows.map fun r =>
      { r with dead := r.dead || (match reqAt s r.req with
          | some q => q.model == n
          | none => true) } } } }

/-- A member of a model's placement cannot be reached over any link: its exchange fails (R367, R380). -/
def exchangeBroken (s : State) (n : Nat) : Bool := match look s.models n with
  | some m => (placement s m).any fun c => c != myCode s && (nextHop s c).isNone
  | none => true

/-- The exchange of a model has failed, or has not completed 100 µs after it began (R262, R380). -/
def exchangeTimeout (s : State) (n : Nat) : State :=
  match s.serve.awaited.find? fun x => x.1 == n with
  | none => s
  | some x =>
    if s.time < x.2 + 2500 && !exchangeBroken s n then s
    else
      let s := deadModel s n
      let s := { s with serve := { s.serve with awaited := s.serve.awaited.filter fun y => y.1 != n,
                                                exchange := (n, s.time) :: s.serve.exchange } }
      if s.serve.awaited.isEmpty then release s else s

def execBoundaryExchangeTimeout (model : Nat) (s : State) : Host.Outcome State Fault Refusal := .next (exchangeTimeout s model)

/-- A failed exchange tried again every 1 ms: with every record the union is applied and the model's rows return (R380). -/
def exchangeRetry (s : State) (n : Nat) (peers : List BoundaryRec) (ok : Bool) : State :=
  match s.serve.exchange.find? fun x => x.1 == n with
  | none => s
  | some x =>
    let others := s.serve.exchange.filter fun y => y.1 != n
    if s.time < x.2 + 25000 then s
    else if !ok || !exchangeDone s peers n then { s with serve := { s.serve with exchange := (n, s.time) :: others } }
    else
      let s := { s with serve := { s.serve with exchange := others } }
      peers.foldl takeEnds (peers.foldl (fun s p => takeLead s true p) s)

def execBoundaryExchangeRetry (model : Nat) (peers : List BoundaryRec) (ok : Bool) (s : State) : Host.Outcome State Fault Refusal :=
  .next (exchangeRetry s model peers ok)

/-- Pages of PARKED and SCAVENGER requests marked for spilling while near-tier free pages are below SPILL_LOW (R256). -/
def backgroundSpill (s : State) : State :=
  let low := fld s rPAGE_WATER 23 0
  let marked := (s.serve.pages.filter fun p => p.2.spill).length
  if !firmwareRuns s || capOf s 2 = 0 || low ≤ freePages s 1 + marked then s
  else ((coldPages s 0 fun _ q => q.state == 6 || q.cls == 2).take (low - freePages s 1 - marked)).foldl
    (fun s x => markSpill s x.2) s

def execBackgroundSpill (s : State) : Host.Outcome State Fault Refusal := .next (backgroundSpill s)

end Sys2Proof.Machine
end

