-- ==== Sys2Proof/Machine/RegWrite.lean ====
section
/-! DEFINITION. REG_WRITE and what a write sets in motion, the writes that have rows of their own, and CFG_COMMIT (13, 15). -/

namespace Sys2Proof.Machine

/-! ### What a stored pair sets in motion -/

/-- The bits a pair writes: one for an alias, all for a word (R390). -/
def pairMask (addr : Nat) : Nat := if isAlias addr then 2 ^ aliasBit addr else allBits

/-- A partition's buckets of a resource, one for each link of the trellis links, above a new BURST are cut to it (R300). -/
def cutBuckets (s : State) (res p : Nat) : State :=
  (resources res).foldl (fun s q => match look s.tier.buckets (q * 8 + p) with
    | none => s
    | some k =>
      let c := min k.1 (rd s (rREG res p + 8) * 16384 : Nat)
      { s with tier := { s.tier with buckets := put s.tier.buckets (q * 8 + p) (c, k.2) } }) s

/-- The regulator a word belongs to. -/
def regulatorOf (a : Nat) : Option (Nat × Nat) :=
  ((List.range 4).flatMap fun res => (List.range 8).map fun p => (res, p)).find? fun x => rREG x.1 x.2 ≤ a && a < rREG x.1 x.2 + 12

/-- The actions of a pair that has been stored: `m` the bits it wrote, `acts` the WO bits it wrote 1. -/
def regAct (s : State) (a m acts : Nat) : State :=
  if rLINK_CTL 0 ≤ a && a ≤ rLINK_CTL 10 then linkCtlAct s ((a - rLINK_CTL 0) / 4) (bit 1 acts) (bit 0 m)
  else if rBED_CTL 0 ≤ a && a ≤ rBED_CTL 12 then (if bit 7 acts then raiseBed s ((a - rBED_CTL 0) / 4) else s)
  else match regulatorOf a with
    | some x => cutBuckets s x.1 x.2
    | none => s

/-- The pairs of a payload applied in order: the state, and the index of the pair that failed (R385, R339). -/
def writePairs (s : State) : Nat → List (Nat × Nat) → State × Option Nat
  | _, [] => (s, none)
  | i, (a, v) :: ps =>
    match storeReg s a v with
    | none => (s, some i)
    | some (s, w, acts) => writePairs (regAct s w (pairMask a) acts) (i + 1) ps

/-! ### The host port's registers, after the reply (R339, R347) -/

/-- The port loses its link (R345, R467). -/
def portLost (s : State) : State :=
  if !portUp s then s
  else
    let s := setFld (setFld s rHP_STAT 2 0 0) rHP_STAT 7 4 0
    let s := { s with kct := { s.kct with waiting := [] } }
    { s with ras := { s.ras with downSince := some s.time, downSeen := false } }

/-- The static addresses, in force in that mode; with neither set the port holds the IPv4 address 0 (log 23). -/
def takeStatic (s : State) : State :=
  let v6 := ((rd s rHP_IPV6 * 2 ^ 32 + rd s (rHP_IPV6 + 4)) * 2 ^ 32 + rd s (rHP_IPV6 + 8)) * 2 ^ 32 + rd s (rHP_IPV6 + 12)
  let a4 := if rd s rHP_IPV4 = 0 && v6 != 0 then none else some (rd s rHP_IPV4)
  let a6 := if v6 = 0 then none else some v6
  setFld { s with kct := { s.kct with addr4 := a4, addr6 := a6, router4 := rd s rHP_GW4 } } rHP_STAT 3 3 1

/-- The port asks for addresses, the module's serial its client identifier (R312). -/
def dhcpRequest (s : State) : State :=
  if fld s rHP_CFG2 15 15 = 1 then s else put1 (put1 s (.dhcp 4 s.fuses.serial)) (.dhcp 6 s.fuses.serial)

/-- The host port's registers whose writes act after the reply (R339, R347). -/
def portRegs : List Nat := [rHP_CFG, rHP_CFG2, rHP_IPV4, rHP_GW4] ++ (List.range 4).map (fun i => rHP_IPV6 + 4 * i) ++ [rTOKEN0]

/-- What changed host-port registers do once the reply has been sent: the words held back give way to the new ones, and the addresses of
DHCP are given up, or asked for, when the mode changes. -/
def portApply (s : State) : State :=
  let same := fun (a : Nat) => hpWord s a == BitVec.ofNat 32 (rd s a)
  let mode := hpFld s rHP_CFG2 15 15
  let pmd := hpFld s rHP_CFG2 31 30
  let still := ([rHP_CFG2, rHP_IPV4, rHP_GW4] ++ (List.range 4).map fun i => rHP_IPV6 + 4 * i).all same
  let s := { s with kct := { s.kct with held := [] } }
  let s :=
    if fld s rHP_CFG2 15 15 = 1 then (if still then s else takeStatic s)
    else if mode = 1 then
      dhcpRequest (setFld { s with kct := { s.kct with addr4 := none, addr6 := none, router4 := 0, router6 := 0 } } rHP_STAT 3 3 0)
    else s
  if pmd = fld s rHP_CFG2 31 30 then portResumes s
  else portLost { s with kct := { s.kct with portRetrain := true } }

/-- The writes held back act as soon as nothing waits behind a pause. -/
def portSettle (s : State) : State :=
  if s.kct.held.isEmpty || !s.kct.waiting.isEmpty then s else portApply s

/-! ### REG_WRITE -/

/-- The host port's words that writes have changed from `s` to `t` stay in force as they were before the first of them, until it acts. -/
def heldWords (s t : State) : List (Nat × W32) :=
  (portRegs.filter fun a => rd t a != rd s a).foldl (fun h a => if (look h a).isSome then h else put h a (hpWord s a)) s.kct.held

/-- The address and value pairs of a payload. -/
def pairsOf (pl : Bytes) (n : Nat) : List (Nat × Nat) := (List.range n).map fun i => (num pl (4 + 8 * i) 4, num pl (8 + 8 * i) 4)

def regWrite (s : State) (r : Req) : State :=
  let pl := r.pkt.payload
  let n := num pl 0 4
  if n = 0 ∨ 1023 < n then fail s r stParam
  else
    let w := writePairs s 0 (pairsOf pl n)
    let u := { w.1 with kct := { w.1.kct with held := heldWords s w.1 } }
    portSettle (match w.2 with
      | none => fail u r stOK
      | some i => replyTo u r stParam (min i 255) (toLE 4 i))

def execRegWrite (p : Pkt) (s : State) : Host.Outcome State Fault Refusal :=
  .next (receive s opRWRITE p regWrite)

/-! ### Writes that have rows of their own: REG_WRITE of one pair -/

/-- A packet whose payload is one pair. -/
def onePair (p : Pkt) (a v : Nat) : Pkt :=
  let pl := toLE 4 1 ++ toLE 4 a ++ toLE 4 v
  { p with payload := pl, hdr := { p.hdr with plen := pl.length } }

def execLinkCtlRetrain (p : Pkt) (n : Nat) (v : W32) (s : State) : Host.Outcome State Fault Refusal :=
  .next (receive s opRWRITE (onePair p (rLINK_CTL (n % 11)) (setBits 1 1 v.toNat 1)) regWrite)

def execLinkCtlEnable (p : Pkt) (n : Nat) (en : Bool) (s : State) : Host.Outcome State Fault Refusal :=
  .next (receive s opRWRITE (onePair p (rLINK_CTL (n % 11)) (b2n en)) regWrite)

def execBedCtlWake (p : Pkt) (b : Nat) (v : W32) (s : State) : Host.Outcome State Fault Refusal :=
  .next (receive s opRWRITE (onePair p (rBED_CTL (b % 13)) (setBits 7 7 v.toNat 1)) regWrite)

def execBedCtlTarget (p : Pkt) (b : Nat) (v : W32) (s : State) : Host.Outcome State Fault Refusal :=
  .next (receive s opRWRITE (onePair p (rBED_CTL (b % 13)) (setBits 7 7 v.toNat 0)) regWrite)

def execRegulatorRateWrite (p : Pkt) (res : Nat) (part : Nat) (v : W32) (s : State) : Host.Outcome State Fault Refusal :=
  .next (receive s opRWRITE (onePair p (rREG (res % 4) (part % 8)) v.toNat) regWrite)

/-! ### CFG_COMMIT (R394) -/

/-- MODE 0: the result of a fresh scan becomes the reference. -/
def cfgCommit (s : State) (r : Req) : State :=
  if !allZero r.pkt.payload 1 3 then fail s r stParam
  else
    let s := commitCfg s
    replyTo s r stOK 0 (toLE 4 (rd s rCFG_REF))

def execCfgCommit (p : Pkt) (s : State) : Host.Outcome State Fault Refusal :=
  .next (receive s opCFG (withByte p 0 0) cfgCommit)

/-- MODE 1: only a result equal to REF is committed. -/
def cfgCommitRef (s : State) (r : Req) : State :=
  let pl := r.pkt.payload
  let v := checkValue s
  if !allZero pl 1 3 then fail s r stParam
  else if v ≠ num pl 4 4 then replyTo (wr s rCFG_CUR v) r stDrift 0 (toLE 4 v)
  else replyTo (commitCfg s) r stOK 0 (toLE 4 v)

def execCfgCommitRef (p : Pkt) (s : State) : Host.Outcome State Fault Refusal :=
  .next (receive s opCFG (withByte p 0 1) cfgCommitRef)

end Sys2Proof.Machine
end

