-- ==== Sys2Proof/Machine/Tiers.lean ====
section
/-! DEFINITION. The tiers in service: scrubbing, write-back, recalibration, HBM_REPAIR, maintenance, and the loss of a stack or a
package (12). -/

namespace Sys2Proof.Machine

/-! ### What a loss of near-tier content ends (R306 steps 1, 5 and 6) -/

/-- Every step and graph instance in flight completes with FAULT_UNCORRECTABLE, its tasks signalling; a step formed and not yet
released is given up. -/
def haltWork (s : State) : State :=
  let s := dropNext s
  let ns := s.disp.insts.map (·.num)
  let s := ns.foldl (fun s n => failInst s n stFault 0xFFFFFFFF) s
  let run := s.disp.window
  let s := { s with disp := { s.disp with window := [] }, arr := { arrays := [], slots := [] }, coll := { s.coll with runs := [] } }
  let s := run.foldl (fun s x => match instOf s x.2.inst with
    | some i => signalTask (modInst s i.num fun i => { i with ended := i.ended + 1 }) i x.2.desc
    | none => s) s
  ns.foldl tryComplete s

/-- The lowest position of a request's pages in a space. -/
def firstIn (s : State) (q : Request) (sp : Nat) : Option Nat :=
  (sortBy id ((reqPages s q).filterMap fun x => match pageAt s x.2.2 with
    | some p => if p.space = sp then some (32 * x.2.1) else none
    | none => none)).head?

/-- Requests that list a page of a space fall back to the first position no other page covers (R452). -/
def fallFrom (s : State) (sp : Nat) : State :=
  s.serve.reqs.foldl (fun s r => match firstIn s r.2 sp with
    | some p => fallBack s r.1 r.2 p
    | none => s) s

/-- The request's token log does not survive the near tier: it has no copy in the far tier (R291, R309). -/
def logLost (s : State) (q : Request) : Bool := capOf s 2 = 0 || (q.logNear.isSome && q.logFar.isNone)

/-- Every request whose token log is lost ends with END_REASON 8, without pages (R309, R451). -/
def endLost (s : State) : State :=
  s.serve.reqs.foldl (fun s r =>
    if !logLost s r.2 then s
    else
      let s := (reqPages s r.2).foldl (fun s x => dropRef s x.2.2) s
      modReq s r.1 fun q => endReq { q with ptAddr := none, logNear := none, ptCap := 0, sampled := [], spec := [], tent := 0 } 8) s

/-- A request's page-table entries: layer, index, entry. -/
def tableOf (s : State) (q : Request) : List (Nat × Nat × Nat) :=
  (reqPages s q).map fun x => (x.1, x.2.1, ptGet s q x.1 x.2.1)

/-- A request's page table built anew with the entries it had. -/
def remakeTable (s : State) (k : Nat) (es : List (Nat × Nat × Nat)) : State :=
  match reqAt s k with
  | none => s
  | some q =>
    if q.ptAddr.isNone then s
    else match newTable s k q with
      | none => modReq (dropLog s q 2 q.logFar) k fun q =>
          endReq { q with ptAddr := none, logNear := none, logFar := none, ptCap := 0 } 6
      | some t => match reqAt t k with
        | some q => es.foldl (fun s e => ptSet s q e.1 e.2.1 e.2.2) t
        | none => t

/-- Segmented commands whose staged payload is lost fail as reads of it would. -/
def dropStaged (s : State) : State :=
  let lost := s.kct.inX.filter fun x => x.staging.isSome
  let s := { s with kct := { s.kct with inX := s.kct.inX.filter fun x => x.staging.isNone } }
  lost.foldl (fun s x => fail s x.req stFault) s

/-- A pending activation is cancelled: its copy lay in the activation region (R434). -/
def cancelActivation (s : State) : State :=
  if s.trust.pending.isNone || s.trust.handover.isSome then s
  else record { s with trust := { s.trust with pending := none } } { code := 0x0905, sev := 1, unit := 13 }

/-! ### Artefacts and the install mirror (R291, R306 step 4) -/

/-- An installed model's near-tier artefacts: place and size. -/
def partsOf (s : State) (m : Model) : List (Nat × Nat) :=
  nearParts s (m.graphs.filterMap fun g => (look s.graphs g).map fun x => (x.tier, x.addr)) m.images

/-- What a rebuild needs to know from before the wipe. -/
def allParts (s : State) : List (Nat × List (Nat × Nat)) := s.models.map fun m => (m.1, partsOf s m.2)

/-- Artefacts can be restored: each has its mirror, which decodes, and its place still exists. -/
def restorable (s : State) (ps ms : List (Nat × Nat)) : Bool :=
  ps.length == ms.length && (ps.zip ms).all fun x =>
    x.1.1 + x.1.2 ≤ capOf s 1 && !inReserved s 1 x.1.1 x.1.2 && !badIn s 2 (x.2.1 * 65536) x.1.2

/-- One artefact copied back, its blocks context 0's again. -/
def restoreOne (s : State) (x : (Nat × Nat) × (Nat × Nat)) : State :=
  let a := x.1.1
  let n := x.1.2
  let s := firmCopy s 2 (x.2.1 * 65536) n 1 a
  let s := charge (charge s 1 0 n) 0 0 n
  (List.range ((a + n - 1) / 65536 - a / 65536 + 1)).foldl (fun s i => grantBlock s 0 1 (a / 65536 + i)) s

/-- A model's near-tier artefacts restored from the mirror; where they cannot be, the model is lost and its requests end. -/
def restoreModel (s : State) (x : Nat × List (Nat × Nat)) : State :=
  match look s.models x.1 with
  | none => s
  | some m =>
    if x.2.isEmpty then s
    else if restorable s x.2 m.mirror then (x.2.zip m.mirror).foldl restoreOne s
    else
      let s := match m.mirror.findSome? fun y => firstBad s 2 (y.1 * 65536) (y.2 * 65536) with
        | some u => readUe s 2 u {}
        | none => s
      let s := m.mirror.foldl dropMirror s
      modAllReqs { s with models := put s.models x.1 { m with lost := true, mirror := [] } } fun _ q =>
        if q.model = x.1 then endReq q 8 else q

/-- The registry restored, at its place now; a vector graft without a mirror is lost, and so is a delta graft, whose image stood in its
context's blocks (log 42). -/
def restoreGraft (s : State) (i : Nat) (g : Graft) : State :=
  let enter := fun (s : State) (g : Graft) => { s with graft := { s.graft with reg := put s.graft.reg i g } }
  if g.delta then enter s { g with unreg := true, size := 0 }
  else
    let put1 := fun (s : State) (g : Graft) => enter s { g with addr := regSlot s i }
    match g.mirror with
    | some b => put1 (charge (charge (firmCopy s 2 (b * 65536) 16384 1 (regSlot s i)) 1 0 16384) 0 0 16384) g
    | none => put1 s { g with unreg := true }

/-! ### The shadow copy (R111, R306 step 3) -/

/-- Every SHADOW_VALID bit cleared, each with its record. -/
def shadowGone (s : State) (dev : Nat) : State :=
  (List.range 96).foldl (fun s lg =>
    if bit (lg % 32) (rd s (rSHADOW_VALID (lg / 32))) then
      record (setFld s (rSHADOW_VALID (lg / 32)) (lg % 32) (lg % 32) 0)
        { code := 0x0107, sev := 1, unit := 14, inst := dev, logical := lg, addr := imageBase s lg, space := 1 }
    else s) s

/-- The tiles of a logical array whose bed is Off are lost: their records in the image do not decode until they are written. -/
def tilesLost (s : State) (lg : Nat) : State :=
  (s.models.flatMap fun m => m.2.ranges.filter fun r => r.1 == lg).foldl (fun s r =>
    (List.range r.2.2).foldl (fun s t => markBad s 1 ((imageBase s lg + slotBytes * (r.2.1 + t)) / 16)) s) s

/-- Every image rebuilt from its slice, where the slice holds it. -/
def shadowBack (s : State) : State :=
  (List.range 96).foldl (fun s lg =>
    if fld s (rARRAY_MAP lg) 7 7 = 0 then s
    else if bedPowered s (physOf s lg / 8) then shadowRebuild s lg .clean
    else tilesLost s lg) s

/-! ### Flash banks and the activation region (R425, R434) -/

/-- Flash banks: 0 and 1 trusted A and B, 2 and 3 untrusted A and B. -/
def trustedBank (k : Nat) : Nat := k % 2
def untrustedBank (k : Nat) : Nat := 2 + k % 2
def bankMem (s : State) (b : Nat) : Memory := (look s.trust.banks b).getD []
/-- A bank's size (Table 17.2). -/
def bankSize (b : Nat) : Nat := if b < 2 then 0x400000 else 0x7000000

/-- An image's bytes written over a range of a space. -/
def copyImage (s : State) (bank sp a : Nat) : State :=
  let s := wipeRange s sp a (bankSize 2)
  { s with mem := setMem s.mem sp ((bankMem s bank).foldl (fun m x => poke m (a + x.1) x.2) (memOf s.mem sp)) }

/-- A half of the activation region (R434). -/
def halfAt (s : State) (h : Nat) : Nat := activationBase s + h * bankSize 2
/-- The running image copied again from its bank after the near tier has been zeroed (R434). -/
def runningBack (s : State) : State :=
  if s.trust.inBoot then s
  else charge (copyImage s (untrustedBank s.trust.selUntr) 1 (halfAt s s.trust.half)) 0 0 (bankSize 2)

/-! ### The near tier rebuilt (R304, R306) -/

/-- A place for the reserved regions that fits: the free choice, else the old one, else the top (log 3). -/
def shadowPlace (s : State) (parts : List (Nat × Nat)) : Nat :=
  let need := nearReserved s
  let ok := fun (b : Nat) => b * mib + need ≤ capOf s 1 && parts.all fun p => !overlap p.1 p.2 (b * mib) need
  let c := Config.place s.fresh
  if ok c then c
  else if ok (fld s rSHADOW_BASE 19 0) then fld s rSHADOW_BASE 19 0
  else (capOf s 1 - need) / mib

/-- NT_INFO for a set of stacks. -/
def setStacks (s : State) (l : List Nat) : State := wr s rNT_INFO (32 * l.length * 65536 + l.length * 4096 + ofBits l)

/-- RATE of every partition of the near tier scaled from one number of stacks to another (R306). -/
def scaleRates (s : State) (old new : Nat) : State :=
  (List.range 8).foldl (fun s p => wr s (rREG 0 p) (rd s (rREG 0 p) * new / max 1 old)) s

/-- A block that has lost its owner; withdrawn it stays, unless its failing rows have been repaired (R295, R306). -/
def disowned (b : Nat × Block) : Option (Nat × Block) :=
  if b.2.withdrawn && !b.2.repaired then some (b.1, { noBlock with withdrawn := true }) else none

/-- The near tier zeroed: nothing is in it, and every block loses its owner. -/
def zeroNear (s : State) : State :=
  { s with mem := { s.mem with near := [], bad := s.mem.bad.filter fun x => x.1 != 1 },
           blocks := s.blocks.filterMap fun b => if b.1 / 2 ^ 32 = 1 then disowned b else some b,
           graft := { s.graft with owed := [] },
           tier := { s.tier with writebacks := s.tier.writebacks.filter fun x => x.1 != 1 } }

/-- The procedure of R306 that leaves the stacks `l` in service, after the loss of `dev` (or, after a test access, of none). -/
def rebuildNear (s : State) (l : List Nat) (dev : Nat) : State :=
  let old := stackCount s
  let parts := allParts s
  let s := cancelActivation (dropStaged (haltWork s))
  let s := purgePfx s fun _ => true
  let s := freeIdle (fallFrom (endLost s) 1)
  let tables := s.serve.reqs.map fun r => (r.1, tableOf s r.2)
  let s := shadowGone s dev
  let s := setStacks (zeroNear s) l
  let s := if l.isEmpty then s
           else wr { s with fresh := s.fresh + 1 } rSHADOW_BASE (shadowPlace s (parts.flatMap (·.2)))
  let s := scaleRates s old l.length
  let s := if l.isEmpty then s else shadowBack (runningBack s)
  let s := parts.foldl restoreModel s
  let s := s.graft.reg.foldl (fun s g => restoreGraft s g.1 g.2) s
  let s := tables.foldl (fun s t => remakeTable s t.1 t.2) (tokRegion { s with graft := { s.graft with tokRun := none } })
  let s := deviceCommit s
  notifyAll s 0x0A19 2 (toLE 1 1 ++ toLE 1 dev ++ toLE 8 (capOf s 1))

/-- A near-tier stack goes out of service (R305, R306, R308). -/
def loseStack (s : State) (k : Nat) : State :=
  if !stackIn s k || s.power.dev == .off then s
  else
    let l := (stackList s).filter (· != k)
    let s := record s { code := 0x0504, sev := 2, unit := 14, inst := k, space := 1 }
    let s := rebuildNear s l k
    if l.length < 4 then failModule s 14 else s

def execStackLoss (stack : Nat) (s : State) : Host.Outcome State Fault Refusal := .next (loseStack s stack)

/-! ### The far tier (R305, R307, R308) -/

def setPackages (s : State) (l : List Nat) : State := wr s rFT_INFO (l.length * 2 ^ 24 + ofBits l)

/-- Every mirror copy given up. -/
def dropMirrors (s : State) : State :=
  let s := s.models.foldl (fun s m => m.2.mirror.foldl dropMirror s) s
  let s := s.graft.reg.foldl (fun s g => match g.2.mirror with
    | some b => dropMirror s (b, 1)
    | none => s) s
  { s with models := s.models.map fun m => (m.1, { m.2 with mirror := [] }),
           graft := { s.graft with reg := s.graft.reg.map fun g => (g.1, { g.2 with mirror := none }) } }

/-- The install mirror written again from the near tier. -/
def writeMirrors (s : State) : State :=
  let s := s.models.foldl (fun s m =>
    let ps := partsOf s m.2
    match mirrorAll s ps with
    | some x => { x.1 with models := put x.1.models m.1 { m.2 with mirror := x.2 } }
    | none => s) s
  s.graft.reg.foldl (fun s g =>
    if g.2.delta then s
    else match mirrorOf s (regSlot s g.1) 16384 with
      | some x => { x.2 with graft := { x.2.graft with reg := put x.2.graft.reg g.1 { g.2 with mirror := x.1.map (·.1) } } }
      | none => s) s

/-- The far copy of every token log given up, and written again where the far tier has room (R307). -/
def dropFarLogs (s : State) : State :=
  s.serve.reqs.foldl (fun s r => modReq (dropLog s r.2 2 r.2.logFar) r.1 fun q => { q with logFar := none }) s
def makeFarLog (s : State) (k : Nat) (q : Request) : State :=
  if q.logNear.isNone || capOf s 2 = 0 then s
  else match takeRun s 2 (logBlocks q) with
    | none => s
    | some x =>
      let bs := tokBytes (q.tokens.take q.logged)
      modReq (charge (st x.2 2 (x.1 * 65536) bs) 1 0 bs.length) k fun q => { q with logFar := some x.1 }

/-- The far tier zeroed; blocks beyond its new end, or in the region reserved there, are no one's. -/
def zeroFar (s : State) : State :=
  let gone := fun (b : Nat × Block) => b.1 / 2 ^ 32 == 2 &&
    (capOf s 2 < (b.1 % 2 ^ 32 + 1) * 65536 || overlap (b.1 % 2 ^ 32 * 65536) 65536 (reservedOf s 2).1 (reservedOf s 2).2)
  { s with mem := { s.mem with far := [], bad := s.mem.bad.filter fun x => x.1 != 2 },
           blocks := s.blocks.filterMap fun b => if gone b then disowned b else some b,
           tier := { s.tier with writebacks := s.tier.writebacks.filter fun x => x.1 != 2, farUe := [], scrubFar := 0 } }

/-- A far-tier package goes out of service. Steps in flight continue. -/
def losePackage (s : State) (k : Nat) : State :=
  if !pkgIn s k || s.power.dev == .off then s
  else
    let s := record s { code := 0x0504, sev := 2, unit := 15, inst := k, space := 2 }
    let s := freeIdle (fallFrom (purgePfx s fun _ => true) 2)
    let s := dropFarLogs (dropMirrors s)
    let s := zeroFar (setPackages s ((pkgList s).filter (· != k)))
    let s := s.serve.reqs.foldl (fun s r => makeFarLog s r.1 r.2) (writeMirrors s)
    let s := tokRegion s
    notifyAll s 0x0A19 2 (toLE 1 2 ++ toLE 1 k ++ toLE 8 (capOf s 2))

def execPackageLoss (pkg : Nat) (s : State) : Host.Outcome State Fault Refusal := .next (losePackage s pkg)

/-- The package in which one pin has met uncorrectable errors in two blocks of this scrub period (R305). -/
def pinLoss (s : State) : Option Nat :=
  (s.tier.farUe.find? fun x => s.tier.farUe.any fun y => x.1 == y.1 && x.2.1 == y.2.1 && x.2.2 != y.2.2).map (·.1)

/-- That package goes out of service: at the next tick, or at the scrub that found the second error. -/
def dropPackages (s : State) : State :=
  match pinLoss s with
  | some k => losePackage s k
  | none => s

/-! ### Scrubbing (R293–R296) -/

/-- What a scrub read of a line meets; of a line of a shadow image, the image is invalid besides (R111, R294). -/
def scrubLine (s : State) (sp line : Nat) (e : Ecc) : State :=
  let s := match e with
    | .uncorrectable p a => if p = sp ∧ a / 64 = line then markBad s sp (a / 16) else s
    | _ => s
  let ce := match e with
    | .corrected p a => p == sp && a / 64 == line
    | _ => false
  let img := (line * 64 - shadowBase s) / 2 ^ 25
  match firstBad s sp (line * 64) 64 with
  | some x =>
    let s := readUe s sp x {}
    if sp = 1 ∧ shadowBase s ≤ x ∧ img < 96 then shadowBit s img x else s
  | none => if ce then readCe s sp (line * 64) else s

/-- The scrubber's next line; past the last it begins a new period. -/
def patrolScrub (s : State) (t : Tier) (e : Ecc) : State :=
  let sp := match t with
    | .near => 1
    | .far => 2
  let on := if sp = 1 then fld s rNT_CTL 0 0 else fld s rFT_CTL 0 0
  let lines := capOf s sp / 64
  if on = 0 ∨ lines = 0 ∨ s.power.dev ≠ .active then s
  else
    let line := if sp = 1 then s.tier.scrubNear else s.tier.scrubFar
    let nxt := if lines ≤ line + 1 then 0 else line + 1
    let s := if line < lines then scrubLine s sp line e else s
    let s := if sp = 1 then { s with tier := { s.tier with scrubNear := nxt, rowCe := if nxt = 0 then [] else s.tier.rowCe } }
             else { s with tier := { s.tier with scrubFar := nxt } }
    let s := dropPackages s
    if sp = 2 ∧ nxt = 0 then { s with tier := { s.tier with farUe := [] } } else s

def execPatrolScrub (tier : Tier) (ecc : Ecc) (s : State) : Host.Outcome State Fault Refusal := .next (patrolScrub s tier ecc)

/-- The write-back of a corrected line completes. The model's line already reads corrected, and a write that came between has
already replaced it, so nothing but the pending write-back goes. -/
def tierWriteback (s : State) (t : Tier) (line : Nat) : State :=
  let sp := match t with
    | .near => 1
    | .far => 2
  { s with tier := { s.tier with writebacks := s.tier.writebacks.filter fun x => !(x.1 == sp && x.2 == line) } }

def execTierWriteback (tier : Tier) (line : Nat) (s : State) : Host.Outcome State Fault Refusal := .next (tierWriteback s tier line)

/-! ### Recalibration (R301, R305) -/

/-- A channel's recalibration ends: the third failure in a row puts its stack or package out of service. -/
def channelRecal (s : State) (t : Tier) (dev chan : Nat) (ok : Bool) : State :=
  let near := t == .near
  let here := if near then stackIn s dev && chan < 32 else pkgIn s dev && chan < 4
  let key := (if near then 0 else 4096) + dev * 32 + chan
  if !here || s.power.dev != .active then s
  else if ok then { s with tier := { s.tier with recalBad := del s.tier.recalBad key } }
  else
    let n := (look s.tier.recalBad key).getD 0 + 1
    if n < 3 then { s with tier := { s.tier with recalBad := put s.tier.recalBad key n } }
    else
      let s := { s with tier := { s.tier with recalBad := del s.tier.recalBad key } }
      if near then loseStack s dev else losePackage s dev

def execChannelRecal (tier : Tier) (dev : Nat) (chan : Nat) (ok : Bool) (s : State) : Host.Outcome State Fault Refusal :=
  .next (channelRecal s tier dev chan ok)

/-! ### HBM_REPAIR (R302–R304, R346) -/

/-- What every operation checks: its own fields, maintenance where it needs it, and that its stack is in service. -/
def hbmFault (s : State) (pl : Bytes) (fields maint stack : Bool) : Option Nat :=
  if !allZero pl 2 2 || (stack && 8 ≤ num pl 1 1) || !fields then some stParam
  else if maint && !inMaint s then some stParam
  else if stack && !stackIn s (num pl 1 1) then some stNoObj
  else none

/-- ROWS_LEFT per bank, channel-major, then the soft and hard repairs of the stack. -/
def hbmQuery (s : State) (r : Req) : State :=
  let k := num r.pkt.payload 1 1
  match hbmFault s r.pkt.payload true false true with
  | some x => fail s r x
  | none =>
    let left := (List.range 32).flatMap fun c => (List.range 64).flatMap fun b => toLE 1 (spareRows s k c b)
    let count := fun (l : List (Nat × Nat × Nat × Nat)) => (l.filter fun x => x.1 == k).length
    replyTo s r stOK 0 (left ++ toLE 2 (count s.tier.soft) ++ toLE 2 (count s.tier.hard))

def execHbmQuery (p : Pkt) (s : State) : Host.Outcome State Fault Refusal := .next (receive s opHBM (withByte p 0 0) hbmQuery)

def rowFieldsOk (pl : Bytes) : Bool := num pl 4 1 < 32 && num pl 5 1 < 64 && allZero pl 6 2 && num pl 8 4 < 16384
def rowNamed (pl : Bytes) : Nat × Nat × Nat × Nat := (num pl 1 1, num pl 4 1, num pl 5 1, num pl 8 4)

/-- A row repaired, soft or hard; its content is kept. -/
def repairRow (hard : Bool) (s : State) (r : Req) : State :=
  let pl := r.pkt.payload
  let x := rowNamed pl
  match hbmFault s pl (rowFieldsOk pl) hard true with
  | some st => fail s r st
  | none =>
    if spareRows s x.1 x.2.1 x.2.2.1 = 0 then fail s r stNoObj
    else fail { s with tier := if hard then { s.tier with hard := x :: s.tier.hard } else { s.tier with soft := x :: s.tier.soft } } r stOK

def execSoftRow (p : Pkt) (s : State) : Host.Outcome State Fault Refusal :=
  .next (receive s opHBM (withByte p 0 1) (repairRow false))

def execHardRow (p : Pkt) (s : State) : Host.Outcome State Fault Refusal :=
  .next (receive s opHBM (withByte p 0 2) (repairRow true))

/-- Every soft repair of a stack made permanent. -/
def commitStack (s : State) (k : Nat) : State :=
  { s with tier := { s.tier with hard := (s.tier.soft.filter fun x => x.1 == k) ++ s.tier.hard,
                                 soft := s.tier.soft.filter fun x => x.1 != k } }

def commitSoft (s : State) (r : Req) : State :=
  let k := num r.pkt.payload 1 1
  match hbmFault s r.pkt.payload true true true with
  | some x => fail s r x
  | none => replyTo (commitStack s k) r stOK 0 (toLE 2 (s.tier.soft.filter fun x => x.1 == k).length ++ zeros 2)

def execCommitSoft (p : Pkt) (s : State) : Host.Outcome State Fault Refusal := .next (receive s opHBM (withByte p 0 3) commitSoft)

/-- An instruction and data shifted through a stack's IEEE 1500 port; what the stack shifts out is free (log 1). -/
def testAccess (s : State) (r : Req) : State :=
  let pl := r.pkt.payload
  let k := num pl 1 1
  let n := num pl 8 2
  match hbmFault s pl (n ≤ 32768 && allZero pl 10 2) true true with
  | some x => fail s r x
  | none =>
    let f := takeFree s
    let s := { f.2 with tier := { f.2.tier with tested := if f.2.tier.tested.contains k then f.2.tier.tested else k :: f.2.tier.tested } }
    replyTo s r stOK 0 (toLE (ceilDiv n 8) (f.1 % 2 ^ n))

def execTestAccess (p : Pkt) (s : State) : Host.Outcome State Fault Refusal := .next (receive s opHBM (withByte p 0 4) testAccess)

/-- Maintenance asked for: with no step in flight no step is formed from now on, else from the next boundary on. -/
def maintEnter (s : State) (r : Req) : State :=
  match hbmFault s r.pkt.payload true false false with
  | some x => fail s r x
  | none =>
    answerMaint { s with tier := { s.tier with maintWant := s.tier.maintWant ++ [r], maint := s.tier.maint || idleServe s } }

def execMaintEnter (p : Pkt) (s : State) : Host.Outcome State Fault Refusal := .next (receive s opHBM (withByte p 0 5) maintEnter)

/-- Maintenance left. After a test access the channels of the stack are retrained and the near tier is rebuilt. -/
def maintExit (s : State) (r : Req) : State :=
  match hbmFault s r.pkt.payload true true false with
  | some x => fail s r x
  | none =>
    let s := match s.tier.tested with
      | k :: _ => rebuildNear { s with tier := { s.tier with tested := [] } } (stackList s) k
      | [] => s
    fail { s with tier := { s.tier with maint := false } } r stOK

def execMaintExit (p : Pkt) (s : State) : Host.Outcome State Fault Refusal := .next (receive s opHBM (withByte p 0 6) maintExit)

def retireStack (s : State) (r : Req) : State :=
  match hbmFault s r.pkt.payload true false true with
  | some x => fail s r x
  | none => fail (loseStack s (num r.pkt.payload 1 1)) r stOK

def execRetireStack (p : Pkt) (s : State) : Host.Outcome State Fault Refusal := .next (receive s opHBM (withByte p 0 7) retireStack)

end Sys2Proof.Machine
end

