-- ==== Sys2Proof/Machine/Caston.lean ====
section
/-! DEFINITION. Flash, images and cast-on: from power good to READY (16, 17, R416–R419, R425–R431, R445, R478, R479). -/

namespace Sys2Proof.Machine

/-! ### Flash banks and images (R425, R427, R428) -/

/-- A bank's place in the flash (Table 17.2). -/
def bankAddr (b : Nat) : Nat := match b with
  | 0 => 0
  | 1 => 0x400000
  | 2 => 0x2000000
  | _ => 0x9000000

/-- The bytes a signature covers: header and body (R428). -/
def signedLen (h : Bytes) : Nat := 256 + num h 12 4

/-- The header as Table 17.4 requires it of a kind (0 trusted, 1 untrusted). -/
def imageHeadOk (kind : Nat) (h : Bytes) : Bool :=
  num h 0 4 == 0x3131584B && num h 4 2 == 1 && num h 7 1 < 4 && allZero h 35 29 && allZero h 112 144
  && num h 12 4 ≤ (if kind = 0 then 229376 else 117424032) && num h 8 4 ≤ (if kind = 0 then 64 else 256)
  && (if kind = 0 then allZero h 24 9 && num h 34 1 < 16 && !bit (num h 7 1) (num h 34 1) else num h 30 1 != 0 && num h 34 1 == 0)

/-- What a header says, with the measurement of its image. -/
def imageOf (h digest : Bytes) : Image :=
  { build := BitVec.ofNat 64 (num h 16 8), svn := num h 8 4, fmtMin := num h 24 2, fmtMax := num h 26 2, kctMin := num h 28 1,
    kctMax := num h 29 1, hoOut := num h 30 1, hoMin := num h 31 1, hoMax := num h 32 1, revoke := num h 34 1, digest := digest }

/-- The check of R428 over a bank's bytes: the image, or the result code of STAGE_RESULT (Table 17.8). -/
def verifyImage (s : State) (kind : Nat) (m : Memory) : Except Nat Image :=
  let h := peeks m 0 256
  if !imageHeadOk kind h then .error 1
  else if num h 6 1 ≠ kind then .error 6
  else
    let slot := num h 7 1
    let key := sliceOf h 64 48
    if bit slot s.fuses.revoked || sha256 key != s.fuses.keyDigests.getD slot [] then .error 2
    else if num h 8 4 < (if kind = 0 then s.fuses.trustedSvn else s.fuses.untrustedSvn) then .error 4
    else if !bit (if s.fuses.stepA1 then 1 else 2) (num h 33 1) then .error 5
    else
      let d := sha256 (peeks m 0 (signedLen h))
      if Config.verify key d (peeks m (signedLen h) 16224) then .ok (imageOf h d) else .error 3

/-- The image of a bank, if valid: for a bank written since manufacture by R428, for one that was not by what the cast-on met. -/
def bankImage (s : State) (b : Nat) (ok : Bool) : Option Image :=
  if !ok then none
  else match look s.trust.banks b with
    | none => some { Image.zero with digest := zeros 32 }
    | some m => (verifyImage s (if b < 2 then 0 else 1) m).toOption

/-! ### The port configuration record (R426, Table 17.3) -/

/-- A record with its CRC. -/
def portSealed (b : Bytes) : Bytes := b ++ toLE 4 (crc32c b)
/-- The defaults of the table. -/
def portDefault : Bytes := portSealed (toLE 2 1 ++ toLE 2 47311 ++ zeros 6 ++ toLE 2 9216 ++ zeros 240)

/-- The ranges of Table 17.3. -/
def portRecordOk (b : Bytes) : Bool :=
  b.length == 256 && num b 0 2 == 1 && num b 4 2 < 4095 && Nat.land (num b 6 1) 0x78 == 0 && num b 7 1 < 3 && num b 8 1 < 2
  && num b 9 1 ≤ 32 && 1280 ≤ num b 10 2 && num b 10 2 ≤ 9216 && (num b 40 1 == 0 || num b 40 1 == 4 || num b 40 1 == 6)
  && num b 41 1 == 0 && allZero b 60 192 && num b 252 4 == crc32c (b.take 252)

/-- A big-endian word. -/
def beWord (b : Bytes) (o : Nat) : Nat := ofLE ((sliceOf b o 4).reverse)

/-- The host port's registers and context 0's subscription as the record has them. -/
def applyPort (s : State) (b : Bytes) : State :=
  let s := wr s rHP_CFG (num b 2 2 * 65536 + num b 4 2 * 16 + num b 6 1 / 128 * 8 + num b 6 1 % 8)
  let s := wr s rHP_CFG2 (num b 7 1 * 2 ^ 30 + num b 9 1 * 65536 + num b 8 1 * 32768 + num b 10 2)
  let s := wr (wr s rHP_IPV4 (beWord b 12)) rHP_GW4 (beWord b 16)
  let s := (List.range 4).foldl (fun s i => wr s (rHP_IPV6 + 4 * i) (beWord b (20 + 4 * i))) s
  let fam := num b 40 1
  if fam = 0 then s
  else modCtx s 0 fun c => { c with sub := some { mask := num b 36 4, dst := endpointOf fam (sliceOf b 44 16) (num b 42 2), seq := 1,
                                                  queue := [], lost := 0 } }

/-- The port comes up: its status, and the address of its mode (R311, R312, Table 13.14). -/
def portStart (s : State) (up : Bool) (addr : Option Endpoint) : State :=
  let s := if fld s rHP_CFG2 15 15 = 1 then takeStatic s
    else match addr with
      | some e => setFld { s with kct := if e.fam = 4 then { s.kct with addr4 := some e.addr } else { s.kct with addr6 := some e.addr } }
                    rHP_STAT 3 3 1
      | none =>
        if !up then s
        else   -- ADDR_OK reads 1 once READY has been sent with the port up (R347); DHCP's address is free (log 1)
          let f := takeFree s
          setFld { f.2 with kct := { f.2.kct with addr4 := some (f.1 % 2 ^ 32) } } rHP_STAT 3 3 1
  let s := if up then dhcpRequest s else s
  if up then setFld (setFld s rHP_STAT 7 4 15) rHP_STAT 2 0 (if fld s rHP_CFG2 31 30 < 2 then 7 else 3)
  else { s with ras := { s.ras with downSince := some s.time } }

/-! ### The repair map at cast-on (R387, R417) -/

/-- Logical units placed on physical ones: as the repair map had them, and where that unit no longer serves, on the lowest spare. -/
def mapKind (s : State) (kind : Nat) (old : Nat → Option Nat) : State :=
  let n := if kind = 0 then 96 else 16
  let ok := fun (p : Nat) => p < unitCount kind && !s.ras.retired.contains (kind, p)
  let keep := (List.range n).map fun l => (l, if ok ((old l).getD l) then some ((old l).getD l) else none)
  let used := keep.filterMap (·.2)
  let place := keep.foldl (fun (acc : List (Nat × Option Nat) × List Nat) x => match x.2 with
    | some p => (acc.1 ++ [(x.1, some p)], acc.2)
    | none => match leastBelow (fun p => ok p && !acc.2.contains p) (unitCount kind) with
      | some p => (acc.1 ++ [(x.1, some p)], p :: acc.2)
      | none => (acc.1 ++ [(x.1, none)], acc.2)) ([], used)
  let s := (List.range (unitCount kind)).foldl (fun s p =>
    setLogical (setUnitState s kind p (if ok p then 0 else 3)) kind p (noLogical kind)) s
  place.1.foldl (fun s x => match x.2 with
    | some p => mapUnit (setLogical (setUnitState s kind p 1) kind p x.1) kind x.1 (some p)
    | none => mapUnit s kind x.1 none) s

/-- The units of a kind that the march or the swatch found bad, retired. -/
def retireBad (s : State) (kind : Nat) (bad : List Nat) : State :=
  bad.foldl (fun s a => { s with ras := { s.ras with
    retired := if s.ras.retired.contains (kind, a) then s.ras.retired else (kind, a) :: s.ras.retired } }) s

/-- The records a cast-on writes after READY for the units it retires. -/
def badRecs (s : State) (kind : Nat) (bad : List Nat) : List FaultRec :=
  (bad.filter fun a => !s.ras.retired.contains (kind, a)).map fun a => { code := 0x0802, sev := 2, unit := kind, inst := a }

/-! ### The fault ring at cast-on (R445) -/

/-- A record of an earlier life. -/
def asPrior (b : Bytes) : Bytes := b.set 19 (BitVec.ofNat 8 (Nat.lor (num b 19 1) 4))

/-- The saved records in their order, then the trip record of always-on memory, and SEQ continued. -/
def restoreRing (s : State) (saved : List Bytes) (trip : Option Bytes) : State :=
  let top := saved.foldl (fun m b => max m (num b 0 4)) 0
  let nxt := if top + 1 = 2 ^ 32 then 1 else top + 1
  let s := { s with ras := { s.ras with
    ring := (List.range saved.length).zip (saved.map asPrior), nextIdx := saved.length % 256, nextSeq := nxt } }
  match trip with
  | some b => pushRecord s (toLE 4 nxt ++ (asPrior b).drop 4)
  | none => s

/-! ### The stages (Table 16.7) -/

/-- BOARD_ID from what the board-identity device answers: four bytes and their complement, else 0 (R479). -/
def boardIdOf (b : Option Bytes) : W32 :=
  match b with
  | some b => if b.length == 8 && (b.take 4).map (~~~ ·) == b.drop 4 then BitVec.ofNat 32 (num b 0 4) else 0
  | none => 0

/-- Everything as power good leaves it, with what outlives a cast-on: fuses, flash, the repair map, and what was sent. -/
def castBase (s : State) (c : CastOn) : State :=
  let kept := s.blocks.filterMap fun b =>
    if b.2.withdrawn && !b.2.repaired then some (b.1, { noBlock with withdrawn := true }) else none
  { State.reset with
      pending := s.pending, time := c.ticks, fresh := s.fresh, fuses := s.fuses, blocks := kept
      kct := { Kct.zero with sent := s.kct.sent }
      tier := { Tiers.zero with soft := s.tier.soft, hard := s.tier.hard }
      power := { Power.zero with enOpen := s.power.enOpen, mainSwitch := s.power.mainSwitch, due := false }
      link := { State.reset.link with map := s.trust.mapRecord }
      trust := { s.trust with staged := [], m0 := [], m1 := [], m2 := [], pending := none, handover := none, half := 0,
                              inBoot := false, casting := true, recovery := false, stopped := false, bootCode := 0, attests := [],
                              ready := false, revokedAt := s.fuses.revoked }
      ras := { Ras.zero with retired := s.ras.retired, bankMap := s.ras.bankMap,
                             banksBad := s.ras.banksBad, bankDrops := s.ras.bankDrops, sliceRows := s.ras.sliceRows, marchFull := s.ras.fullNext }
      pins := { s.pins with removeOk := false, amber := false, boardId := boardIdOf c.idBytes } }

/-- Straps, units, banks, tiers and the reserved regions. -/
def castUnits (old : State) (c : CastOn) (s : State) : State :=
  let s := setFld (setFld s rLINK_INFO 18 16 c.slot) rLINK_INFO 21 19 c.boardPos
  let s := retireBad (retireBad s 0 c.badArrays) 1 c.badUnits
  let s := mapKind s 0 fun n => if fld old (rARRAY_MAP n) 7 7 = 1 then some (physOf old n) else none
  let s := mapKind s 1 fun n => if fld old (rATTN_MAP n) 5 5 = 1 then some (fld old (rATTN_MAP n) 4 0) else none
  let s := c.badBanks.foldl replaceBank (bankInfo s)
  let s := setStacks s (bitList 8 c.stackMask)
  let s := if s.fuses.variantB then s else setPackages s (bitList 24 c.pkgMask)
  if stackCount s = 0 then s
  else
    let s := wr { s with fresh := s.fresh + 1 } rSHADOW_BASE (shadowPlace s [])
    (List.range 3).foldl (fun s i => wr s (rSHADOW_VALID i) (2 ^ 32 - 1)) s

/-- The boot area (R430). -/
def bootArea : Nat := 0x9000000
/-- The boot area's blocks withheld from contexts, or returned. -/
def setBoot (s : State) (held : Bool) : State :=
  (List.range 1792).foldl (fun s i => putBlock s 0 (bootArea / 65536 + i) { noBlock with granted := held }) s

/-- The untrusted image of bank `k` (0 A, 1 B) runs from the boot area. -/
def startImage (s : State) (k : Nat) (i : Image) : State :=
  let s := copyImage (setBoot s true) (untrustedBank k) 0 bootArea
  { s with trust := { s.trust with running := i, selUntr := k, m1 := i.digest, m2 := i.digest, inBoot := true, recovery := false } }

/-- The running image moves into the activation region, and the boot area is cleared; with no stack in service it stays (R430). -/
def relocate (s : State) : State :=
  if !s.trust.inBoot || stackCount s = 0 then s
  else
    let s := charge (copyImage s (untrustedBank s.trust.selUntr) 1 (halfAt s 0)) 0 0 (bankSize 2)
    let s := setBoot (wipeRange s 0 bootArea (bankSize 2)) false
    { s with trust := { s.trust with inBoot := false, half := 0 } }

/-- Every trellis link that exists begins bring-up. -/
def startLinks (s : State) : State := (List.range 11).foldl (fun s n => if linkThere s n then bringUp s n false else s) s

/-- READY's RESULT (Table 16.8). -/
def readyResult (s : State) : Nat :=
  if s.trust.recovery || stackCount s < 4 then 2
  else if !s.ras.retired.isEmpty || !s.ras.banksBad.isEmpty || stackCount s < 8 || (!s.fuses.variantB && packages s < 24)
    || (List.range 96).any (fun n => physOf s n != n) || (List.range 16).any (fun n => fld s (rATTN_MAP n) 4 0 != n) then 1
  else 0

/-- READY's body (Table 16.8). -/
def readyBody (s : State) : Bytes :=
  toLE 1 (readyResult s) ++ toLE 1 (if s.fuses.stepA1 then 1 else 2) ++ toLE 1 s.trust.runTrusted ++ toLE 1 (b2n s.ras.marchFull)
  ++ toLE 1 (arraysIn s) ++ toLE 1 (attnIn s) ++ toLE 1 (fld s rCOMMONS_INFO 7 0) ++ toLE 1 (stackCount s) ++ toLE 1 (packages s)
  ++ zeros 3 ++ toLE 4 (s.time / 25000) ++ toLE 8 s.trust.running.build.toNat ++ toLE 8 (capOf s 1) ++ toLE 8 (capOf s 2) ++ zeros 8

/-- The end of cast-on: firmware's commons blocks, the configuration committed, READY, then the records of what was met. -/
def castFinish (s : State) (recs : List FaultRec) : State :=
  let s := if s.trust.inBoot then s else tokRegion (grantRun s 0 0 (hotBase / 65536) 384)
  let s := { s with power := { s.power with dev := .active, idleSince := s.time },
                    trust := { s.trust with casting := false, ready := true } }
  let s := commitCfg s
  let s := notify s 0 0x0A10 0 (readyResult s) (readyBody s)
  let s := (s.ras.ring.filter fun r => num r.2 4 2 == 0x0A02 && s.ras.nextIdx == (r.1 + 1) % 256).foldl
    (fun s r => notify s 0 0x0A11 0 (num r.2 6 1) r.2) s
  let s := recs.foldl record s
  if !s.trust.recovery && stackCount s < 4 then failModule s 14 else s

/-- The record of a flash bank that failed its check. -/
def badBank (b : Nat) : FaultRec := { code := 0x0903, sev := 2, unit := 13, addr := bankAddr b, space := 5 }

/-- The choice between two banks of a kind: the selected one, else the other; with it the banks that failed. -/
def chooseBank (s : State) (sel base : Nat) (ok : List Bool) : Option (Nat × Image) × List Nat :=
  let img := fun (k : Nat) => bankImage s (base + k) (ok.getD k false)
  match img sel with
  | some i => (some (sel, i), [])
  | none => match img (1 - sel) with
    | some i => (some (1 - sel, i), [base + sel])
    | none => (none, [base + sel, base + (1 - sel)])

/-- No trusted bank is valid: cast-on stops (R430, R482). -/
def castStopped (s : State) : State :=
  { s with trust := { s.trust with casting := false, stopped := true, bootCode := 1 },
           pins := { s.pins with removeOk := true, alert := true, amber := true } }

/-- Cast-on from power good (R416). -/
def castOn (s : State) (c : CastOn) : State :=
  if !(s.power.due && s.power.mainSwitch && !s.pins.resetLow && s.power.dev == .off) then s
  else
    let b := restoreRing (castBase s c) s.trust.ringRecord s.power.trip
    let t := chooseBank s (s.trust.selTrusted % 2) 0 c.trustedOk
    match t.1 with
    | none => castStopped b
    | some (k, ti) =>
      let fell := s.trust.trial && k != s.trust.selTrusted % 2
      let u := chooseBank s (s.trust.selUntr % 2) 2 c.untrustedOk
      let other := fun (sel base : Nat) (ok : List Bool) => bankImage s (base + (1 - sel)) (ok.getD (1 - sel) false)
      let ut := match u.1 with
        | some (k, _) => k
        | none => s.trust.selUntr % 2
      let st1 := match other k 0 c.trustedOk with
        | some i => [(1, i)]
        | none => []
      let st0 := match other ut 2 c.untrustedOk with
        | some i => [(0, i)]
        | none => []
      let b := { b with trust := { b.trust with
        trusted := ti, runTrusted := k, selTrusted := k, m0 := ti.digest, armed := false, trial := s.trust.trial && !fell,
        staged := st0 ++ st1, bootCode := if u.1.isNone then 2 else if fell || s.trust.bootCode == 3 then 3 else 0 } }
      let recs := (t.2 ++ u.2).map badBank ++ (if s.trust.bootCode = 3 then [badBank (1 - k)] else [])
        ++ badRecs s 0 c.badArrays ++ badRecs s 1 c.badUnits
      let b := castUnits s c b
      let b := portStart (applyPort b (s.trust.portRecord.getD portDefault)) c.portUp c.address
      match u.1 with
      | none => castFinish { b with trust := { b.trust with recovery := true } } recs
      | some (j, ui) =>
        if b.trust.trial && 1500000000 < c.ticks then b
        else castFinish (relocate (startLinks (startImage b j ui))) recs

def execCastOn (c : CastOn) (s : State) : Host.Outcome State Fault Refusal := .next (castOn s c)

/-- The running image moved out of the boot area once the near tier is ready; after a cold start from recovery mode this completes the
cast-on (R430, R431). -/
def imageRelocate (s : State) : State :=
  if !s.trust.inBoot || !s.trust.casting || s.power.dev != .active then s else castFinish (relocate s) []

def execImageRelocate (s : State) : Host.Outcome State Fault Refusal := .next (imageRelocate s)

end Sys2Proof.Machine
end

