-- ==== Sys2Proof/Machine/Power.lean ====
section
/-! DEFINITION. The device states, POWER_SET and bind-off, the power and thermal limits, and the pins that cast on and reset (16, 19,
R407–R415, R420, R421, R472–R475, R480–R482). -/

namespace Sys2Proof.Machine

/-! ### Quiet (R408–R411) -/

/-- What a request is due next, of what has not been found missed (R259). -/
def nextDues (q : Request) : List Nat :=
  let i := max q.missedTok q.out.length
  (if i < q.maxTokens then [tokenDue q i] else []) ++ (if q.missedEnd then [] else [q.completeDl])

/-- The earliest due time of a request and the earliest expiry of a SYNC_WAIT (R408, R410). -/
def earliestDue (s : State) : Option Nat :=
  let reqs := (s.serve.reqs.filter fun r => r.1 < 32768 && r.2.ending.isNone).flatMap fun r => nextDues r.2
  (sortBy id ((reqs.filter (· != 0)) ++ s.disp.waits.filterMap (·.expires))).head?

/-- Nothing is due within 1 ms. -/
def nothingDue (s : State) : Bool := match earliestDue s with
  | some e => s.time + 25000 < e
  | none => true

/-- What must hold for Quiet (R408). -/
def mayQuiet (s : State) : Bool :=
  firmwareRuns s && s.trust.pending.isNone && fld s rPWR_LIMIT 31 16 != 0 && fld s rPWR_STAT 0 0 == 0
  && idleServe s && s.serve.rerun.isNone && s.disp.insts.isEmpty
  && s.serve.reqs.all (fun r => r.2.state == 4 && r.2.ending.isNone)
  && s.kct.inX.isEmpty && s.kct.outX.isEmpty && !maintHolds s && s.power.bindOff.isNone && nothingDue s

/-- It has held for QUIET_MS. -/
def quietDue (s : State) : Bool := mayQuiet s && s.power.idleSince + fld s rPWR_LIMIT 31 16 * 25000 ≤ s.time

/-- A bed on entry to Quiet: Doze at least, an entry in progress completed, a wake from Doze given up (R409). -/
def quietBed (s : State) (b : Nat) : State :=
  match moveOf s b with
  | .entering d => bedEnter (bedLost s b) b d
  | .waking d => if bedState s b = 3 then setMove s b (.waking d) else bedEnter (bedLost s b) b 2
  | .still => if bedState s b < 2 then bedEnter (bedLost s b) b 2 else s

/-- The steps of R409: the beds doze, the engines lose their contents, the clocks stop. -/
def goQuiet (s : State) : State :=
  let s := (List.range 13).foldl quietBed s
  let w := { s.power with dev := .quiet, quietAt := s.time, windowAt := none, wakeWant := [], idleWant := [] }
  { s with arr := { s.arr with slots := [] }, power := w }

def quietEnter (s : State) : State := if quietDue s && s.power.windowAt.isNone then goQuiet s else s

def execQuietEnter (s : State) : Host.Outcome State Fault Refusal := .next (quietEnter s)

/-- The wake timer has expired. -/
def timerDue (s : State) : Bool := !nothingDue s

/-- A maintenance window begins: Active, with what R408 asks still held (R411). -/
def openWindow (s : State) : State :=
  { s with power := { s.power with dev := .active, windowAt := some s.time } }
def windowDue (s : State) : Bool := s.power.dev == .quiet && s.power.quietAt + 25000000 ≤ s.time

/-- The window begins after 1 s of Quiet, and ends after 20 ms, in Quiet when R408 still holds. -/
def maintenanceWindow (s : State) : State :=
  match s.power.windowAt with
  | none => if windowDue s then openWindow s else s
  | some t =>
    if s.power.dev != .active || s.time < t + 500000 then s
    else if quietDue s then goQuiet s
    else { s with power := { s.power with windowAt := none } }

def execMaintenanceWindow (s : State) : Host.Outcome State Fault Refusal := .next (maintenanceWindow s)

/-- A wake cause takes the device out of Quiet (R410). -/
def quietExit (s : State) (c : WakeCause) : State :=
  match c with
  | .timer => if timerDue s then wakeDevice s else s
  | .window => if windowDue s then openWindow s else s
  | _ => wakeDevice s

def execQuietExit (c : WakeCause) (s : State) : Host.Outcome State Fault Refusal := .next (quietExit s c)

def execQuietWakeTimer (s : State) : Host.Outcome State Fault Refusal := .next (if timerDue s then wakeDevice s else s)

/-! ### Off (R407, R414, R421, R474) -/

/-- Every domain but the always-on domain loses power: the fault ring, the counter, flash and fuses stay, with what the management
endpoint reads. -/
def powerOff (s : State) : State :=
  let z := State.reset
  let s := (List.range 11).foldl (fun s n => setFld (setFld s (rLINK_STAT n) 2 0 0) (rLINK_STAT n) 7 4 0) s
  let s := wr (setFld (setFld s rPWR_STAT 1 0 0) rPWR_STAT 19 16 0) rHP_STAT 0
  { s with
      mem := z.mem, blocks := s.blocks.filter (fun b => b.2.withdrawn), kct := { z.kct with sent := s.kct.sent }, arr := z.arr, disp := z.disp,
      models := [], graphs := [], serve := z.serve, graft := z.graft,
      tier := { z.tier with soft := s.tier.soft, hard := s.tier.hard }
      power := { z.power with trip := s.power.trip, enOpen := s.power.enOpen, mainSwitch := s.power.mainSwitch, due := false,
                              throttleAt := s.power.throttleAt }
      link := { z.link with map := s.link.map }, coll := z.coll
      trust := { s.trust with pending := none, handover := none, inBoot := false, casting := false, recovery := false, stopped := false,
                              attests := [], ready := false }
      ras := { s.ras with retires := [], swatchBad := [], bankCopy := [], regionCe := [], sliceWb := [], march := none, downSince := none,
                          failed := none, collided := [] }
      pins := { s.pins with amber := false } }

/-- The module signals that it may be removed (R482). -/
def mayRemove (s : State) : State := { s with pins := { s.pins with removeOk := true, alert := true } }

/-- The fault ring, oldest record first. -/
def ringInOrder (s : State) : List Bytes :=
  (sortBy (fun r => if r.1 < s.ras.nextIdx then r.1 + 256 else r.1) s.ras.ring).map (·.2)

/-- The fault ring saved to flash (R445). -/
def saveRing (s : State) : State :=
  { s with trust := { s.trust with ringRecord := ringInOrder s }, ras := { s.ras with savedAt := s.time, dirty := none } }

/-- Flash and the repair map outlive a reset of every domain; everything else is as power leaves it (R480). -/
def resetAll (s : State) : State :=
  let z := State.reset
  let maps := (List.range 96).map rARRAY_MAP ++ (List.range 16).map rATTN_MAP
  { z with
      pending := s.pending, fresh := s.fresh, fuses := s.fuses
      regs := maps.foldl (fun m a => pokeReg m a (peekReg s.regs a)) z.regs
      blocks := s.blocks.filter (fun b => b.2.withdrawn), kct := { z.kct with sent := s.kct.sent }
      tier := { z.tier with soft := s.tier.soft, hard := s.tier.hard }
      power := { z.power with enOpen := s.power.enOpen, mainSwitch := s.power.mainSwitch, due := s.power.mainSwitch }
      trust := { z.trust with
        banks := s.trust.banks, selTrusted := s.trust.selTrusted, selUntr := s.trust.selUntr, trial := s.trust.trial,
        armed := s.trust.armed, portRecord := s.trust.portRecord, mapRecord := s.trust.mapRecord, ringRecord := s.trust.ringRecord,
        cfgRecord := s.trust.cfgRecord, records := s.trust.records, cert := s.trust.cert, certSig := s.trust.certSig, idPub := s.trust.idPub }
      ras := { z.ras with retired := s.ras.retired, bankMap := s.ras.bankMap, banksBad := s.ras.banksBad, bankDrops := s.ras.bankDrops, sliceRows := s.ras.sliceRows,
                          fullNext := s.ras.fullNext }
      pins := { z.pins with boardId := s.pins.boardId, resetLow := s.pins.resetLow, tapIr := s.pins.tapIr, hbmSel := s.pins.hbmSel,
                            boundary := s.pins.boundary } }

/-! ### Bind-off (R420, R421) -/

/-- Bind-off begins (R421). -/
def startBindOff (s : State) (req : Option Req) (drain : Nat) : State :=
  let s := setFld (wakeDevice s) rPWR_STAT 1 1 1
  { s with power := { s.power with bindOff := some { req := req, drainDl := drain, queued := false } } }

/-- Steps 1 to 3 are done: every request has ended and no step or graph instance is in flight. -/
def drained (s : State) (b : BindOff) : Bool :=
  b.queued && s.serve.reqs.isEmpty && s.disp.insts.isEmpty && idleServe s && s.trust.pending.isNone && s.trust.handover.isNone

/-- Steps 4 to 7 (R421). -/
def endBindOff (s : State) (b : BindOff) : State :=
  let s := { s with tier := { s.tier with maint := true } }
  let s := (stackList s).foldl commitStack s
  let s := { s with coll := State.reset.coll, trust := { s.trust with
    cfgRecord := some (BitVec.ofNat 32 (rd s rCFG_REF)), records := put s.trust.records 5 (coveredBytes s) } }
  let s := saveRing s
  let s := s.kct.ctxs.foldl (fun s c => flushSub s c.1 258) s
  let s := match b.req with
    | some r => fail s r stOK
    | none => s
  let s := ((List.range 11).filter fun n => linkThere s n).foldl (fun s n => linkDown s n 3) s
  mayRemove (powerOff (portLost s))

/-- Bind-off goes on to its end once it may. -/
def finishBindOff (s : State) : State :=
  match s.power.bindOff with
  | some b => if drained s b then endBindOff s b else s
  | none => s

def execStepBoundary (peers : List BoundaryRec) (s : State) : Host.Outcome State Fault Refusal :=
  .next (finishBindOff (stepBoundary s peers))

/-- DRAIN_DL passes: the graph instances still in flight fail as late ones do that abort (R234, R421 step 3). -/
def drainDeadline (s : State) : State :=
  match s.power.bindOff with
  | none => s
  | some b =>
    if b.drainDl = 0 ∨ s.time ≤ b.drainDl then s
    else finishBindOff (((s.disp.insts.filter fun i => i.step.isNone).map (·.num)).foldl
      (fun s n => failNow s n stDeadline 0xFFFFFFFF) s)

def execDrainDeadline (s : State) : Host.Outcome State Fault Refusal := .next (drainDeadline s)

/-! ### POWER_SET (R412) -/

/-- The payload's reserved bytes are 0, and DRAIN_DL is 0 but for BIND_OFF. -/
def powerOk (pl : Bytes) (drain : Bool) : Bool := allZero pl 1 7 && (drain || num pl 8 8 == 0)

def holdActive (s : State) (r : Req) : State :=
  if powerOk r.pkt.payload false then fail (setFld s rPWR_STAT 0 0 1) r stOK else fail s r stParam

def execHoldActive (p : Pkt) (s : State) : Host.Outcome State Fault Refusal := .next (receive s opPOWER (withByte p 0 0) holdActive)

def allowQuiet (s : State) (r : Req) : State :=
  if powerOk r.pkt.payload false then
    fail { setFld s rPWR_STAT 0 0 0 with power := { s.power with idleSince := s.time } } r stOK
  else fail s r stParam

def execAllowQuiet (p : Pkt) (s : State) : Host.Outcome State Fault Refusal := .next (receive s opPOWER (withByte p 0 1) allowQuiet)

def bindOff (s : State) (r : Req) : State :=
  if !powerOk r.pkt.payload true || s.power.bindOff.isSome then fail s r stParam
  else startBindOff s (some r) (num r.pkt.payload 8 8)

def execBindOff (p : Pkt) (s : State) : Host.Outcome State Fault Refusal := .next (receive s opPOWER (withByte p 0 2) bindOff)

/-! ### Limits (R413–R415, R473) -/

/-- A throttle temperature, or a trip temperature, is reached (Table 16.6). -/
def tooHot (x : Sensors) : Bool := 100 ≤ x.tDie || 95 ≤ x.tSram || 95 ≤ x.tHbm
def tripHot (x : Sensors) : Bool := 115 ≤ x.tDie || 110 ≤ x.tSram || 105 ≤ x.tHbm

/-- The power limit in hundredths of a watt: WATTS, or 25 A at the input voltage where that is less (R473). -/
def limitCw (s : State) (x : Sensors) : Nat := min (fld s rPWR_LIMIT 10 0 * 100) (25 * x.vin)

/-- What the sensors read, in PWR_TELEM (Table 16.12). -/
def telemetry (s : State) (x : Sensors) : State :=
  let s := wr s rTELEM (max (fld s rTELEM 31 16) (min x.watts 65535) * 65536 + min x.meanW 65535)
  let s := wr s (rTELEM + 4) (min x.vin 65535 * 65536 + min x.iin 65535)
  let s := wr s (rTELEM + 8) (min x.tDie 255 * 2 ^ 24 + min x.tSram 255 * 65536 + min x.tHbm 255 * 256)
  wr64 s (rTELEM + 16) x.energy

/-- OVER_TEMP and OVER_POWER, set by any sample that shows them (Table 16.9). -/
def limitFlags (s : State) (x : Sensors) : State :=
  let s := if tooHot x then setFld s rPWR_STAT 9 9 1 else s
  if fld s rPWR_LIMIT 10 0 < x.meanW then setFld s rPWR_STAT 8 8 1 else s

/-- The throttle level follows power and temperature, at most once per 100 µs (R413, R473). -/
def throttleUpdate (s : State) (x : Sensors) : State :=
  let s := telemetry s x
  if s.power.dev = .off then s
  else if s.time < s.power.throttleAt + 2500 then limitFlags s x
  else
    let s := limitFlags s x
    let lim := limitCw s x
    let k := fld s rPWR_STAT 19 16
    let above := lim < x.meanW * 100
    let k' := if above || tooHot x then min 12 (k + 1) else if x.meanW * 10000 < 95 * lim then k - 1 else k
    let s := setFld s rPWR_STAT 19 16 k'
    { s with power := { s.power with throttleAt := s.time } }

def execThrottleUpdate (x : Sensors) (s : State) : Host.Outcome State Fault Refusal := .next (throttleUpdate s x)

/-- A trip temperature held for 1 ms: the device is Off, and the record waits in always-on memory (R414). -/
def thermalTrip (s : State) (x : Sensors) : State :=
  if !tripHot x || (s.power.dev == .off && !s.trust.casting) then s
  else
    let b := faultBytes 0 s.time (stepCount s % 2 ^ 32) { code := 0x0A02, sev := 2, unit := 18 }
    let s := telemetry s x
    mayRemove (powerOff { s with power := { s.power with trip := some b } })

def execThermalTrip (x : Sensors) (s : State) : Host.Outcome State Fault Refusal := .next (thermalTrip s x)

/-- The input has lain outside 48–58 V for more than 1 ms (R415). -/
def inputVoltage (s : State) (x : Sensors) : State :=
  if (4800 ≤ x.vin && x.vin ≤ 5800) || !s.power.mainSwitch then s
  else record (setFld s rPWR_STAT 10 10 1) { code := 0x0A01, sev := 1, unit := 18 }

def execInputVoltage (x : Sensors) (s : State) : Host.Outcome State Fault Refusal := .next (inputVoltage s x)

/-- A cutoff (R474): every domain but the always-on domain loses power, and in the hold-up the record is written and the ring saved.
What names the EN break in its record is free (log 1). -/
def powerCutoff (s : State) (c : Cutoff) : State :=
  if !s.power.mainSwitch then s
  else
    let s := powerOff s
    let f := if c = .enOpen then takeFree s else (0, s)
    let s := record f.2 { code := 0x0A01, sev := 1, unit := 18, data := f.1 % 2 ^ 64 }
    let s := mayRemove (saveRing s)
    { s with power := { s.power with mainSwitch := false, enOpen := c == .enOpen } }

def execPowerCutoff (c : Cutoff) (s : State) : Host.Outcome State Fault Refusal := .next (powerCutoff s c)

/-- The main switch closes (R475): power good, and a cast-on is due. -/
def mainSwitchClose (s : State) (enMs : Nat) (precharged : Bool) (vin : Nat) : State :=
  if s.power.mainSwitch || enMs < 20 || !precharged || vin ≤ 4600 then s
  else { s with power := { s.power with mainSwitch := true, enOpen := false, due := true } }

def execMainSwitchClose (enMs : Nat) (precharged : Bool) (vin : Nat) (s : State) : Host.Outcome State Fault Refusal :=
  .next (mainSwitchClose s enMs precharged vin)

/-! ### Reset and cast-on pins, watchdogs (R438, R446, R480, R481) -/

/-- RESET_N low for a time, and released or not. Between 1 µs and 10 µs it is free whether it resets (log 1). -/
def resetN (s : State) (heldUs : Nat) (released : Bool) : State :=
  if heldUs < 1 then s
  else
    let f := if heldUs < 10 then takeFree s else (1, s)
    if f.1 % 2 = 0 then f.2
    else
      let s := resetAll f.2
      { s with pins := { s.pins with resetLow := !released } }

def execResetN (heldUs : Nat) (released : Bool) (s : State) : Host.Outcome State Fault Refusal := .next (resetN s heldUs released)

/-- The device is Off, and not in a cast-on that has stopped or not reached READY. -/
def isOff (s : State) : Bool := s.power.dev == .off && !s.trust.casting && !s.trust.stopped && !s.power.due

/-- CASTON_N, or CASTON of the management endpoint (R481, R484). -/
def castRequest (s : State) : State :=
  if isOff s then (if s.power.mainSwitch then { s with power := { s.power with due := true } } else s) else wakeDevice s

def execCastonN (heldUs : Nat) (s : State) : Host.Outcome State Fault Refusal := .next (if heldUs < 1000 then s else castRequest s)

/-- READY has not been sent 60 s after power good under TRIAL: a reset, after which the other trusted bank is selected (R438). -/
def trialWatchdog (s : State) : State :=
  if !(s.trust.casting && s.trust.trial) || s.time < 1500000000 then s
  else
    let s := resetAll s
    { s with trust := { s.trust with trial := false, selTrusted := 1 - s.trust.selTrusted % 2, bootCode := 3 } }

def execTrialWatchdog (s : State) : Host.Outcome State Fault Refusal := .next (trialWatchdog s)

/-- The trusted core's watchdog resets the module (Table 18.3). -/
def execTrustedCoreWatchdog (s : State) : Host.Outcome State Fault Refusal := .next (resetAll s)

end Sys2Proof.Machine
end

