-- ==== Sys2Proof/Machine/Trust.lean ====
section
/-! DEFINITION. Staging and activating firmware, the trusted part's update, attestation, and what service cores ask of the trusted
core (17). -/

namespace Sys2Proof.Machine

/-! ### FW_STAGE (R432) -/

/-- The flash bank an FW_STAGE of a target writes: the one not selected; 4 stands for a port configuration record. -/
def stageBank (s : State) (t : Nat) : Nat :=
  if t = 0 then untrustedBank (1 - s.trust.selUntr % 2) else if t = 1 then trustedBank (1 - s.trust.selTrusted % 2) else 4

/-- Bytes of a transfer put at an offset of a bank. -/
def writeBank (s : State) (b o : Nat) (d : Bytes) : State :=
  { s with trust := { s.trust with banks := put s.trust.banks b (pokes (bankMem s b) o d) } }

/-- The target's valid image is known no longer. -/
def unstage (s : State) (t : Nat) : State := { s with trust := { s.trust with staged := s.trust.staged.filter fun x => x.1 != t } }

/-- A trusted bank is armed: the boot selector carries the TRIAL mark (R438). -/
def armedNow (s : State) : Bool := s.trust.trial

/-- The conditions of R432, with R420 and R431. -/
def stageFault (s : State) (pl : Bytes) : Option Nat :=
  let t := num pl 0 1
  let n := num pl 4 4
  let busy := s.kct.inX.any fun x => x.req.pkt.hdr.opcode == opSTAGE && num x.req.pkt.payload 0 1 == t
  if s.power.bindOff.isSome then some stCapacity
  else if !allZero pl 1 3 || 2 < t || (s.trust.recovery && t == 1) then some stParam
  else if t = 0 && (s.trust.pending.isSome || s.trust.handover.isSome) then some stParam
  else if t = 1 && armedNow s then some stParam
  else if busy then some stParam
  else if (if t = 2 then n != 256 else bankSize (stageBank s t) < n) then some stLength
  else none

/-- STAGE_RESULT recorded. -/
def stageResult (s : State) (c : Nat) : State := setFld s rSEC_STAT 15 12 c

/-- The last byte is written: the image or record is checked, and the command answered. -/
def stageEnd (s : State) (r : Req) (t : Nat) : State :=
  let m := bankMem s (stageBank s t)
  if t = 2 then
    let b := peeks m 0 256
    if portRecordOk b then fail { s with trust := { s.trust with portRecord := some b } } r stOK else fail s r stParam
  else
    match verifyImage s (if t = 1 then 0 else 1) m with
    | .ok i => fail (stageResult { s with trust := { s.trust with staged := put s.trust.staged t i } } 0) r stOK
    | .error c => fail (stageResult s c) r stParam

/-- FW_STAGE in one packet. -/
def fwStage (s : State) (r : Req) : State :=
  let pl := r.pkt.payload
  let t := num pl 0 1
  match stageFault s pl with
  | some st => fail s r st
  | none => stageEnd (writeBank (unstage s t) (stageBank s t) 0 (pl.drop 8)) r t

/-- Segment 0 of a longer FW_STAGE: LENGTH must be what the transfer brings. -/
def stageFirst (r : Req) (s : State) : Except Nat State :=
  let pl := r.pkt.payload
  let t := num pl 0 1
  if pl.length < 8 || ceilDiv (8 + num pl 4 4) pl.length != r.pkt.hdr.segLast + 1 then .error stLength
  else match stageFault s pl with
    | some st => .error st
    | none => .ok (writeBank (unstage s t) (stageBank s t) 0 (pl.drop 8))

def execFwStageUntrusted (p : Pkt) (s : State) : Host.Outcome State Fault Refusal :=
  let r := rowReq opSTAGE (withByte p 0 0)
  .next (receiveWith s opSTAGE r fwStage (stageFirst r))

def execFwStageTrusted (p : Pkt) (s : State) : Host.Outcome State Fault Refusal :=
  let r := rowReq opSTAGE (withByte p 0 1)
  .next (receiveWith s opSTAGE r fwStage (stageFirst r))

def execFwStagePortConfig (p : Pkt) (s : State) : Host.Outcome State Fault Refusal :=
  let r := rowReq opSTAGE (withByte p 0 2)
  .next (receiveWith s opSTAGE r fwStage (stageFirst r))

/-! ### FW_ACTIVATE (R433–R438) -/

/-- A build that must be the one named, when one is named. -/
def buildIs (pl : Bytes) (i : Image) : Bool := num pl 8 8 == 0 || num pl 8 8 == i.build.toNat

/-- Reserved bytes, and bind-off (R420). -/
def actHead (s : State) (pl : Bytes) : Bool := allZero pl 1 7 && s.power.bindOff.isNone

/-- A range of the near tier as a memory of its own. -/
def nearAt (s : State) (a n : Nat) : Memory := (s.mem.near.filter fun c => a ≤ c.1 && c.1 < a + n).map fun c => (c.1 - a, c.2)

/-- In recovery mode the staged image starts cold; the cast-on goes on from the start of the service cores (R431). -/
def coldStart (s : State) (i : Image) : State :=
  let k := 1 - s.trust.selUntr % 2
  let s := { s with trust := { s.trust with casting := true, ready := false, staged := s.trust.staged.filter fun x => x.1 != 0 } }
  startLinks (startImage s k i)

/-- ACTIVATE (R434). -/
def activate (s : State) (r : Req) : State :=
  let pl := r.pkt.payload
  if !actHead s pl then fail s r stParam
  else match look s.trust.staged 0 with
    | none => fail s r stNoObj
    | some i =>
      if !buildIs pl i then fail s r stParam
      else if s.trust.recovery then fail (coldStart s i) r stOK
      else if s.trust.pending.isSome || stackCount s = 0 || s.trust.running.hoOut < i.hoMin || i.hoMax < s.trust.running.hoOut then
        fail s r stParam
      else
        let a := halfAt s (1 - s.trust.half % 2)
        let s := charge (copyImage s (stageBank s 0) 1 a) 0 0 (bankSize 2)
        match look s.trust.banks (stageBank s 0), verifyImage s 1 (nearAt s a (bankSize 2)) with
        | some _, .error _ => fail s r stParam
        | _, _ => fail { s with trust := { s.trust with pending := some i } } r stOK

def execActivate (p : Pkt) (s : State) : Host.Outcome State Fault Refusal := .next (receive s opACTIVATE (withByte p 0 0) activate)

/-- A staged image is valid under the fuses as they stand; of one that was never written since manufacture its SVN tells (R428). -/
def stillValid (s : State) (x : Nat × Image) : Bool :=
  let bank := if x.1 = 0 then stageBank s 0 else trustedBank (1 - s.trust.runTrusted % 2)
  match look s.trust.banks bank with
  | none => (if x.1 = 0 then s.fuses.untrustedSvn else s.fuses.trustedSvn) ≤ x.2.svn
  | some m => (verifyImage s (1 - x.1) m).toOption.isSome

/-- What a confirmation makes invalid is staged no longer (R437, R438). -/
def dropInvalid (s : State) : State := { s with trust := { s.trust with staged := s.trust.staged.filter (stillValid s) } }

/-- CONFIRM (R437). -/
def confirm (s : State) (r : Req) : State :=
  let pl := r.pkt.payload
  if !actHead s pl || s.trust.recovery || !buildIs pl s.trust.running then fail s r stParam
  else fail (dropInvalid { s with fuses := { s.fuses with untrustedSvn := max s.fuses.untrustedSvn s.trust.running.svn } }) r stOK

def execConfirm (p : Pkt) (s : State) : Host.Outcome State Fault Refusal := .next (receive s opACTIVATE (withByte p 0 1) confirm)

/-- ARM_TRUSTED (R438). -/
def armTrusted (s : State) (r : Req) : State :=
  let pl := r.pkt.payload
  if !actHead s pl || s.trust.recovery then fail s r stParam
  else match look s.trust.staged 1 with
    | none => fail s r stNoObj
    | some i =>
      if armedNow s || !buildIs pl i then fail s r stParam
      else fail { s with trust := { s.trust with selTrusted := 1 - s.trust.selTrusted % 2, trial := true, armed := true } } r stOK

def execArmTrusted (p : Pkt) (s : State) : Host.Outcome State Fault Refusal := .next (receive s opACTIVATE (withByte p 0 2) armTrusted)

/-- CONFIRM_TRUSTED (R438). -/
def confirmTrusted (s : State) (r : Req) : State :=
  let pl := r.pkt.payload
  if !actHead s pl || s.trust.recovery || !s.trust.trial || s.trust.armed || !buildIs pl s.trust.trusted then fail s r stParam
  else
    let f := { s.fuses with trustedSvn := max s.fuses.trustedSvn s.trust.trusted.svn
                            revoked := Nat.lor s.fuses.revoked (s.trust.trusted.revoke % 16) }
    fail (dropInvalid { s with fuses := f, trust := { s.trust with trial := false } }) r stOK

def execConfirmTrusted (p : Pkt) (s : State) : Host.Outcome State Fault Refusal :=
  .next (receive s opACTIVATE (withByte p 0 3) confirmTrusted)

/-- DISARM_TRUSTED (R438). -/
def disarmTrusted (s : State) (r : Req) : State :=
  let pl := r.pkt.payload
  let img := if s.trust.armed then (look s.trust.staged 1).getD s.trust.trusted else s.trust.trusted
  if !actHead s pl || s.trust.recovery || !s.trust.trial || !buildIs pl img then fail s r stParam
  else fail { s with trust := { s.trust with selTrusted := 1 - s.trust.selTrusted % 2, trial := false, armed := false } } r stOK

def execDisarmTrusted (p : Pkt) (s : State) : Host.Outcome State Fault Refusal :=
  .next (receive s opACTIVATE (withByte p 0 4) disarmTrusted)

/-! ### Attestation (R439, R440) -/

/-- A byte string of a fixed length. -/
def fixed (n : Nat) (b : Bytes) : Bytes := sliceOf b 0 n

/-- The repair map: the maps of arrays and attention units, what is retired, the banks, the spare rows in use, and FULL_NEXT. -/
def repairMap (s : State) : Bytes :=
  Config.repairMap [(List.range 96).map fun n => rd s (rARRAY_MAP n), (List.range 16).map fun n => rd s (rATTN_MAP n),
    s.ras.retired.flatMap fun x => [x.1, x.2], s.ras.bankMap.flatMap fun x => [x.1, x.2], s.ras.banksBad,
    s.ras.sliceRows.flatMap fun x => [x.1, x.2], [b2n s.ras.fullNext]]

/-- The report of Table 17.7. -/
def attestReport (s : State) (ctx : Nat) (nonce : Bytes) : Bytes :=
  toLE 2 1 ++ toLE 1 (b2n s.fuses.variantB) ++ toLE 1 (if s.fuses.stepA1 then 1 else 2) ++ toLE 2 ctx ++ zeros 2
  ++ toLE 8 s.fuses.serial.toNat ++ toLE 8 s.time ++ fixed 32 nonce ++ fixed 32 s.trust.m0 ++ toLE 8 s.trust.trusted.build.toNat
  ++ fixed 32 s.trust.m1 ++ fixed 32 s.trust.running.digest ++ fixed 32 s.trust.m2 ++ toLE 8 s.trust.running.build.toNat
  ++ toLE 4 (rd s rSEC_HANDOVERS) ++ toLE 1 s.fuses.trustedSvn ++ [0] ++ toLE 2 s.fuses.untrustedSvn
  ++ toLE 1 (b2n s.trust.recovery + 2 * b2n s.fuses.debugOpen + 4 * b2n s.trust.trial + 8 * (s.trust.runTrusted % 2)
             + 16 * (s.trust.selUntr % 2) + 32 * b2n s.trust.pending.isSome)
  ++ toLE 1 (s.fuses.revoked % 16) ++ zeros 2 ++ toLE 4 (rd s rCFG_REF) ++ sha256 (repairMap s) ++ fixed 48 s.trust.idPub ++ zeros 216

/-- The device certificate: its FMT and MFG_KEY_ID as fabricated, SERIAL and VARIANT of the fuses, the identity key's public half (R440). -/
def certBytes (s : State) : Bytes :=
  toLE 2 (num s.trust.cert 0 2) ++ zeros 2 ++ toLE 4 (num s.trust.cert 4 4) ++ toLE 8 s.fuses.serial.toNat
  ++ toLE 1 (b2n s.fuses.variantB) ++ zeros 7 ++ fixed 48 s.trust.idPub ++ zeros 56

/-- The reply of an ATTEST: report, signature, certificate, its signature. -/
def attestReply (s : State) (r : Req) : State :=
  let b := attestReport s r.pkt.hdr.ctx r.pkt.payload
  let sig := fixed 16224 (Config.sign s.fresh b)
  let s := { s with fresh := s.fresh + 1 }
  replyTo s r stOK 0 (b ++ sig ++ certBytes s ++ fixed 16224 s.trust.certSig)

/-- ATTEST waits its turn to be signed; at most 8 are outstanding (R440). -/
def attest (s : State) (r : Req) : State :=
  if 8 ≤ s.trust.attests.length then fail s r stCapacity 4
  else { s with trust := { s.trust with attests := s.trust.attests ++ [r] } }

def execAttest (p : Pkt) (s : State) : Host.Outcome State Fault Refusal := .next (receive s opATTEST p attest)

/-- The report in front is signed and sent. -/
def signNext (s : State) : State :=
  match s.trust.attests with
  | [] => s
  | r :: rest => attestReply { s with trust := { s.trust with attests := rest } } r

/-! ### The trusted core's mailbox and the protection unit (R423, R424) -/

/-- A request refused. -/
def mailboxRefused (s : State) : State := record s { code := 0x0902, sev := 1, unit := 13 }

/-- A remap of a logical unit to a spare that is not retired and has passed its test. It takes effect at the next boundary, and for an
array once the repair copy has brought its tiles into the spare (R15, R22, R113): the unit it leaves retires meanwhile, and what CAUSE its
record gives is free (log 1). A remap asked for again replaces the spare. -/
def mailboxRemap (s : State) (kind lg sp : Nat) : State :=
  let n := if kind = 0 then 96 else 16
  let valid := if kind = 0 then fld s (rARRAY_MAP lg) 7 7 == 1 else fld s (rATTN_MAP lg) 5 5 == 1
  let old := if valid then (if kind = 0 then physOf s lg else fld s (rATTN_MAP lg) 4 0) else unitCount kind
  if n ≤ lg || unitCount kind ≤ sp || unitState s kind sp != 0 || s.ras.swatchBad.contains (kind, sp) then mailboxRefused s
  else
    let mine := fun (r : Retire) => r.kind == kind && r.logical == lg
    let again := fun (r : Retire) => if mine r then { r with spare := some sp, copied := kind == 1 } else r
    let s := setUnitState s kind sp 4
    let s := if kind = 0 then bedToIdle s (sp / 8) else s
    match s.ras.retires.find? mine with
    | some r =>
      let s := match r.spare with
        | some o => setUnitState s kind o 0
        | none => s
      { s with ras := { s.ras with retires := s.ras.retires.map again } }
    | none =>
      let f := takeFree (if valid then setUnitState s kind old 2 else s)
      let r : Retire := { kind := kind, logical := lg, phys := old, spare := some sp, copied := kind == 1 || !valid, definite := false,
                          cause := f.1 % 65536 }
      { f.2 with ras := { f.2.ras with retires := f.2.ras.retires ++ [r] } }

/-- A remap of a commons bank to a spare: its copy begins, and the map switches when the copy is complete (R458). -/
def mailboxBank (s : State) (b q : Nat) : State :=
  if 128 ≤ b || !(spareBanks s).contains q || (s.ras.bankCopy.any fun x => x.1 == b) then mailboxRefused s
  else
    let f := takeFree s
    bankInfo { f.2 with ras := { f.2.ras with bankCopy := f.2.ras.bankCopy ++ [(b, q, f.1 % 65536)] } }

/-- A flash record: the port configuration record (1) and the installation map (2) pass their own checks; of the boot selector (0), the
repair map (3), the fault ring (4) and the committed configuration (5) the spec gives no form; the device certificate is never rewritten. -/
def mailboxRecord (s : State) (kind : Nat) (b : Bytes) : State :=
  match kind with
  | 1 => if portRecordOk b then { s with trust := { s.trust with portRecord := some b } } else mailboxRefused s
  | 2 =>
    let m := (List.range 11).map fun n => mapOfBytes (sliceOf b (24 * n) 24)
    if b.length = 264 && m.all (fun e => e.mode < 3 && e.boardPos < 8 && e.slot < 8 && e.link < 11) then
      { s with trust := { s.trust with mapRecord := some m } }
    else mailboxRefused s
  | k => if k < 6 then { s with trust := { s.trust with records := put s.trust.records k b } } else mailboxRefused s

/-- A request of a service core. -/
def mailboxRequest (s : State) (m : Mailbox) : State :=
  match m with
  | .remapArray lg sp => mailboxRemap s 0 lg sp
  | .remapUnit lg sp => mailboxRemap s 1 lg sp
  | .remapBank b q => mailboxBank s b q
  | .grant sp b c => if sp < 3 && (ctxOf s c).isSome && freeRun s sp b 1 then grantBlock s c sp b else mailboxRefused s
  | .flashRecord k b => mailboxRecord s k b

def execMailboxRequest (m : Mailbox) (s : State) : Host.Outcome State Fault Refusal := .next (mailboxRequest s m)

/-- The protection unit blocks an access (Table 17.1): flash and the trusted part's own memories; a write of a register of the fault and
security blocks, of the maps, the owner table or a read-only word; a write to the shadow copy or the activation region. The prefix table,
the graft registry and the token records are the firmware's own (log 51). -/
def isProtected (s : State) (a : Access) : Bool :=
  if a.space = 4 then a.write && (0xB0000 ≤ a.addr || (0x60000 ≤ a.addr && a.addr < 0x60200) || (0x70100 ≤ a.addr && a.addr < 0x70140))
  else if a.space = 1 then
    let n := max 1 a.data.length
    a.write && stackCount s != 0 && (overlap a.addr n (shadowBase s) (3072 * mib) || overlap a.addr n (activationBase s) (224 * mib))
  else 5 ≤ a.space

/-- A blocked access is not performed; it is counted and recorded. -/
def protectedAccess (s : State) (a : Access) : State :=
  if isProtected s a then
    record (bump s rSEC_FAULT 15 0 1) { code := 0x0901, sev := 2, unit := 13, addr := a.addr, space := min a.space 255 }
  else s

def execProtectedAccess (a : Access) (s : State) : Host.Outcome State Fault Refusal := .next (protectedAccess s a)

end Sys2Proof.Machine
end

