-- ==== Sys2Proof/Machine/Ras.lean ====
section
/-! DEFINITION. Tests and in-service repair: MARCH_RUN, the swatch, slice and bank repair, the background test, the commons' retries, the
saved ring and the configuration scan (05, 15, 18). -/

namespace Sys2Proof.Machine

/-! ### Faults that tests find (R453, R455, R457–R460) -/

/-- A spare that is to serve, or one that stands by, turns out bad: the next takes its place where a copy waits for it (R455). -/
def spareFails (s : State) (a : Nat) : State :=
  match s.ras.retires.find? fun r => r.kind == 0 && r.spare == some a with
  | none => retireForGood s 0 a
  | some r =>
    let t := takeSpare (retireForGood s 0 a) 0
    let s := setRetire t.2 r.logical fun r => { r with spare := t.1, copied := t.1.isNone }
    if t.1.isNone then exhausted s 0 r.logical r.phys else s

/-- A definite fault of an array (R453). -/
def arrayFaulty (s : State) (a cause : Nat) : State :=
  if 104 ≤ a || unitState s 0 a = 3 then s
  else if unitState s 0 a = 1 || unitState s 0 a = 2 then startRetire s 0 a true cause
  else spareFails s a

/-- The unit is the destination of a repair copy, or retires (R455). -/
def inRepair (s : State) (kind a : Nat) : Bool :=
  s.ras.retires.any fun r => r.kind == kind && (r.phys == a || r.spare == some a)

/-- A spare row or column brought in for a 4 KiB region of a slice: its record, and the count of its errors begins anew (R459). -/
def spareUsed (s : State) (a region : Nat) : State :=
  let s := { s with ras := { s.ras with
    sliceRows := put s.ras.sliceRows a ((look s.ras.sliceRows a).getD 0 + 1), regionCe := del s.ras.regionCe (8192 * a + region) } }
  record s { code := 0x0102, sev := 0, unit := 0, inst := a, flags := 2, logical := if logicalOf s a < 96 then logicalOf s a else 0xFFFF,
             addr := region * 4096, space := 3 }

/-- Spare rows and column groups of a slice that are left: 32 rows and 4 groups. -/
def sliceSpares (s : State) (a : Nat) : Nat := 36 - (look s.ras.sliceRows a).getD 0

/-- The records that cover a region of a slice rewritten from the shadow image of the array it serves. -/
def rewriteRegion (s : State) (a region : Nat) : State :=
  let lg := logicalOf s a
  if 96 ≤ lg || fld s (rSHADOW_VALID (lg / 32)) (lg % 32) (lg % 32) = 0 then s
  else
    let lo := min (region * 4096) (region * 4096 / slotBytes * slotBytes)
    let hi := if dirOff ≤ region * 4096 then region * 4096 + 4096 else ((region * 4096 + 4095) / slotBytes + 1) * slotBytes
    let n := min hi (2 ^ 25) - lo
    let bad := (imageBad s lg false .clean).filter fun o => lo ≤ o && o < lo + n
    let s := charge (dropSliceWb (copyRange s 1 (imageBase s lg + lo) n 3 (sliceBase a + lo)) (sliceBase a + lo) n) 0 0 n
    match bad with
    | o :: _ => shadowInvalid s lg (imageBase s lg + o)
    | [] => s

/-- A slice region repaired after an uncorrectable read or 16 corrected errors: a spare is brought in and the content restored; where
that fails the array has a definite fault, and without a spare for corrected errors alone it is suspected (R453, R459). -/
def sliceRepair (s : State) (a region : Nat) (ue ok : Bool) : State :=
  let base := sliceBase a + region * 4096
  let hit := s.mem.bad.any fun x => x.1 == 3 && base ≤ x.2 * 16 && x.2 * 16 < base + 4096
  if 104 ≤ a || 8192 ≤ region || (if ue then !hit else (look s.ras.regionCe (8192 * a + region)).getD 0 < 16) then s
  else if ok && sliceSpares s a != 0 then
    let s := { s with ras := { s.ras with sliceWb := s.ras.sliceWb.filter fun x => !(x.1 == a && base ≤ x.2 * 64 && x.2 * 64 < base + 4096) } }
    spareUsed (if ue then rewriteRegion s a region else s) a region
  else if ue || !ok then arrayFaulty s a (if ue then 0x0101 else 0x0102)
  else startRetire s 0 a false 0x0102

def execSliceRepair (array : Nat) (region : Nat) (ue : Bool) (ok : Bool) (s : State) : Host.Outcome State Fault Refusal :=
  .next (whenOn s fun s => sliceRepair s array region ue ok)

/-! ### Commons banks (R458) -/

/-- Without a spare bank: the blocks that hold a line of the failing rows are withdrawn from granting; at 64 of one bank the module has
failed. -/
def withdrawRows (s : State) (b : Nat) (rows : List Nat) : State :=
  let bs := (dedup (rows.map (· / 4))).filter fun k => !s.ras.bankDrops.contains (b, k)
  let s := bs.foldl (fun s k => putBlock s 0 k { blockAt s 0 k with withdrawn := true }) s
  let s := { s with ras := { s.ras with bankDrops := bs.map (fun k => (b, k)) ++ s.ras.bankDrops } }
  if 64 ≤ (s.ras.bankDrops.filter fun x => x.1 == b).length then failModule s 2 else s

/-- A physical bank out of use for good. -/
def bankBad (s : State) (p : Nat) : State :=
  bankInfo { s with ras := { s.ras with banksBad := if s.ras.banksBad.contains p then s.ras.banksBad else p :: s.ras.banksBad } }

/-- A bank is to be replaced: the copy into a spare begins, or without one `other` says what follows. -/
def bankFails (s : State) (p cause : Nat) (other : State → Nat → State) : State :=
  match bankServed s p with
  | none => bankBad s p
  | some b =>
    if s.ras.bankCopy.any fun x => x.1 == b then s
    else match spareBanks s with
      | q :: _ => bankInfo { s with ras := { s.ras with bankCopy := s.ras.bankCopy ++ [(b, q, cause)] } }
      | [] => other s b

/-- The copy of a bank is complete: the bank map switches. -/
def bankCopyComplete (s : State) (b : Nat) : State :=
  match s.ras.bankCopy.find? fun x => x.1 == b with
  | none => s
  | some (_, q, cause) =>
    let p := bankOf s b
    let s := { s with ras := { s.ras with bankCopy := s.ras.bankCopy.filter (fun x => x.1 != b), bankMap := put s.ras.bankMap b q } }
    let s := bankBad s p
    unitRetired s 2 p (some q) b (spareBanks s).length cause

def execBankCopyComplete (bank : Nat) (s : State) : Host.Outcome State Fault Refusal := .next (whenOn s fun s => bankCopyComplete s bank)

/-! ### The swatch (R462, R454 step 6) -/

/-- The swatch may run on a unit: spare or under test, and no copy under way into it. -/
def maySwatch (s : State) (kind a : Nat) : Bool :=
  kind < 2 && a < unitCount kind && (unitState s kind a == 0 || unitState s kind a == 4) && !inRepair s kind a

/-- The swatch's outcome: a unit that passes is a spare, one that fails is retired; a slice is cleared after it. -/
def swatchEnds (s : State) (kind a : Nat) (pass : Bool) : State :=
  let s := if kind = 0 then wipeSlice s (sliceBase a) (2 ^ 25) else s
  if pass then setUnitState s kind a 0
  else record (retireForGood s kind a) { code := 0x0802, sev := 2, unit := kind, inst := a }

/-- The tasks started on an array before its remap have ended on it (R454 step 4). -/
def taskFree (s : State) (kind a : Nat) : Bool := kind != 0 || ((arrOf s a).run.isNone && (arrOf s a).out.isEmpty)

def swatchRun (s : State) (kind a : Nat) (pass : Bool) : State :=
  if maySwatch s kind a && taskFree s kind a then swatchEnds s kind a pass else s

def execSwatchRun (unitKind : Nat) (instance_ : Nat) (pass : Bool) (s : State) : Host.Outcome State Fault Refusal :=
  .next (whenOn s fun s => swatchRun s unitKind instance_ pass)

/-! ### MARCH_RUN (R463, R464) -/

/-- A MARCH_RUN whose reply is due is running; a second is refused. -/
def marchBusy (s : State) : Bool := s.ras.march.isSome

/-- A MARCH_RUN of an operation: refused while one runs, its reserved bytes checked. -/
def marchOp (run : State → Req → State) (s : State) (r : Req) : State :=
  if marchBusy s then fail s r stCapacity 4
  else if !allZero r.pkt.payload 6 2 then fail s r stParam
  else run s r

def mKIND (pl : Bytes) : Nat := num pl 1 1
def mINST (pl : Bytes) : Nat := num pl 2 2
def mMODE (pl : Bytes) : Nat := num pl 4 1
def mOFFSET (pl : Bytes) : Nat := num pl 8 4

/-- Instances and bytes of a kind; the spec gives no size of attention buffers and engine register files (log 21). -/
def marchUnits (kind : Nat) : Nat := if kind = 0 then 104 else if kind = 1 then 132 else if kind = 2 then 18 else 148
def marchBytes (kind : Nat) : Nat := if kind = 0 then 2 ^ 25 else if kind = 1 then 2 ^ 21 else 2 ^ 32
/-- The unit kind and instance of an engine's register file: the engines of Table 18.3 in its order (log 21). -/
def engineUnit (n : Nat) : Nat × Nat :=
  if n < 64 then (4, n) else if n < 96 then (5, n - 64) else if n < 104 then (6, n - 96) else if n < 112 then (7, n - 104)
  else if n < 116 then (8, n - 112) else (9, n - 116)

/-- The register file is one of an engine absent from the unit mask (R4): its bit's number is 2 less than the kind's. -/
def marchAbsent (s : State) (n : Nat) : Bool :=
  n < marchUnits 3 && ((engineUnit n).1 == 5 || (engineUnit n).1 == 6) && !bit ((engineUnit n).1 - 2) (unitMask s)

/-- A unit is spare, retired or under test, as a destructive test needs. -/
def unitIdle (s : State) (kind n : Nat) : Bool :=
  match kind with
  | 0 => unitState s 0 n != 1 && unitState s 0 n != 2
  | 1 => (bankServed s n).isNone
  | 2 => unitState s 1 n != 1 && unitState s 1 n != 2
  | _ => s.ras.retired.contains (engineUnit n)

/-- MARCH's fields are within the rules. -/
def marchOk (s : State) (pl : Bytes) : Bool :=
  let k := mKIND pl
  let n := mINST pl
  let len := num pl 12 4
  k < 4 && n < marchUnits k && mMODE pl < 2 && num pl 5 1 < 2 && mOFFSET pl % 4096 == 0 && len % 4096 == 0
  && mOFFSET pl + len ≤ marchBytes k && !(k == 0 && inRepair s 0 n) && !(k == 2 && inRepair s 1 n)
  && !(k == 1 && s.ras.bankCopy.any fun x => bankOf s x.1 == n || x.2.1 == n)
  && (if mMODE pl = 0 then unitIdle s k n else unitIdle s k n || (4096 ≤ len && len ≤ 65536))

/-- A failing place repaired where a spare allows: the state, and whether it was. -/
def repairPlace (kind n : Nat) (acc : State × Nat) (o : Nat) : State × Nat :=
  let s := acc.1
  match kind with
  | 0 => if sliceSpares s n != 0 then (spareUsed s n o, acc.2 + 1) else acc
  | 1 =>
    let f := takeFree s
    if f.1 % 2 = 0 then (f.2, acc.2 + 1)
    else if (bankServed f.2 n).isSome && !(spareBanks f.2).isEmpty then (bankFails f.2 n 0x0803 fun s _ => s, acc.2 + 1)
    else (bankFails f.2 n 0x0803 fun s b => withdrawRows s b [o], acc.2)
  | _ => acc

/-- What failures that no spare repairs do to the unit (R453, R460). -/
def unrepaired (s : State) (kind n : Nat) : State :=
  match kind with
  | 0 => arrayFaulty s n 0x0803
  | 1 => s
  | 2 => s
  | _ =>
    let u := engineUnit n
    if s.ras.retired.contains u then s
    else
      let r : Retire := { kind := u.1, logical := 0xFFFF, phys := u.2, spare := none, copied := true, definite := true, cause := 0x0803 }
      { s with ras := { s.ras with retires := s.ras.retires ++ [r] } }

/-- MARCH: the bytes tested, the failures found at the offsets given, the repairs and the record; the reply comes when the test ends. -/
def marchMarch (fails : List Nat) (s : State) (r : Req) : State :=
  let pl := r.pkt.payload
  let k := mKIND pl
  let n := mINST pl
  if k = 3 && marchAbsent s n then fail s r stUnit   -- R4
  else if !marchOk s pl then fail s r stParam
  else
    let len := if num pl 12 4 = 0 then marchBytes k - mOFFSET pl else num pl 12 4
    let s := if mMODE pl = 0 && k == 0 then wipeSlice s (sliceBase n + mOFFSET pl) len else s
    let hits := fails.filter fun o => mOFFSET pl ≤ o && o < mOFFSET pl + len
    let places := dedup (hits.map fun o => if k = 0 then o / 4096 else if k = 1 then o / 128 else o)
    let x := places.foldl (repairPlace k n) (s, 0)
    let all := x.2 == places.length
    let u := if k = 3 then engineUnit n else (if k = 2 then 1 else 2 * k, n)
    let s := if hits.isEmpty then x.1
      else record x.1 { code := 0x0803, sev := if all then 1 else 2, unit := u.1, inst := u.2 }
    let s := if all then s else unrepaired s k n
    let f := takeFree s
    let first := match sortBy id hits with
      | o :: _ => o
      | [] => f.1
    let body := toLE 1 (if hits.isEmpty then 0 else if all then 1 else 2) ++ zeros 3 ++ toLE 4 hits.length ++ toLE 4 first ++ toLE 4 x.2
    { f.2 with ras := { f.2.ras with march := some (r, body ++ toLE 8 s.time) } }

def execMarchRunMarch (p : Pkt) (fails : List Nat) (s : State) : Host.Outcome State Fault Refusal :=
  .next (receive s opMARCH (withByte p 0 0) (marchOp (marchMarch fails)))

/-- SWATCH on a spare or a unit under test. -/
def marchSwatch (pass : Bool) (s : State) (r : Req) : State :=
  let pl := r.pkt.payload
  let k := if mKIND pl = 2 then 1 else if mKIND pl = 0 then 0 else 2
  if !maySwatch s k (mINST pl) then fail s r stParam
  else
    let s := swatchEnds s k (mINST pl) pass
    { s with ras := { s.ras with march := some (r, toLE 1 (if pass then 0 else 2) ++ zeros 7) } }

def execMarchRunSwatch (p : Pkt) (pass : Bool) (s : State) : Host.Outcome State Fault Refusal :=
  .next (receive s opMARCH (withByte p 0 1) (marchOp (marchSwatch pass)))

/-- The test ends: its reply, with the time it took. -/
def marchEnds (s : State) : State :=
  match s.ras.march with
  | none => s
  | some (r, b) =>
    let s := { s with ras := { s.ras with march := none } }
    replyTo s r stOK 0 (if b.length = 24 then b.take 16 ++ toLE 8 (s.time - num b 16 8) else b)

/-- RETIRE of a unit in service. What CAUSE it is retired under is free: no fault stands behind it (log 1). -/
def marchRetire (s : State) (r : Req) : State :=
  let pl := r.pkt.payload
  let n := mINST pl
  let f := takeFree s
  match mKIND pl with
  | 0 => if n < 104 && unitState s 0 n == 1 then fail (startRetire f.2 0 n true (f.1 % 65536)) r stOK else fail s r stParam
  | 1 =>
    if n < 132 && (bankServed s n).isSome && !(s.ras.bankCopy.any fun x => bankOf s x.1 == n) then
      fail (bankFails f.2 n (f.1 % 65536) fun s _ => failModule s 2) r stOK
    else fail s r stParam
  | 2 => if n < 18 && unitState s 1 n == 1 then fail (startRetire f.2 1 n true (f.1 % 65536)) r stOK else fail s r stParam
  | _ => fail s r stParam

def execMarchRunRetire (p : Pkt) (s : State) : Host.Outcome State Fault Refusal :=
  .next (receive s opMARCH (withByte p 0 2) (marchOp marchRetire))

/-- FULL_NEXT: the full march at the next cast-on requested or cancelled (R466). -/
def marchFullNext (s : State) (r : Req) : State :=
  if mMODE r.pkt.payload < 2 then fail { s with ras := { s.ras with fullNext := mMODE r.pkt.payload == 1 } } r stOK else fail s r stParam

def execMarchRunFullNext (p : Pkt) (s : State) : Host.Outcome State Fault Refusal :=
  .next (receive s opMARCH (withByte p 0 3) (marchOp marchFullNext))

/-- STATUS (Table 18.4). -/
def marchStatus (s : State) (r : Req) : State :=
  replyTo s r stOK 0 (toLE 4 s.ras.bgRegion ++ toLE 4 s.ras.bgCycles ++ toLE 8 s.ras.bgLast ++ toLE 1 s.ras.bgHours
    ++ toLE 1 (b2n s.ras.fullNext) ++ toLE 1 (sparesOf s 0).length ++ toLE 1 (sparesOf s 1).length ++ toLE 1 (spareBanks s).length
    ++ zeros 3)

def execMarchRunStatus (p : Pkt) (s : State) : Host.Outcome State Fault Refusal :=
  .next (receive s opMARCH (withByte p 0 4) (marchOp marchStatus))

/-- BG_PERIOD: the background cycle's hours. -/
def marchBgPeriod (s : State) (r : Req) : State :=
  let h := mOFFSET r.pkt.payload
  if 1 ≤ h ∧ h ≤ 255 then fail { s with ras := { s.ras with bgHours := h } } r stOK else fail s r stParam

def execMarchRunBgPeriod (p : Pkt) (s : State) : Host.Outcome State Fault Refusal :=
  .next (receive s opMARCH (withByte p 0 5) (marchOp marchBgPeriod))

/-! ### The background test (R465) -/

def bgRegions : Nat := 919552

/-- A region is passed over: a MARCH_RUN holds its unit, its slice is retiring or receives a copy, or its bed is without power. -/
def bgSkips (s : State) (g : Nat) : Bool :=
  let held := fun (k n : Nat) => match s.ras.march with
    | some (r, _) => mKIND r.pkt.payload == k && mINST r.pkt.payload == n
    | none => false
  if g < 851968 then held 0 (g / 8192) || inRepair s 0 (g / 8192) || !bedPowered s (g / 8192 / 8)
  else held 1 ((g - 851968) / 512)

/-- What the test of a region finds, and what it does about it. -/
def bgFinds (s : State) (g : Nat) (repaired : Bool) : State :=
  if g < 851968 then
    let a := g / 8192
    if repaired && sliceSpares s a != 0 then spareUsed s a (g % 8192) else arrayFaulty s a 0x0803
  else if repaired then s
  else
    let p := (g - 851968) / 512
    bankFails s p 0x0803 fun s b => withdrawRows s b ((List.range 32).map fun i => (g - 851968) % 512 * 32 + i)

/-- The next region: at its time, or as fast as it can in a maintenance window; the end of a cycle starts the counts of corrected errors
anew. -/
def bgTestRegion (s : State) (fails repaired : Bool) : State :=
  let due := s.power.windowAt.isSome || s.ras.bgAt * bgRegions + s.ras.bgHours * 90000000000 ≤ s.time * bgRegions
  if !s.trust.ready || s.power.dev != .active || !due then s
  else
    let g := s.ras.bgRegion % bgRegions
    let s := if fails && !bgSkips s g then bgFinds s g repaired else s
    let s := { s with ras := { s.ras with bgAt := s.time, bgRegion := g + 1 } }
    if g + 1 < bgRegions then s
    else { s with ras := { s.ras with bgRegion := 0, bgCycles := (s.ras.bgCycles + 1) % 2 ^ 32, bgLast := s.time, regionCe := [] } }

def execBgTestRegion (fails : Bool) (repaired : Bool) (s : State) : Host.Outcome State Fault Refusal :=
  .next (bgTestRegion s fails repaired)

/-! ### Collisions on a commons line (R119–R121) -/

/-- A read that collided on a line, with RETRY_DIS: its undefined data goes to its side's next read of the line (R121, log 1). -/
def unretried (s : State) (sideB : Bool) (line : Nat) : State :=
  if !s.serve.retryDis then s
  else { s with fresh := s.fresh + 64, ras := { s.ras with collided := s.ras.collided ++ [(sideB, line, s.fresh)] } }

/-- Two accesses collide on a line: counted, and the retry served; with RETRY_DIS a side-B write that meets BUSY is dropped. -/
def commonsRetry (s : State) (line : Nat) (k : Collision) (a b : Bytes) : State :=
  if 2 ^ 22 ≤ line then s
  else
    let s := bump (bump s rCOMMONS_STAT 31 16 1) rCOMMONS_STAT 15 0 1
    let w := fun (s : State) (d : Bytes) => st s 0 (line * 64) (fixed 64 d)
    match k with
    | .aWriteBRead => w (unretried s true line) a
    | .aReadBWrite => if s.serve.retryDis then unretried s false line else w s b
    | .aWriteBWrite => if s.serve.retryDis then w s a else w (w s a) b

def execCommonsRetry (line : Nat) (kind : Collision) (aData bData : Bytes) (s : State) : Host.Outcome State Fault Refusal :=
  .next (whenOn s fun s => commonsRetry s line kind aData bData)

/-! ### The saved ring, and the configuration scan (R393, R395, R445) -/

/-- The ring saved: for a record of SEVERITY 2 at once, for others at most every 60 s. -/
def faultRingSave (s : State) : State :=
  match s.ras.dirty with
  | none => s
  | some d => if d = 2 ∨ s.ras.savedAt + 1500000000 ≤ s.time then saveRing s else s

def execFaultRingSave (s : State) : Host.Outcome State Fault Refusal := .next (faultRingSave s)

/-- What a scan's difference from the reference does (R395). -/
def compareCfg (s : State) : State :=
  let v := rd s rCFG_CUR
  let ref := rd s rCFG_REF
  if v = ref then setFld s rCFG_STAT 0 0 0
  else
    let s := setFld s rCFG_STAT 0 0 1
    if holding s || s.ras.cfgReported == some (BitVec.ofNat 32 v) then s
    else
      let s := { bump s rCFG_STAT 31 16 1 with ras := { s.ras with cfgReported := some (BitVec.ofNat 32 v) } }
      let s := record s { code := 0x0701, sev := 1, unit := 13, data := ref + v * 2 ^ 32 }
      notify s 0 0x0A17 0 1 (toLE 4 ref ++ toLE 4 v)

/-- A scan of the covered set, once every 25,000 ticks in every device state from the commit at READY on (R393, R394, Table 16.1). -/
def cfgScan (s : State) : State :=
  if !s.ras.refSet || s.time < s.ras.scanAt + 25000 then s
  else compareCfg { wr s rCFG_CUR (checkValue s) with ras := { s.ras with scanAt := s.time } }

def execCfgScan (s : State) : Host.Outcome State Fault Refusal := .next (cfgScan s)

/-- The hold runs out; what differs is reported by the next scan. -/
def cfgHoldExpire (s : State) : State :=
  match s.ras.holdUntil with
  | some t => if t ≤ s.time then { s with ras := { s.ras with holdUntil := none } } else s
  | none => s

def execCfgHoldExpire (s : State) : Host.Outcome State Fault Refusal := .next (cfgHoldExpire s)

end Sys2Proof.Machine
end

