-- ==== Sys2Proof/Machine/Hardware.lean ====
section
/-! DEFINITION. The module's management bus, its alert line, and the test access port (19, R482–R487). -/

namespace Sys2Proof.Machine

/-! ### The management endpoint (R482–R484) -/

/-- SMB_ALERT_N is driven low. -/
def alertLow (s : State) : Bool :=
  s.pins.alert || fld s rPWR_STAT 19 16 != 0 || fld s rPWR_STAT 10 10 == 1 || moduleFailed s

/-- The endpoint is powered and out of reset. -/
def endpointOn (s : State) : Bool := s.power.mainSwitch && !s.pins.resetLow

/-- STATE of STATUS (log 22). -/
def smbState (s : State) : Nat :=
  if s.trust.stopped then 6
  else if s.trust.casting || s.power.due then 0
  else match s.power.dev with
    | .off => 3
    | .quiet => 2
    | .active => if s.power.bindOff.isSome then 7 else if moduleFailed s then 5 else if s.trust.recovery then 4 else 1

/-- The newest record; without one, what stands for it is free (log 1). -/
def newestRecord (s : State) : Bytes × State :=
  match look s.ras.ring ((s.ras.nextIdx + 255) % 256) with
  | some b => (b, s)
  | none => let f := takeFree s; (toLE 64 f.1, f.2)

/-- An answer of the endpoint. -/
def smbAnswer (s : State) (d : Bytes) : State := put1 s (.smb d)

/-- STATUS clears the latched alert. -/
def smbStatus (s : State) : State :=
  if !endpointOn s then s
  else
    let flags := b2n s.trust.ready + 2 * fld s rPWR_STAT 10 10 + 4 * fld s rPWR_STAT 9 9 + 8 * b2n s.pins.alert + 16 * fld s rHP_STAT 0 0
    let d := toLE 1 (smbState s) ++ toLE 1 flags ++ toLE 1 (fld s rPWR_STAT 19 16) ++ toLE 1 s.trust.bootCode
    let r := newestRecord s
    smbAnswer { r.2 with pins := { r.2.pins with alert := false } } (d ++ r.1.take 4)

def execSmbStatus (s : State) : Host.Outcome State Fault Refusal := .next (smbStatus s)

def smbTelemetry (s : State) : State :=
  if !endpointOn s then s
  else smbAnswer s (toLE 2 (fld s (rTELEM + 4) 31 16) ++ toLE 2 (fld s (rTELEM + 4) 15 0) ++ toLE 2 (fld s rTELEM 15 0)
    ++ toLE 1 (fld s (rTELEM + 8) 31 24) ++ toLE 1 (fld s (rTELEM + 8) 23 16) ++ toLE 1 (fld s (rTELEM + 8) 15 8) ++ zeros 3)

def execSmbTelemetry (s : State) : Host.Outcome State Fault Refusal := .next (smbTelemetry s)

def smbIdentity (s : State) : State :=
  if !endpointOn s then s
  else smbAnswer s (toLE 8 s.fuses.serial.toNat ++ toLE 1 (b2n s.fuses.variantB) ++ toLE 1 (if s.fuses.stepA1 then 1 else 2)
    ++ toLE 1 (mySlot s) ++ toLE 1 (myPos s) ++ toLE 4 s.pins.boardId.toNat)

def execSmbIdentity (s : State) : Host.Outcome State Fault Refusal := .next (smbIdentity s)

def smbLastFault (s : State) : State :=
  if !endpointOn s then s
  else
    let r := newestRecord s
    smbAnswer r.2 r.1

def execSmbLastFault (s : State) : Host.Outcome State Fault Refusal := .next (smbLastFault s)

def execSmbCaston (s : State) : Host.Outcome State Fault Refusal := .next (if endpointOn s then castRequest s else s)

/-- BIND_OFF of the endpoint: in service, and with none in progress. -/
def smbBindOff (s : State) : State :=
  if !endpointOn s || s.power.dev == .off || !s.trust.ready || s.trust.recovery || s.power.bindOff.isSome then s
  else startBindOff s none 0

def execSmbBindOff (s : State) : Host.Outcome State Fault Refusal := .next (smbBindOff s)

/-! ### The targets of the bus and the FRU EEPROM (R482, R483, R485) -/

/-- A target acknowledges its address: the FRU EEPROM reads and no write, the endpoint while it is powered, and the alert response address
while the module drives its alert line. -/
def busAck (s : State) (addr : Nat) (write : Bool) : Bool :=
  if addr = 0x50 then !write
  else if addr = 0x58 then endpointOn s
  else addr == 0x0C && !write && endpointOn s && alertLow s

/-- Bytes closed by the checksum that makes their sum 0 (IPMI FRU 1.0, log 60). -/
def sumZero (l : Bytes) : Bytes := l ++ [BitVec.ofNat 8 (256 - (l.map (·.toNat)).sum % 256)]

/-- A text of the FRU format: its type and length, then its characters. -/
def fruText (t : String) : Bytes := BitVec.ofNat 8 (192 + t.length) :: t.toList.map fun c => BitVec.ofNat 8 c.toNat

/-- An area of `8 * k` bytes: its version and length, its content, and the checksum. -/
def fruArea (k : Nat) (body : Bytes) : Bytes := sumZero ((1 : Byte) :: BitVec.ofNat 8 k :: (body ++ zeros (8 * k)).take (8 * k - 3))

/-- The product's name. -/
def productName (s : State) : String := if s.fuses.variantB then "Kealar KX11-B" else "Kealar KX11-A"

/-- The board information area: language, manufacture date, manufacturer, product, serial, no part number and no file. -/
def fruBoard (s : State) : Bytes :=
  fruArea 7 ([0] ++ (List.range 3).map Config.fru ++ fruText "Ryilo Semiconductor" ++ fruText (productName s)
    ++ [8] ++ toLE 8 s.fuses.serial.toNat ++ [0xC0, 0xC0, 0xC1])

/-- The body of the OEM record (Table 19.7). -/
def fruOem (s : State) : Bytes :=
  toLE 3 0x594C52 ++ [1] ++ toLE 1 (b2n s.fuses.variantB) ++ toLE 1 (if s.fuses.stepA1 then 1 else 2) ++ toLE 8 s.fuses.serial.toNat
  ++ toLE 2 1200 ++ toLE 2 150 ++ [40, 0] ++ toLE 2 512 ++ toLE 2 (if s.fuses.variantB then 0 else 1536)

/-- The one OEM record: its header, whose checksum follows that of the body. -/
def fruRecord (s : State) : Bytes :=
  let b := fruOem s
  sumZero [0xC0, 0x82, BitVec.ofNat 8 b.length, ((sumZero b).getLastD 0)] ++ b

/-- The 8 KiB of the FRU EEPROM: common header, board area, product area, OEM record. -/
def fruBytes (s : State) : Bytes :=
  let used := sumZero [1, 0, 0, 1, 8, 16, 0] ++ fruBoard s ++ fruArea 8 ((List.range 61).map fun i => Config.fru (3 + i)) ++ fruRecord s
  used ++ (List.range (8192 - used.length)).map fun i => Config.fru (64 + i)

/-- What a read of the EEPROM gives. -/
def fruRead (s : State) (a n : Nat) : Bytes := ((fruBytes s).drop a).take n

/-! ### The test access port (R486, R487) -/

/-- IDCODE. -/
def idCode (s : State) : Nat := if s.fuses.stepA1 then 0x10B1134B else 0x20B1134B

/-- An instruction loaded. -/
def tapLoad (s : State) (ir : Nat) : State := { s with pins := { s.pins with tapIr := ir } }
/-- What leaves TDO in the scan that follows. -/
def tapOut (s : State) (n v : Nat) : State := put1 s (.tap n v)
/-- The bypass register: one bit, captured as 0. -/
def tapBypass (s : State) : State := tapOut s 1 0
/-- A register whose length and captured content the spec does not give (log 1). -/
def tapFree (s : State) : State :=
  let n := takeFree s
  let v := takeFree n.2
  tapOut v.2 n.1 (v.1 % 2 ^ n.1)
/-- The boundary register loaded with what is shifted in, which no operand gives (log 1). -/
def boundaryFree (s : State) : State :=
  let f := takeFree s
  { f.2 with pins := { f.2.pins with boundary := f.1 } }

/-- An instruction that acts only while RESET_N is low, and is BYPASS else. -/
def inReset (s : State) (act : State → State) : State := if s.pins.resetLow then act s else tapBypass s

def execExtest (s : State) : Host.Outcome State Fault Refusal :=
  .next (inReset (tapLoad s 0x00) fun s => boundaryFree (tapFree s))
def execIdcode (s : State) : Host.Outcome State Fault Refusal := .next (tapOut (tapLoad s 0x01) 32 (idCode s))
def execSamplePreload (s : State) : Host.Outcome State Fault Refusal := .next (boundaryFree (tapFree (tapLoad s 0x02)))
def execClamp (s : State) : Host.Outcome State Fault Refusal := .next (inReset (tapLoad s 0x04) tapBypass)
def execHighz (s : State) : Host.Outcome State Fault Refusal := .next (inReset (tapLoad s 0x05) tapBypass)
def execExtestPulse (s : State) : Host.Outcome State Fault Refusal :=
  .next (inReset (tapLoad s 0x06) fun s => boundaryFree (tapFree s))
def execExtestTrain (s : State) : Host.Outcome State Fault Refusal :=
  .next (inReset (tapLoad s 0x07) fun s => boundaryFree (tapFree s))

/-- The register that chooses a stack takes what is shifted in, which no operand gives (log 1). -/
def hbmSelect (s : State) : State :=
  let f := takeFree s
  tapOut { f.2 with pins := { f.2.pins with hbmSel := f.1 % 8 } } 3 s.pins.hbmSel

def execHbmSel (s : State) : Host.Outcome State Fault Refusal := .next (inReset (tapLoad s 0x20) hbmSelect)
def execHbmWir (s : State) : Host.Outcome State Fault Refusal := .next (inReset (tapLoad s 0x21) tapFree)
def execHbmWdr (s : State) : Host.Outcome State Fault Refusal := .next (inReset (tapLoad s 0x22) tapFree)
def execDebug (s : State) : Host.Outcome State Fault Refusal :=
  .next (if s.fuses.debugOpen then tapFree (tapLoad s 0x40) else tapBypass (tapLoad s 0x40))
def execBypass (s : State) : Host.Outcome State Fault Refusal := .next (tapBypass (tapLoad s 0xFF))

end Sys2Proof.Machine
end

