-- ==== Sys2Proof/Machine/Segments.lean ====
section
/-! DEFINITION. Any KCT packet received: the commands by opcode, the later segments of inbound transfers, acknowledgements, and the timers
of segmented transfers (13, R325–R330, R337). -/

namespace Sys2Proof.Machine

/-! ### The commands by opcode (Table 13.9) -/

/-- A command of several operations: the one its OP byte names; a reserved OP is refused. -/
def byOp (op : Nat) (l : List (State → Req → State)) (s : State) (r : Req) : State :=
  match l[op]? with
  | some f => f s r
  | none => fail s r stParam

/-- MARCH_RUN with the outcome of its test free: no operand gives it (log 1). -/
def marchFree (s : State) (r : Req) : State :=
  let f := takeFree s
  let g := takeFree f.2
  byOp (num r.pkt.payload 0 1)
    [marchOp (marchMarch (if f.1 % 2 = 0 then [] else [g.1])), marchOp (marchSwatch (f.1 % 2 == 0)), marchOp marchRetire,
     marchOp marchFullNext, marchOp marchStatus, marchOp marchBgPeriod] g.2 r

/-- What a command accepted does, by its opcode and the operation its payload names. -/
def opRun (s : State) (r : Req) : State :=
  let pl := r.pkt.payload
  let op := r.pkt.hdr.opcode
  let o := num pl 0 1
  if op == opOPEN then openContext s r
  else if op == opCLOSE then closeContext s r
  else if op == opCAPS then queryCaps s r
  else if op == opWRITE then writeMem s r
  else if op == opREAD then readMem s r
  else if op == opALLOC then byOp o [memGrant, memFree] s r
  else if op == opINSTALL then modelInstall s r
  else if op == opWEIGHTS then loadWeights s r
  else if op == opGRAFT then byOp o [graftRegister, graftUnregister] s r
  else if op == opREMOVE then modelRemove s r
  else if op == opADMIT then reqAdmit s r
  else if op == opAPPEND then (if bit 0 (num pl 4 1) then reqAppendDraft s r else reqAppend s r)
  else if op == opPRUNE then reqPrune s r
  else if op == opACCEPT then reqAccept s r
  else if op == opQUERY then reqQuery s r
  else if op == opSUBMIT then byOp o [submitGraph, submitInstalled] s r
  else if op == opWAIT then syncWait s r
  else if op == opSIGNAL then byOp (num pl 2 1) [syncSignal addCtr, syncSignal setCtr] s r
  else if op == opSALLOC then byOp o [syncAlloc, syncFree] s r
  else if op == opRREAD then regRead s r
  else if op == opRWRITE then regWrite s r
  else if op == opCFG then byOp o [cfgCommit, cfgCommitRef] s r
  else if op == opMAP then (if bit 0 o then linkMapAdopt s r else linkMapCommit s r)
  else if op == opCOPEN then collectiveOpen s r
  else if op == opCCLOSE then collectiveClose s r
  else if op == opPOWER then byOp o [holdActive, allowQuiet, bindOff] s r
  else if op == opTIME then timeRead s r
  else if op == opMARCH then marchFree s r
  else if op == opHBM then byOp o [hbmQuery, repairRow false, repairRow true, commitSoft, testAccess, maintEnter, maintExit, retireStack] s r
  else if op == opSTAGE then fwStage s r
  else if op == opACTIVATE then byOp o [activate, confirm, armTrusted, confirmTrusted, disarmTrusted] s r
  else if op == opATTEST then attest s r
  else if op == opSUB then eventSubscribe s r
  else eventUnsubscribe s r

/-- What segment 0 of a transfer does at once. -/
def opFirst (r : Req) : State → Except Nat State :=
  if r.pkt.hdr.opcode == opWRITE then writeFirst r
  else if r.pkt.hdr.opcode == opSTAGE then stageFirst r
  else fun s => .ok s

/-! ### Later segments (R325–R327, R329) -/

/-- A transfer ends with a status. -/
def endWith (s : State) (x : InXfer) (status : Nat) (detail : Nat := 0) : State := fail (endIn s x) x.req status detail

/-- A segment's data at its place: memory or flash as it arrives, else the staging blocks; a place the context may not write ends the
transfer. -/
def placeSegment (s : State) (x : InXfer) (i : Nat) (d : Bytes) : Except Nat State :=
  let pl := x.req.pkt.payload
  let c := x.req.pkt.hdr.ctx
  match x.staging with
  | some (b, _) => .ok (st s 1 (b * 65536 + i * x.size) d)
  | none =>
    if x.req.pkt.hdr.opcode == opWRITE then
      let head := toLE 8 (num pl 0 1) ++ toLE 8 (num pl 8 8 + i * x.size - 16)
      match writeFault s c head d.length with
      | some e => .error e
      | none => .ok (writeData s c (num pl 0 1) (num pl 8 8 + i * x.size - 16) d)
    else .ok (writeBank s (stageBank s (num pl 0 1)) (i * x.size - 8) d)

/-- The last of a transfer's segments has come: the command completes, or runs on the payload gathered. -/
def finishIn (s : State) (x : InXfer) : State :=
  let n := x.last * x.size + x.lastLen
  if x.req.pkt.hdr.opcode == opWRITE then endWith s x stOK
  else if x.req.pkt.hdr.opcode == opSTAGE then
    if n = 8 + num x.req.pkt.payload 4 4 then stageEnd (endIn s x) x.req (num x.req.pkt.payload 0 1) else endWith s x stLength
  else
    let pl := stagedPayload s x
    let bad := match x.staging with
      | some (b, _) => firstBad s 1 (b * 65536) n
      | none => none
    let r := { x.req with pkt := { x.req.pkt with payload := pl } }
    let s := endIn s x
    match bad with
    | some a => cmdUe s r 1 a
    | none => if lengthOk r.pkt.hdr.opcode pl then opRun s r else fail s r stLength

/-- A segment of a transfer under way. -/
def takeSegment (s : State) (x : InXfer) (p : Pkt) : State :=
  let i := p.hdr.segment
  let n := p.payload.length
  if p.hdr.segLast ≠ x.last || x.last < i || (i < x.last && n != x.size) || n = 0 || x.size < n then endWith s x stLength
  else match placeSegment s x i p.payload with
    | .error e => endWith s x e
    | .ok s =>
      let new := !x.got.contains i
      let x := { x with got := if new then i :: x.got else x.got, lastLen := if i = x.last then n else x.lastLen,
                        sinceAck := if new then x.sinceAck + 1 else x.sinceAck, arrived := s.time, acked := false }
      if x.got.length = x.last + 1 then finishIn (putIn s x) x
      else if 16 ≤ x.sinceAck then
        let x := { x with sinceAck := 0, acked := true }
        sendAck (putIn s x) x
      else putIn s x

/-- A later segment: without its transfer it is dropped. -/
def segArrive (s : State) (r : Req) : State :=
  match findIn s r.pkt.hdr.ctx r.pkt.hdr.seq with
  | some x => if x.req.pkt.hdr.opcode == r.pkt.hdr.opcode then takeSegment s x r.pkt else s
  | none => s

/-! ### Acknowledgements of what the device sends (R326, R328, R330) -/

def sameOut (c : Nat) (q : W32) (x : OutXfer) : Bool := x.hdr.ctx == c && x.hdr.seq == q
def findOut (s : State) (c : Nat) (q : W32) : Option OutXfer := s.kct.outX.find? (sameOut c q)
def putOut (s : State) (x : OutXfer) : State :=
  { s with kct := { s.kct with outX := s.kct.outX.map fun y => if sameOut x.hdr.ctx x.hdr.seq y then x else y } }
def dropOut (s : State) (x : OutXfer) : State :=
  { s with kct := { s.kct with outX := s.kct.outX.filter fun y => !sameOut x.hdr.ctx x.hdr.seq y } }

/-- A segment sent again, counted; after 8 times without progress the transfer is abandoned (`none`). -/
def resendSeg (s : State) (x : OutXfer) (i : Nat) : Option (State × OutXfer) :=
  let n := (look x.tries i).getD 0
  if 8 ≤ n then none else some (sendSegment s x i, { x with tries := put x.tries i (n + 1) })

/-- Segments sent again in order. -/
def resendAll (s : State) (x : OutXfer) : List Nat → Option (State × OutXfer)
  | [] => some (s, x)
  | i :: is => match resendSeg s x i with
    | some (s, x) => resendAll s x is
    | none => none

/-- A transfer abandoned. -/
def abandonOut (s : State) (x : OutXfer) : State := bump64 (dropOut s x) (rHP_PERF + 24) 1

/-- The last segment of an outbound transfer. -/
def outLast (x : OutXfer) : Nat := (x.data.length - 1) / x.size

/-- An ACK moves the window, has the segments it reports missing sent again, and lets new ones go. -/
def takeAck (s : State) (x : OutXfer) (pl : Bytes) : State :=
  let b := if num pl 0 2 = 0 && outLast x = 65535 && x.base != 0 then 65536 else num pl 0 2
  if b < x.base || x.next < b then s
  else
    let got := ((bitList 2048 (num pl 8 256)).map fun i => b + 1 + i).filter fun i => i < x.next
    let x := { x with base := b, got := got, moved := if x.base < b then s.time else x.moved, tries := if x.base < b then [] else x.tries }
    if outLast x < b then dropOut s x
    else
      let top := got.foldl max 0
      let missing := (List.range (top - b)).filterMap fun k => if got.contains (b + k) then none else some (b + k)
      match resendAll s x missing with
      | none => abandonOut s x
      | some (s, x) =>
        let y := pump s x 257
        putOut y.1 y.2

/-- An ACK packet. -/
def ackArrive (s : State) (r : Req) : State :=
  match findOut s r.pkt.hdr.ctx r.pkt.hdr.seq with
  | some x => if r.pkt.payload.length = 264 && x.hdr.opcode == r.pkt.hdr.opcode then takeAck s x r.pkt.payload else s
  | none => s

/-! ### Any packet addressed to this module -/

/-- A packet received: a command, a later segment, or an acknowledgement; the checks of Table 13.3 first, and during a hand-over it waits. -/
def receivePkt (s : State) (r : Req) : State :=
  let op := r.pkt.hdr.opcode
  if s.trust.handover.isNone && verdict s op r = .dropQuiet then
    if r.pkt.frame == .tcp then s
    else if r.pkt.hdr.ack then ackArrive (arrived s r) r
    else segArrive (arrived s r) r
  else receiveWith s op r (fun s r => opRun s r) (opFirst r)

/-- The packets that waited in the receive buffer, in the order of arrival. -/
def replayBuffer (s : State) : State := s.kct.buffer.foldl receivePkt (bufferTaken s)

/-- A row's packet, from the host port. -/
def hostReq (p : Pkt) : Req := { pkt := p, via := none }

def execTransferSegment (p : Pkt) (s : State) : Host.Outcome State Fault Refusal :=
  .next (if p.hdr.seg && p.hdr.segment != 0 && !p.hdr.ack then receivePkt s (hostReq p) else s)

def execAckReceive (p : Pkt) (s : State) : Host.Outcome State Fault Refusal :=
  .next (if p.hdr.ack then receivePkt s (hostReq p) else s)

/-- The command is one whose OP the spec reserves: its own check refuses it. -/
def reservedOp (r : Req) : Bool :=
  let o := num r.pkt.payload 0 1
  let top := [(opALLOC, 2), (opGRAFT, 2), (opSUBMIT, 2), (opSALLOC, 2), (opCFG, 2), (opMAP, 2), (opPOWER, 3), (opMARCH, 6), (opHBM, 8),
              (opSTAGE, 3), (opACTIVATE, 5)]
  (top.any fun x => x.1 == r.pkt.hdr.opcode && x.2 ≤ o) || (r.pkt.hdr.opcode == opSIGNAL && 2 ≤ num r.pkt.payload 2 1)

/-- A datagram that fails a receive check, or whose OP is reserved; one that passes is another row's. -/
def receiveCheckFail (s : State) (r : Req) : State :=
  match verdict s r.pkt.hdr.opcode r with
  | .accept => if reservedOp r then receivePkt s r else s
  | .forward => s
  | .dropQuiet => s
  | _ => receivePkt s r

def execReceiveCheckFail (p : Pkt) (s : State) : Host.Outcome State Fault Refusal := .next (receiveCheckFail s (hostReq p))

/-! ### Timers (R327–R330) -/

/-- 20 µs after the last arrival without an ACK. -/
def ackTimer (s : State) (c : Nat) (q : W32) : State :=
  match findIn s c q with
  | none => s
  | some x =>
    if x.acked || s.time < x.arrived + 500 then s
    else
      let x := { x with sinceAck := 0, acked := true }
      sendAck (putIn s x) x

def execAckTimer (ctx : Nat) (seq : W32) (s : State) : Host.Outcome State Fault Refusal := .next (ackTimer s ctx seq)

/-- 200 µs without progress: everything not acknowledged goes again. -/
def retransmit (s : State) (c : Nat) (q : W32) : State :=
  match findOut s c q with
  | none => s
  | some x =>
    if s.time < x.moved + 5000 then s
    else
      let open_ := (List.range (x.next - x.base)).filterMap fun k => if x.got.contains (x.base + k) then none else some (x.base + k)
      match resendAll s { x with moved := s.time } open_ with
      | none => abandonOut s x
      | some (s, x) => putOut s x

def execSegmentRetransmitTimer (ctx : Nat) (seq : W32) (s : State) : Host.Outcome State Fault Refusal := .next (retransmit s ctx seq)

/-- 100 ms without a segment. -/
def transferTimeout (s : State) (c : Nat) (q : W32) : State :=
  match findIn s c q with
  | none => s
  | some x => if s.time < x.arrived + 2500000 then s else endWith s x stLength 1

def execTransferTimeout (ctx : Nat) (seq : W32) (s : State) : Host.Outcome State Fault Refusal := .next (transferTimeout s ctx seq)

/-- 50 µs without ECE: the rate to a destination rises by 2 % of line rate, to all of it at most. -/
def rateRaise (s : State) (d : Endpoint) : State :=
  match s.kct.rates.find? fun x => x.dst == d with
  | none => s
  | some x =>
    if s.time < x.changed + 1250 then s
    else
      let n := x.num + 2 * 2 ^ x.exp
      if 100 * 2 ^ x.exp ≤ n then { s with kct := { s.kct with rates := s.kct.rates.filter fun y => y.dst != d } }
      else setRate s { x with num := n, changed := s.time }

def execEcnRateRaise (dst : Endpoint) (s : State) : Host.Outcome State Fault Refusal := .next (rateRaise s dst)

end Sys2Proof.Machine
end

