-- ==== Sys2Proof/Machine/Handover.lean ====
section
/-! DEFINITION. The end of a live hand-over (17, R435, R436). -/

namespace Sys2Proof.Machine

/-- Items 6 to 18 after a hand-over, then what waits. -/
def afterHandover (s : State) : State := replayBuffer (finishBindOff (answerMaint (boundary s [])))

/-- The new image reports ready: its bank is selected, the old copy's half is free, and it forms the next step afresh and carries out
items 6 to 18 (R246 item 5). -/
def handoverReady (s : State) : State :=
  match s.trust.handover, s.trust.pending with
  | some _, some i =>
    let old := s.trust.running
    let s := { s with trust := { s.trust with running := i, selUntr := 1 - s.trust.selUntr % 2, half := 1 - s.trust.half % 2,
                                              staged := put s.trust.staged 0 old, pending := none, handover := none } }
    let s := boundary (formStep (dropNext s) (boundaryTime s)) []
    let s := notify s 0 0x0A1C 0 0 (toLE 8 old.build.toNat ++ toLE 8 i.build.toNat)
    replayBuffer (finishBindOff (answerMaint s))
  | _, _ => s

def execHandoverReady (s : State) : Host.Outcome State Fault Refusal := .next (handoverReady s)

/-- The new image fails, or is not ready in time: the previous one resumes from the state it wrote. -/
def handoverFails (s : State) : State :=
  match s.trust.handover, s.trust.pending with
  | some _, some _ =>
    let s := { s with trust := { s.trust with m2 := sha256 (s.trust.m2 ++ s.trust.running.digest), pending := none, handover := none } }
    afterHandover (record s { code := 0x0904, sev := 2, unit := 13 })
  | _, _ => s

def execHandoverTimeout (s : State) : Host.Outcome State Fault Refusal := .next (handoverFails s)

end Sys2Proof.Machine
end

