-- ==== Sys2Proof/Machine/Transport.lean ====
section
/-! DEFINITION. The host port's link and addresses, what it answers besides commands, the proxy path, and data flits (13, 14, R312, R344,
R345, R355, R467). -/

namespace Sys2Proof.Machine

/-! ### The port's link and addresses (R311, R312, R467, Table 13.14) -/

/-- The port is powered. -/
def portOn (s : State) : Bool := s.power.dev != .off

/-- The port trains the lanes named. With all four every field of HP_STAT follows, the relay of events stops, addresses are asked for, and
what is queued goes; with fewer the port stays down (R311). -/
def portLinkUp (s : State) (an : Bool) (lanes : Nat) : State :=
  if !portOn s || portUp s || an != decide (hpFld s rHP_CFG2 31 30 < 2) then s
  else if lanes ≠ 15 then setFld s rHP_STAT 7 4 lanes
  else
    let s := setFld (setFld s rHP_STAT 7 4 15) rHP_STAT 2 0 (3 + 4 * b2n an)
    let s := { s with ras := { s.ras with downSince := none, downSeen := false }, kct := { s.kct with portRetrain := false } }
    portSettle (portResumes (dhcpRequest s))

def execHostPortLinkUp (train : PortTrain) (s : State) : Host.Outcome State Fault Refusal :=
  .next (portLinkUp s train.an train.lanes)

/-- The port loses its link: context 0's events go by a neighbour from now on. -/
def execHostPortLinkLoss (s : State) : Host.Outcome State Fault Refusal := .next (flushSub (portSettle (portLost s)) 0 258)

/-- LINK_UP has been 0 for 1 s. -/
def hostPortDown (s : State) : State :=
  match s.ras.downSince with
  | none => s
  | some t =>
    if !portOn s || portUp s || s.ras.downSeen || s.time < t + 25000000 then s
    else record { s with ras := { s.ras with downSeen := true } } { code := 0x0B01, sev := 1, unit := 17 }

def execHostPortDown (s : State) : Host.Outcome State Fault Refusal := .next (hostPortDown s)

/-- DHCP gives an address and a router; the router of IPv6 comes by router advertisement, in either mode. -/
def dhcpReply (s : State) (fam addr router : Nat) : State :=
  if !portUp s || addr = 0 || (fam ≠ 4 && fam ≠ 6) then s
  else if hpFld s rHP_CFG2 15 15 = 1 then
    (if fam = 6 then { s with kct := { s.kct with router6 := router % 2 ^ 128 } } else s)
  else
    let k := if fam = 4 then { s.kct with addr4 := some (addr % 2 ^ 32), router4 := router % 2 ^ 32 }
             else { s.kct with addr6 := some (addr % 2 ^ 128), router6 := router % 2 ^ 128 }
    portSettle (portResumes (setFld { s with kct := k } rHP_STAT 3 3 1))

def execDhcpReply (fam : Nat) (addr router : Nat) (s : State) : Host.Outcome State Fault Refusal := .next (dhcpReply s fam addr router)

/-! ### LLDP, neighbours, echo, pause (R312) -/

/-- The management address. -/
def mgmtAddr (s : State) : Option Endpoint :=
  match s.kct.addr4, s.kct.addr6 with
  | some a, _ => some { fam := 4, addr := a, port := 0 }
  | none, some a => some { fam := 6, addr := a, port := 0 }
  | none, none => none

/-- An LLDP frame every 30 s, with or without an address. -/
def lldpTransmit (s : State) : State :=
  if !portUp s || s.time < s.kct.lldpAt + 750000000 then s
  else put1 { s with kct := { s.kct with lldpAt := s.time } } 
    (.lldp s.fuses.serial (Config.portId s.fuses.serial) (Config.systemName s.fuses.serial) (mgmtAddr s) s.pins.boardId (mySlot s))

def execLldpTransmit (s : State) : Host.Outcome State Fault Refusal := .next (lldpTransmit s)

/-- An address of the port. -/
def isMine (s : State) (fam a : Nat) : Bool :=
  portUp s && hasAddr s &&
  (if fam = 4 then s.kct.addr4 == some a else fam == 6 && (s.kct.addr6 == some a || Config.linkLocal s.fuses.serial == a))

def neighborAnswer (s : State) (fam target : Nat) (asker : Endpoint) : State :=
  if isMine s fam target then hostSend s (.neighbor fam target asker) else s

def execArpNeighborDiscovery (fam : Nat) (target : Nat) (asker : Endpoint) (s : State) : Host.Outcome State Fault Refusal :=
  .next (neighborAnswer s fam target asker)

def echoAnswer (s : State) (fam target : Nat) (asker : Endpoint) (data : Bytes) : State :=
  if isMine s fam target then hostSend s (.echo fam target asker data) else s

def execIcmpEcho (fam : Nat) (target : Nat) (asker : Endpoint) (data : Bytes) (s : State) : Host.Outcome State Fault Refusal :=
  .next (echoAnswer s fam target asker data)

/-- A pause frame on the configured priority stops transmission, and one that ends it lets what waits go. -/
def pfcPause (s : State) (prio : Nat) (on : Bool) : State :=
  if !portUp s || hpFld s rHP_CFG 3 3 = 0 || prio ≠ hpFld s rHP_CFG 2 0 then s
  else
    let s := { s with kct := { s.kct with paused := on } }
    if on then s else portSettle (portResumes s)

def execPfcPauseReceive (prio : Nat) (on : Bool) (s : State) : Host.Outcome State Fault Refusal := .next (pfcPause s prio on)

/-! ### The proxy path (R344, R345) -/

/-- A packet for another slot, from the host. -/
def execProxyForward (p : Pkt) (s : State) : Host.Outcome State Fault Refusal :=
  .next (if s.trust.handover.isSome then bufferPkt s (hostReq p)
         else if verdict s p.hdr.opcode (hostReq p) = .forward then rejected s (hostReq p) .forward else s)

/-- The slot at the far end of a board link. -/
def slotOf (s : State) (n : Nat) : Nat := Nat.xor (mySlot s) (n + 1)

/-- A packet ends what the forwarder remembers of a command: its one reply, but for a REQ_ADMIT that was not refused, whose tokens follow
under the same sequence (R336). -/
def endsProxy (x : Proxy) (h : Hdr) : Bool :=
  h.reply && !h.seg && (x.req.pkt.hdr.opcode != opADMIT || (!h.stream && h.status != stOK && h.status != stDeferred))

/-- What the target of a forwarded command sends goes on to the command's source; a reply is noted. -/
def relayReply (s : State) (n : Nat) (h : Hdr) (payload : Bytes) : State :=
  match s.kct.proxies.find? fun x => x.link == n && x.req.pkt.hdr.seq == h.seq with
  | none => s
  | some x =>
    let upd := fun (y : Proxy) => if y = x then
      { y with at_ := s.time, answered := y.answered || h.reply, final := y.final || (h.stream && h.seg) } else y
    let s := { s with kct := { s.kct with
      proxies := if endsProxy x h then s.kct.proxies.filter (· != x) else s.kct.proxies.map upd } }
    hostSend s (.fromLink x.req.pkt.src { h with proxy := true, proxySlot := slotOf s n } payload)

/-- An event of a neighbour whose port is down, sent on (R345). -/
def relayEvent (s : State) (n : Nat) (dst : Endpoint) (h : Hdr) (payload : Bytes) : State :=
  hostSend s (.fromLink dst { h with proxy := true, proxySlot := slotOf s n } payload)

/-- A proxied command, segment or acknowledgement for this module; a target never forwards. -/
def proxyTake (s : State) (n : Nat) (p : Pkt) : State :=
  if p.hdr.proxySlot ≠ mySlot s then s else receivePkt (wakeDevice s) { pkt := p, via := some n }

/-- A board link that carries traffic. -/
def boardLink (s : State) (n : Nat) : Bool := n < 7 && linkOk s n && portOn s

def execProxyReply (link : Nat) (p : Pkt) (s : State) : Host.Outcome State Fault Refusal :=
  .next (if boardLink s link && (p.hdr.reply || p.hdr.ack) then relayReply (wakeDevice s) link p.hdr p.payload else s)

def execProxyLinkReceive (link : Nat) (p : Pkt) (s : State) : Host.Outcome State Fault Refusal :=
  .next (if boardLink s link && !p.hdr.event then proxyTake s link p else s)

def execProxyEventRelay (link : Nat) (p : Pkt) (s : State) : Host.Outcome State Fault Refusal :=
  .next (if boardLink s link && p.hdr.event then relayEvent (wakeDevice s) link p.src p.hdr p.payload else s)

/-- 10 ms without a reply: the forwarder answers itself. -/
def proxyTimeout (s : State) (slot : Nat) (q : W32) : State :=
  match s.kct.proxies.find? fun x => x.slot == slot && x.req.pkt.hdr.seq == q with
  | none => s
  | some x =>
    if s.time < x.at_ + 250000 || (x.answered && x.req.pkt.hdr.opcode == opADMIT && !x.final) then s
    else
      let s := { s with kct := { s.kct with proxies := s.kct.proxies.filter (· != x) } }
      if x.answered then s else bareReply s x.req stLink 0

def execProxyTimeout (slot : Nat) (seq : W32) (s : State) : Host.Outcome State Fault Refusal := .next (proxyTimeout s slot seq)

/-! ### Data flits (R352, R355) -/

/-- A KCT header as bytes say it (Table 13.2), the reserved bits as `kctBytes` has them. -/
def kctHdr (b : Bytes) : Hdr :=
  let f := num b 1 1
  let r := num b 1 1 % 2 + bits 15 12 (num b 2 2) * 2 + bits 7 3 (num b 28 1) * 32 + num b 29 3 * 1024
  { version := num b 0 1, reply := bit 7 f, event := bit 6 f, ack := bit 5 f, seg := bit 4 f, stream := bit 3 f, ece := bit 2 f,
    proxy := bit 1 f, rsv := r, ctx := num b 2 2 % 4096, token := BitVec.ofNat 32 (num b 4 4), seq := BitVec.ofNat 32 (num b 8 4),
    opcode := num b 12 2, status := num b 14 1, detail := num b 15 1, hostTag := BitVec.ofNat 32 (num b 16 4), plen := num b 20 2,
    segment := num b 22 2, segLast := num b 24 2, credit := num b 26 2, proxySlot := num b 28 1 % 8 }

/-- A KCT packet that a management packet of the trellis brings: a neighbour's event, a packet for this module, or an answer to what it has
forwarded. Where an event is to go its packet does not say: that is free (log 1). The source of a proxied packet is known to its forwarder
alone. -/
def kctFromLink (s : State) (n : Nat) (b : Bytes) : State :=
  let h := kctHdr b
  if b.length < 32 || b.length ≠ 32 + h.plen || !boardLink s n then s
  else if h.event then
    let f := takeFree s
    let g := takeFree f.2
    relayEvent g.2 n { fam := if f.1 % 2 = 0 then 4 else 6, addr := g.1, port := f.1 / 2 % 65536 } h (b.drop 32)
  else if h.proxy && h.proxySlot == mySlot s then
    proxyTake s n { (default : Pkt) with dport := hpFld s rHP_CFG 31 16, vlan := hpFld s rHP_CFG 15 4, hdr := h, payload := b.drop 32 }
  else relayReply s n h (b.drop 32)

def execDataFlitReceive (n : Nat) (f : DataFlit) (s : State) : Host.Outcome State Fault Refusal :=
  .next (if portOn s then flitReceive s n f.bytes kctFromLink else s)

end Sys2Proof.Machine
end

