-- ==== Sys2Proof/Machine/Dispatch.lean ====
section
/-! DEFINITION. The dispatch: one arm for each command of the table, each a call of its meaning. -/

namespace Sys2Proof.Machine

def exec (i : Instr) (s : State) : Host.Outcome State Fault Refusal :=
  match i with
  | .openContext p => Sys2Proof.Machine.execOpenContext p s
  | .closeContext p => Sys2Proof.Machine.execCloseContext p s
  | .queryCaps p => Sys2Proof.Machine.execQueryCaps p s
  | .writeMem p => Sys2Proof.Machine.execWriteMem p s
  | .readMem p => Sys2Proof.Machine.execReadMem p s
  | .memAllocGrant p => Sys2Proof.Machine.execMemAllocGrant p s
  | .memAllocFree p => Sys2Proof.Machine.execMemAllocFree p s
  | .modelInstall p => Sys2Proof.Machine.execModelInstall p s
  | .loadWeights p => Sys2Proof.Machine.execLoadWeights p s
  | .graftRegister p => Sys2Proof.Machine.execGraftRegister p s
  | .graftUnregister p => Sys2Proof.Machine.execGraftUnregister p s
  | .modelRemove p => Sys2Proof.Machine.execModelRemove p s
  | .reqAdmit p => Sys2Proof.Machine.execReqAdmit p s
  | .reqAppend p => Sys2Proof.Machine.execReqAppend p s
  | .reqAppendDraft p => Sys2Proof.Machine.execReqAppendDraft p s
  | .reqPrune p => Sys2Proof.Machine.execReqPrune p s
  | .reqAccept p => Sys2Proof.Machine.execReqAccept p s
  | .reqQuery p => Sys2Proof.Machine.execReqQuery p s
  | .submitGraph p => Sys2Proof.Machine.execSubmitGraph p s
  | .submitGraphInstalled p => Sys2Proof.Machine.execSubmitGraphInstalled p s
  | .syncWait p => Sys2Proof.Machine.execSyncWait p s
  | .syncSignalAdd p => Sys2Proof.Machine.execSyncSignalAdd p s
  | .syncSignalSet p => Sys2Proof.Machine.execSyncSignalSet p s
  | .syncAllocAllocate p => Sys2Proof.Machine.execSyncAllocAllocate p s
  | .syncAllocFree p => Sys2Proof.Machine.execSyncAllocFree p s
  | .regRead p => Sys2Proof.Machine.execRegRead p s
  | .regWrite p => Sys2Proof.Machine.execRegWrite p s
  | .linkCtlRetrain p n v => Sys2Proof.Machine.execLinkCtlRetrain p n v s
  | .linkCtlEnable p n en => Sys2Proof.Machine.execLinkCtlEnable p n en s
  | .bedCtlWake p b v => Sys2Proof.Machine.execBedCtlWake p b v s
  | .bedCtlTarget p b v => Sys2Proof.Machine.execBedCtlTarget p b v s
  | .regulatorRateWrite p res part v => Sys2Proof.Machine.execRegulatorRateWrite p res part v s
  | .cfgCommit p => Sys2Proof.Machine.execCfgCommit p s
  | .cfgCommitRef p => Sys2Proof.Machine.execCfgCommitRef p s
  | .linkMapCommit p => Sys2Proof.Machine.execLinkMapCommit p s
  | .linkMapAdopt p => Sys2Proof.Machine.execLinkMapAdopt p s
  | .collectiveOpen p => Sys2Proof.Machine.execCollectiveOpen p s
  | .collectiveClose p => Sys2Proof.Machine.execCollectiveClose p s
  | .holdActive p => Sys2Proof.Machine.execHoldActive p s
  | .allowQuiet p => Sys2Proof.Machine.execAllowQuiet p s
  | .bindOff p => Sys2Proof.Machine.execBindOff p s
  | .timeRead p => Sys2Proof.Machine.execTimeRead p s
  | .marchRunMarch p fails => Sys2Proof.Machine.execMarchRunMarch p fails s
  | .marchRunSwatch p pass => Sys2Proof.Machine.execMarchRunSwatch p pass s
  | .marchRunRetire p => Sys2Proof.Machine.execMarchRunRetire p s
  | .marchRunFullNext p => Sys2Proof.Machine.execMarchRunFullNext p s
  | .marchRunStatus p => Sys2Proof.Machine.execMarchRunStatus p s
  | .marchRunBgPeriod p => Sys2Proof.Machine.execMarchRunBgPeriod p s
  | .hbmQuery p => Sys2Proof.Machine.execHbmQuery p s
  | .softRow p => Sys2Proof.Machine.execSoftRow p s
  | .hardRow p => Sys2Proof.Machine.execHardRow p s
  | .commitSoft p => Sys2Proof.Machine.execCommitSoft p s
  | .testAccess p => Sys2Proof.Machine.execTestAccess p s
  | .maintEnter p => Sys2Proof.Machine.execMaintEnter p s
  | .maintExit p => Sys2Proof.Machine.execMaintExit p s
  | .retireStack p => Sys2Proof.Machine.execRetireStack p s
  | .fwStageUntrusted p => Sys2Proof.Machine.execFwStageUntrusted p s
  | .fwStageTrusted p => Sys2Proof.Machine.execFwStageTrusted p s
  | .fwStagePortConfig p => Sys2Proof.Machine.execFwStagePortConfig p s
  | .activate p => Sys2Proof.Machine.execActivate p s
  | .confirm p => Sys2Proof.Machine.execConfirm p s
  | .armTrusted p => Sys2Proof.Machine.execArmTrusted p s
  | .confirmTrusted p => Sys2Proof.Machine.execConfirmTrusted p s
  | .disarmTrusted p => Sys2Proof.Machine.execDisarmTrusted p s
  | .attest p => Sys2Proof.Machine.execAttest p s
  | .eventSubscribe p => Sys2Proof.Machine.execEventSubscribe p s
  | .eventUnsubscribe p => Sys2Proof.Machine.execEventUnsubscribe p s
  | .transferSegment p => Sys2Proof.Machine.execTransferSegment p s
  | .ackReceive p => Sys2Proof.Machine.execAckReceive p s
  | .ackTimer ctx seq => Sys2Proof.Machine.execAckTimer ctx seq s
  | .segmentRetransmitTimer ctx seq => Sys2Proof.Machine.execSegmentRetransmitTimer ctx seq s
  | .transferTimeout ctx seq => Sys2Proof.Machine.execTransferTimeout ctx seq s
  | .ecnRateRaise dst => Sys2Proof.Machine.execEcnRateRaise dst s
  | .lldpTransmit => Sys2Proof.Machine.execLldpTransmit s
  | .arpNeighborDiscovery fam target asker => Sys2Proof.Machine.execArpNeighborDiscovery fam target asker s
  | .icmpEcho fam target asker data => Sys2Proof.Machine.execIcmpEcho fam target asker data s
  | .pfcPauseReceive prio on => Sys2Proof.Machine.execPfcPauseReceive prio on s
  | .proxyForward p => Sys2Proof.Machine.execProxyForward p s
  | .proxyReply link p => Sys2Proof.Machine.execProxyReply link p s
  | .proxyTimeout slot seq => Sys2Proof.Machine.execProxyTimeout slot seq s
  | .proxyLinkReceive link p => Sys2Proof.Machine.execProxyLinkReceive link p s
  | .proxyEventRelay link p => Sys2Proof.Machine.execProxyEventRelay link p s
  | .hostPortDown => Sys2Proof.Machine.execHostPortDown s
  | .taskAdmit => Sys2Proof.Machine.execTaskAdmit s
  | .taskRelease => Sys2Proof.Machine.execTaskRelease s
  | .taskComplete slot => Sys2Proof.Machine.execTaskComplete slot s
  | .deadlineCheck => Sys2Proof.Machine.execDeadlineCheck s
  | .syncWaitTimeout ctx seq => Sys2Proof.Machine.execSyncWaitTimeout ctx seq s
  | .stallDetect inst => Sys2Proof.Machine.execStallDetect inst s
  | .nullTask slot => Sys2Proof.Machine.execNullTask slot s
  | .stamp slot => Sys2Proof.Machine.execStamp slot s
  | .arrayTask slot => Sys2Proof.Machine.execArrayTask slot s
  | .tileLoad array ecc => Sys2Proof.Machine.execTileLoad array ecc s
  | .sliceWriteback array line => Sys2Proof.Machine.execSliceWriteback array line s
  | .actBlockFetch array ecc => Sys2Proof.Machine.execActBlockFetch array ecc s
  | .passEnd array residueOk timingOk => Sys2Proof.Machine.execPassEnd array residueOk timingOk s
  | .creditReturn array row => Sys2Proof.Machine.execCreditReturn array row s
  | .slotReduce slot residueOk => Sys2Proof.Machine.execSlotReduce slot residueOk s
  | .repairCopyComplete logical ecc => Sys2Proof.Machine.execRepairCopyComplete logical ecc s
  | .swatchRun unitKind instance_ pass => Sys2Proof.Machine.execSwatchRun unitKind instance_ pass s
  | .sliceRepair array region ue ok => Sys2Proof.Machine.execSliceRepair array region ue ok s
  | .bankCopyComplete bank => Sys2Proof.Machine.execBankCopyComplete bank s
  | .shadowRebuild logical ecc => Sys2Proof.Machine.execShadowRebuild logical ecc s
  | .bedIdleEntry bed => Sys2Proof.Machine.execBedIdleEntry bed s
  | .bedWake bed => Sys2Proof.Machine.execBedWake bed s
  | .bedReloadComplete bed ecc => Sys2Proof.Machine.execBedReloadComplete bed ecc s
  | .bedTargetPolicy forecast => Sys2Proof.Machine.execBedTargetPolicy forecast s
  | .commonsRetry line kind aData bData => Sys2Proof.Machine.execCommonsRetry line kind aData bData s
  | .bgTestRegion fails repaired => Sys2Proof.Machine.execBgTestRegion fails repaired s
  | .spmMerge slot ecc => Sys2Proof.Machine.execSpmMerge slot ecc s
  | .spmGather slot ecc => Sys2Proof.Machine.execSpmGather slot ecc s
  | .delta slot ecc => Sys2Proof.Machine.execDelta slot ecc s
  | .lookup slot ecc => Sys2Proof.Machine.execLookup slot ecc s
  | .embed slot ecc => Sys2Proof.Machine.execEmbed slot ecc s
  | .vectorConvert slot ecc => Sys2Proof.Machine.execVectorConvert slot ecc s
  | .vectorAdd slot ecc => Sys2Proof.Machine.execVectorAdd slot ecc s
  | .vectorMul slot ecc => Sys2Proof.Machine.execVectorMul slot ecc s
  | .rmsnorm slot ecc => Sys2Proof.Machine.execRmsnorm slot ecc s
  | .layernorm slot ecc => Sys2Proof.Machine.execLayernorm slot ecc s
  | .rope slot ecc => Sys2Proof.Machine.execRope slot ecc s
  | .vectorAct slot ecc => Sys2Proof.Machine.execVectorAct slot ecc s
  | .gated slot ecc => Sys2Proof.Machine.execGated slot ecc s
  | .softmax slot ecc => Sys2Proof.Machine.execSoftmax slot ecc s
  | .vectorReduce slot ecc => Sys2Proof.Machine.execVectorReduce slot ecc s
  | .quant slot ecc => Sys2Proof.Machine.execQuant slot ecc s
  | .vectorGraft slot ecc => Sys2Proof.Machine.execVectorGraft slot ecc s
  | .gemm slot ecc => Sys2Proof.Machine.execGemm slot ecc s
  | .samplerTask slot ecc => Sys2Proof.Machine.execSamplerTask slot ecc s
  | .hashTask slot ecc => Sys2Proof.Machine.execHashTask slot ecc s
  | .moverCopy slot ecc => Sys2Proof.Machine.execMoverCopy slot ecc s
  | .moverFill slot ecc => Sys2Proof.Machine.execMoverFill slot ecc s
  | .moverGather slot ecc => Sys2Proof.Machine.execMoverGather slot ecc s
  | .moverCompress slot ecc => Sys2Proof.Machine.execMoverCompress slot ecc s
  | .moverTransmit slot ecc => Sys2Proof.Machine.execMoverTransmit slot ecc s
  | .attend slot ecc residueOk => Sys2Proof.Machine.execAttend slot ecc residueOk s
  | .attnMerge slot ecc => Sys2Proof.Machine.execAttnMerge slot ecc s
  | .append slot ecc => Sys2Proof.Machine.execAppend slot ecc s
  | .demote slot ecc => Sys2Proof.Machine.execDemote slot ecc s
  | .demoteSchedule => Sys2Proof.Machine.execDemoteSchedule s
  | .collectiveTask slot ecc => Sys2Proof.Machine.execCollectiveTask slot ecc s
  | .collectiveTimeout slot => Sys2Proof.Machine.execCollectiveTimeout slot s
  | .collDataReceive link c => Sys2Proof.Machine.execCollDataReceive link c s
  | .collAbortReceive link c => Sys2Proof.Machine.execCollAbortReceive link c s
  | .replyGate results gateCtr => Sys2Proof.Machine.execReplyGate results gateCtr s
  | .stepBoundary peers => Sys2Proof.Machine.execStepBoundary peers s
  | .handoverReady => Sys2Proof.Machine.execHandoverReady s
  | .handoverTimeout => Sys2Proof.Machine.execHandoverTimeout s
  | .stepFormOnDemand => Sys2Proof.Machine.execStepFormOnDemand s
  | .idleDeadlineScan => Sys2Proof.Machine.execIdleDeadlineScan s
  | .boundaryExchangeTimeout model => Sys2Proof.Machine.execBoundaryExchangeTimeout model s
  | .boundaryExchangeRetry model peers ok => Sys2Proof.Machine.execBoundaryExchangeRetry model peers ok s
  | .backgroundSpill => Sys2Proof.Machine.execBackgroundSpill s
  | .patrolScrub tier ecc => Sys2Proof.Machine.execPatrolScrub tier ecc s
  | .tierWriteback tier line => Sys2Proof.Machine.execTierWriteback tier line s
  | .channelRecal tier dev chan ok => Sys2Proof.Machine.execChannelRecal tier dev chan ok s
  | .stackLoss stack => Sys2Proof.Machine.execStackLoss stack s
  | .packageLoss pkg => Sys2Proof.Machine.execPackageLoss pkg s
  | .linkLaneLock n => Sys2Proof.Machine.execLinkLaneLock n s
  | .linkTrainTimeout n => Sys2Proof.Machine.execLinkTrainTimeout n s
  | .linkVerdictTimeout n => Sys2Proof.Machine.execLinkVerdictTimeout n s
  | .controlFlitReceive n f => Sys2Proof.Machine.execControlFlitReceive n f s
  | .controlFlitSlot n => Sys2Proof.Machine.execControlFlitSlot n s
  | .dataFlitReceive n f => Sys2Proof.Machine.execDataFlitReceive n f s
  | .laneLockLoss n => Sys2Proof.Machine.execLaneLockLoss n s
  | .controlFlitTimeout n => Sys2Proof.Machine.execControlFlitTimeout n s
  | .retrainDone n lanes => Sys2Proof.Machine.execRetrainDone n lanes s
  | .retrainFail n => Sys2Proof.Machine.execRetrainFail n s
  | .linkDownTimer n => Sys2Proof.Machine.execLinkDownTimer n s
  | .linkRetryTimer n => Sys2Proof.Machine.execLinkRetryTimer n s
  | .cfgScan => Sys2Proof.Machine.execCfgScan s
  | .cfgHoldExpire => Sys2Proof.Machine.execCfgHoldExpire s
  | .throttleUpdate x => Sys2Proof.Machine.execThrottleUpdate x s
  | .thermalTrip x => Sys2Proof.Machine.execThermalTrip x s
  | .inputVoltage x => Sys2Proof.Machine.execInputVoltage x s
  | .powerCutoff c => Sys2Proof.Machine.execPowerCutoff c s
  | .mainSwitchClose enMs precharged vin => Sys2Proof.Machine.execMainSwitchClose enMs precharged vin s
  | .castOn c => Sys2Proof.Machine.execCastOn c s
  | .imageRelocate => Sys2Proof.Machine.execImageRelocate s
  | .trialWatchdog => Sys2Proof.Machine.execTrialWatchdog s
  | .resetN heldUs released => Sys2Proof.Machine.execResetN heldUs released s
  | .castonN heldUs => Sys2Proof.Machine.execCastonN heldUs s
  | .quietEnter => Sys2Proof.Machine.execQuietEnter s
  | .quietExit c => Sys2Proof.Machine.execQuietExit c s
  | .quietWakeTimer => Sys2Proof.Machine.execQuietWakeTimer s
  | .maintenanceWindow => Sys2Proof.Machine.execMaintenanceWindow s
  | .drainDeadline => Sys2Proof.Machine.execDrainDeadline s
  | .faultRingSave => Sys2Proof.Machine.execFaultRingSave s
  | .mailboxRequest m => Sys2Proof.Machine.execMailboxRequest m s
  | .protectedAccess a => Sys2Proof.Machine.execProtectedAccess a s
  | .smbStatus => Sys2Proof.Machine.execSmbStatus s
  | .smbTelemetry => Sys2Proof.Machine.execSmbTelemetry s
  | .smbIdentity => Sys2Proof.Machine.execSmbIdentity s
  | .smbLastFault => Sys2Proof.Machine.execSmbLastFault s
  | .smbCaston => Sys2Proof.Machine.execSmbCaston s
  | .smbBindOff => Sys2Proof.Machine.execSmbBindOff s
  | .extest => Sys2Proof.Machine.execExtest s
  | .idcode => Sys2Proof.Machine.execIdcode s
  | .samplePreload => Sys2Proof.Machine.execSamplePreload s
  | .clamp => Sys2Proof.Machine.execClamp s
  | .highz => Sys2Proof.Machine.execHighz s
  | .extestPulse => Sys2Proof.Machine.execExtestPulse s
  | .extestTrain => Sys2Proof.Machine.execExtestTrain s
  | .hbmSel => Sys2Proof.Machine.execHbmSel s
  | .hbmWir => Sys2Proof.Machine.execHbmWir s
  | .hbmWdr => Sys2Proof.Machine.execHbmWdr s
  | .debug => Sys2Proof.Machine.execDebug s
  | .bypass => Sys2Proof.Machine.execBypass s
  | .hostPortLinkUp train => Sys2Proof.Machine.execHostPortLinkUp train s
  | .hostPortLinkLoss => Sys2Proof.Machine.execHostPortLinkLoss s
  | .dhcpReply fam addr router => Sys2Proof.Machine.execDhcpReply fam addr router s
  | .bedEntryComplete bed => Sys2Proof.Machine.execBedEntryComplete bed s
  | .trustedCoreWatchdog => Sys2Proof.Machine.execTrustedCoreWatchdog s
  | .receiveCheckFail p => Sys2Proof.Machine.execReceiveCheckFail p s

end Sys2Proof.Machine
end

