-- ==== Sys2Proof/Machine/Tick.lean ====
section
/-! DEFINITION. One tick of the device-local clock, 40 ns (R400): what an idle block does. -/

namespace Sys2Proof.Machine

/-- The time counter and the counts of R409 and Table 16.11, which run in Quiet and while throttled; and since when R408 has held. -/
def countTick (s : State) : State :=
  let s := { s with time := s.time + 1 }
  let s := if s.power.dev = .quiet then bump64 s (rTELEM + 24) 1 else s
  let s := if fld s rPWR_STAT 19 16 != 0 then bump64 s (rTELEM + 32) 1 else s
  if s.power.dev = .quiet || mayQuiet s then s else { s with power := { s.power with idleSince := s.time } }

/-- The counts of waiting: of the arrays that hold a task or are due one, and of a full window (R34, R40, R45, R47, R235, log 56). -/
def countWaits (s : State) : State :=
  let s := if s.disp.window.isEmpty then s else (List.range 104).foldl countWait s
  if entryFull s then bump64 s (rDISP_PERF + 8) 68 else s

/-- Every regulator bucket in use receives its refill (R299). -/
def refillTick (s : State) : State := s.tier.buckets.foldl (fun s b => refill s (b.1 / 8) (b.1 % 8)) s

/-- Flits whose partition waited go on (R356). -/
def pumpTick (s : State) : State := s.link.links.foldl (fun s x => pumpLink s x.1 pumpFuel) s

/-- A report is signed, or a memory test ends, at a tick that is free (log 1). -/
def trustTick (s : State) : State :=
  let sign := fun (s : State) =>
    if s.trust.attests.isEmpty then s else let f := takeFree s; if f.1 % 2 = 0 then f.2 else signNext f.2
  let test := fun (s : State) =>
    if s.ras.march.isNone then s else let f := takeFree s; if f.1 % 2 = 0 then f.2 else marchEnds f.2
  test (sign s)

/-- The rows of the table that are timers read the time this leaves (log 10). -/
def idleTick (s : State) : State := dropPackages (trustTick (pumpTick (refillTick (countTick (countWaits s)))))

end Sys2Proof.Machine
end

