-- ==== Sys2Proof/Safety.lean ====
section
/-! DEFINITION. What counts as a well-kept state: every table that stands for a memory or a register file in its one canonical
form. -/

namespace Sys2Proof.Machine

/-- The canonical form of a memory (Memory.wf): addresses strictly rising, no zero byte listed. -/
def Memory.wf (m : Memory) : Bool := cellsWf m

/-- The memories and the register file of a state are in canonical form. -/
def State.tidy (s : State) : Bool :=
  Memory.wf s.mem.commons && Memory.wf s.mem.near && Memory.wf s.mem.far && Memory.wf s.mem.slices && regsWf s.regs

/-! ### What a command of the host port meets and leaves -/

/-- A command of the row's opcode is run at once: no hand-over holds it back (R435), the receive checks of Table 13.3 accept it
(R315), and it is no segment of a transfer (R325). -/
def Runs (s : State) (op : Nat) (p : Pkt) : Prop :=
  s.trust.handover = none ∧ verdict s op (rowReq op p) = .accept ∧ p.hdr.seg = false

/-- The state in which a command runs: the datagram counted, Quiet left, its sequence recorded, the command counted as started
(R322–R324, R330, R410). -/
def atRun (s : State) (op : Nat) (p : Pkt) : State := accepted s (rowReq op p)

/-- The newest packet the host port was given: sent, or kept while the port honours a pause (R312). -/
def lastOut (s : State) : Option Out := if paused s then s.kct.waiting.getLast? else s.kct.sent.head?

/-- The one reply of a command (R316): to its source, with its context, token, sequence, opcode and host tag, a status and a
payload. -/
def IsReply (o : OutPkt) (op : Nat) (p : Pkt) (status detail : Nat) (payload : Bytes) : Prop :=
  o.via = none ∧ o.dst = p.src ∧ o.payload = payload ∧ o.hdr.reply = true ∧ o.hdr.event = false ∧ o.hdr.ack = false ∧
    o.hdr.ctx = p.hdr.ctx ∧ o.hdr.token = p.hdr.token ∧ o.hdr.seq = p.hdr.seq ∧ o.hdr.opcode = op ∧ o.hdr.hostTag = p.hdr.hostTag ∧
    o.hdr.plen = payload.length ∧ o.hdr.status = status ∧ o.hdr.detail = detail

/-- The reply is the newest packet the host port was given. -/
def Answered (t : State) (op : Nat) (p : Pkt) (status detail : Nat) (payload : Bytes) : Prop :=
  ∃ o : OutPkt, lastOut t = some (.kct o) ∧ IsReply o op p status detail payload

/-- The reply is among what the host port has sent or keeps. -/
def Replied (t : State) (op : Nat) (p : Pkt) (status detail : Nat) (payload : Bytes) : Prop :=
  ∃ o : OutPkt, (Out.kct o ∈ t.kct.sent ∨ Out.kct o ∈ t.kct.waiting) ∧ IsReply o op p status detail payload

/-- The words that count the host port's bytes and what its FEC corrected or could not (Table 13.18). -/
def portCounts : List Nat :=
  [rHP_PERF, rHP_PERF + 4, rHP_PERF + 8, rHP_PERF + 12, rHP_PERF + 32, rHP_PERF + 36, rHP_PERF + 40, rHP_PERF + 44]

/-- Every register word but those listed is the same. -/
def SameRegs (skip : List Nat) (s t : State) : Prop := ∀ a, a ∉ skip → rd t a = rd s a

/-- Every context but one is the same. -/
def SameCtxs (c : Nat) (s t : State) : Prop := ∀ d, d ≠ c → ctxOf t d = ctxOf s d

/-- A context's entry without its record of sequences and replies. -/
def ctxCore (x : Ctx) : Ctx := { x with h := 0, seen := [], cache := [], started := [] }

/-- `t` is `u` but for what carries a command of the host port: the record of its context's sequences and replies, the packets given to
the port with their tags, transfers, rates and marks, the port's counts, and Quiet left (R316, R322, R330, R410). -/
def OnlyCarried (u t : State) (p : Pkt) : Prop :=
  t = { u with kct := { u.kct with ctxs := t.kct.ctxs, outX := t.kct.outX, rates := t.kct.rates, ece := t.kct.ece,
                                   waiting := t.kct.waiting, sent := t.kct.sent, tags := t.kct.tags },
               regs := t.regs, power := (wakeDevice u).power } ∧
    SameRegs portCounts u t ∧ SameCtxs p.hdr.ctx u t ∧ (ctxOf t p.hdr.ctx).map ctxCore = (ctxOf u p.hdr.ctx).map ctxCore

/-- A command is done: answered with OK and a payload, and the module is `u`, the state with the command's effect alone, but for what
carries the command. -/
def Done (t : State) (op : Nat) (p : Pkt) (u : State) (payload : Bytes) : Prop :=
  Answered t op p stOK 0 payload ∧ OnlyCarried u t p

/-- The registers of the repair map, which a reset of every domain keeps (R387, R480). -/
def repairMapRegs : List Nat := (List.range 96).map rARRAY_MAP ++ (List.range 16).map rATTN_MAP

/-- Every domain of `s` has been reset (R480): time 0, nothing in any memory, table or ring, every register at its reset value but the
repair map; fuses, flash, the units retired, what was sent and the queue stay, and a cast-on is due while the main switch is closed. -/
def IsReset (s t : State) : Prop :=
  t.time = 0 ∧ t.mem = State.reset.mem ∧ t.disp = State.reset.disp ∧ t.serve = State.reset.serve ∧ t.models = [] ∧ t.graphs = [] ∧
    t.graft = State.reset.graft ∧ t.coll = State.reset.coll ∧ t.arr = State.reset.arr ∧ t.ras.ring = [] ∧ t.power.dev = .off ∧
    t.power.due = s.power.mainSwitch ∧ (∀ a, a ∉ repairMapRegs → rd t a = rd State.reset a) ∧ (∀ a ∈ repairMapRegs, rd t a = rd s a) ∧
    t.trust.banks = s.trust.banks ∧ t.trust.ringRecord = s.trust.ringRecord ∧ t.ras.retired = s.ras.retired ∧ t.fuses = s.fuses ∧
    t.pending = s.pending ∧ t.kct.sent = s.kct.sent

/-- The module is Off (R414, R421, R474): no memory, table or movement is left, the host port and every link are down, and the fault ring,
flash, the time and what was sent stay. -/
def IsOff (s t : State) : Prop :=
  t.power.dev = .off ∧ t.mem = State.reset.mem ∧ t.disp = State.reset.disp ∧ t.serve = State.reset.serve ∧ t.models = [] ∧
    t.graphs = [] ∧ t.arr = State.reset.arr ∧ t.coll = State.reset.coll ∧ t.power.bindOff = none ∧ rd t rHP_STAT = 0 ∧
    (∀ n < 11, linkState t n = 0) ∧ t.time = s.time ∧ t.trust.banks = s.trust.banks ∧ t.fuses = s.fuses ∧ t.pending = s.pending

end Sys2Proof.Machine
end

