-- ==== Sys2Proof/Certificates/Slice0/Obligations.lean ====
section
/-! DEFINITION. The statements for the provers: what the module, its step and every command of the table do. -/

open Sys2Proof Sys2Proof.Machine

/-- O1. For every command c and state s with c at the front of its queue, the step of s is exec of c on s with the queue's
rest. -/
def Obligations.StepRunsFrontCommand : Prop :=
  ∀ (s : State) (c : Instr) (rest : List Instr), s.pending = c :: rest → step s = exec c { s with pending := rest }

/-- O2. From every state the step answers a next state: no command of the table ends in a fault or a refusal, and an empty
queue idles. -/
def Obligations.EveryStepCompletes : Prop :=
  ∀ s : State, ∃ t, step s = .next t

/-- O3. On an empty queue, with no report waiting to be signed, no memory test running, no flit waiting on a link and no
far-tier package to take out, a step is one tick (model's choice, log 10): the time counter is one more, the regulator buckets
in use are refilled (R299), QUIET_TICKS and THROTTLE_TICKS of PWR_TELEM count in Quiet and while throttled, the 68 cycles are
counted in DISP_PERF.FULL while a task waits for a slot, and for the arrays only while the window holds a task (model's
choice, log 56), and nothing else changes but the start of the idle time of R408. -/
def Obligations.IdleTickCountsTime : Prop :=
  ∀ s : State, s.tidy = true → s.pending = [] → s.trust.attests = [] → s.ras.march = none → pinLoss s = none →
    (∀ x ∈ s.link.links, x.2.queue = [] ∧ x.2.again = 0) →
    let arrayWaits := (List.range 104).flatMap fun a => [16, 20, 24, 28].map fun o => rARRAY_PERF a + o
    ∃ t, step s = .next t ∧
      t = { s with time := s.time + 1, regs := t.regs, tier := { s.tier with buckets := t.tier.buckets },
                   power := { s.power with idleSince := t.power.idleSince } } ∧
      SameRegs ([rTELEM + 24, rTELEM + 28, rTELEM + 32, rTELEM + 36, rDISP_PERF + 8, rDISP_PERF + 12] ++ arrayWaits) s t ∧
      (s.disp.window = [] → ∀ a ∈ arrayWaits, rd t a = rd s a) ∧
      rd64 t (rDISP_PERF + 8) = (rd64 s (rDISP_PERF + 8) + if entryFull s then 68 else 0) % 2 ^ 64 ∧
      (s.power.dev = .quiet → rd64 t (rTELEM + 24) = (rd64 s (rTELEM + 24) + 1) % 2 ^ 64) ∧
      (s.power.dev ≠ .quiet → rd64 t (rTELEM + 24) = rd64 s (rTELEM + 24)) ∧
      (t.power.idleSince = s.power.idleSince ∨ t.power.idleSince = s.time + 1) ∧
      ∀ k, look s.tier.buckets k = none → look t.tier.buckets k = none

/-- O4. At power good the registers hold the reset values of their tables: PWR_LIMIT 1,200 W with QUIET_MS 10, every link DOWN
and enabled, every bed in Idle with its reset target and floor, the regulators at an eighth and a half of their resource, and
the numbers of the serving, dispatch, tier and configuration registers; every other word holds 0 until cast-on writes it; the
device is Off, context 0 is open with H = 0, and every request, graph, model and graft table is empty. -/
def Obligations.ResetRegisterValues : Prop :=
  (fld State.reset rPWR_LIMIT 10 0 = 1200 ∧ fld State.reset rPWR_LIMIT 31 16 = 10) ∧
  (∀ n < 11, linkState State.reset n = 0 ∧ rd State.reset (rLINK_CTL n) = 1) ∧
  (∀ b < 13, bedState State.reset b = 1 ∧ rd State.reset (rBED_CTL b) = 0xD) ∧
  (∀ res < 4, ∀ p < 8, rd State.reset (rREG res p + 8) = 64 ∧ rd State.reset (rREG res p + 4) = 0 ∧
    rd State.reset (rREG res p) = (if p = 0 then regCap res / 8 else if p = 1 then regCap res / 2 else 0)) ∧
  rd State.reset rTOKEN0 = 0 ∧ rd State.reset rCFG_CTL = 100 ∧ rd State.reset rSERVE_LIMIT = 2048 ∧
  rd State.reset rCOLL_CTL = 10000 ∧ rd State.reset rGRAFT_CTL = 64 ∧ rd State.reset rPFX_CTL = 1 ∧ rd State.reset rREG_CTL = 1 ∧
  fld State.reset rDISP_CTL 14 0 = 4096 ∧ fld State.reset rDISP_CTL 31 16 = 4096 ∧
  (∀ a, a ∉ resetWords.map Prod.fst → rd State.reset a = 0) ∧
  State.reset.power.dev = .off ∧ (ctxOf State.reset 0).map (·.h) = some 0 ∧ State.reset.serve.reqs = [] ∧
  State.reset.disp.insts = [] ∧ State.reset.models = [] ∧ State.reset.graft.reg = [] ∧ State.reset.pending = []

/-- O5. The memories and the register file of the state after reset are in canonical form, and the commons, the near tier, the
far tier and the slices read 0 at every address (that unwritten memory reads 0 is the model's choice, log 24). -/
def Obligations.ResetStateIsTidy : Prop :=
  State.reset.tidy = true ∧
    ∀ sp a, peek (memOf State.reset.mem sp) a = 0

/-- O6. For every state whose memories (commons, near tier, far tier, slices) and register file are in canonical form
(addresses strictly rising, nothing listed that reads as an unlisted address does), the state a step answers has them in
canonical form too, whatever command was at the front of the queue. This is the invariant that the other statements about
memory and registers assume. -/
def Obligations.EveryStepKeepsTidy : Prop :=
  ∀ s t : State, s.tidy = true → step s = .next t → t.tidy = true

/-- O7. For a datagram outside a hand-over, with the port up and addressed: one of another VLAN changes nothing; one of the
port's VLAN that fails check 1 or 2 is dropped and BAD_FRAME counted, with no other change but the counts of what the port's
FEC corrected or could not; a later check that fails gives the outcome of Table 13.3: an unknown context is answered
NO_CONTEXT, a wrong token is dropped and BAD_TOKEN counted, a header with a bit that must be 0 is answered BAD_PARAM, a
sequence 1,024 or more behind H is answered STALE_SEQUENCE, an opcode that is not permitted BAD_OPCODE, a payload length that
does not fit its opcode BAD_LENGTH, and the command has no effect beyond what carries it and its counted drop. -/
def Obligations.ReceiveChecksDecide : Prop :=
  ∀ (s : State) (p : Pkt), s.tidy = true → s.trust.handover = none → s.power.dev ≠ .off → portUp s = true → hasAddr s = true →
    let op := p.hdr.opcode
    let good := p.frame = .good ∧ p.dport = hpFld s rHP_CFG 31 16 ∧ p.payload.length = p.hdr.plen ∧ p.hdr.plen ≤ 8192
    let current := s.trust.running.kctMin ≤ p.hdr.version ∧ p.hdr.version ≤ s.trust.running.kctMax ∧
      (p.hdr.proxy = true → p.hdr.proxySlot = mySlot s)
    (p.vlan ≠ hpFld s rHP_CFG 15 4 → exec (.receiveCheckFail p) s = .next s) ∧
    (p.vlan = hpFld s rHP_CFG 15 4 →
    ((p.frame = .badFrame ∨ p.frame = .fragment) →
      exec (.receiveCheckFail p) s = .next (bump (fecCount s p) rKCT_STAT 31 24 1)) ∧
    (good → current → ctxOf s p.hdr.ctx = none → ∃ t, exec (.receiveCheckFail p) s = .next t ∧
      Answered t op p stNoCtx 0 [] ∧ OnlyCarried s t p) ∧
    (∀ c, ctxOf s p.hdr.ctx = some c → c.closing = [] → s.trust.recovery = false → good → current →
      (p.hdr.token ≠ tokenOf s p.hdr.ctx → ∃ t, exec (.receiveCheckFail p) s = .next t ∧
        fld t rKCT_STAT 23 16 = min (fld s rKCT_STAT 23 16 + 1) 255 ∧ t.kct.sent = s.kct.sent ∧ t.kct.waiting = s.kct.waiting ∧
        SameRegs (rKCT_STAT :: portCounts) s t) ∧
      (p.hdr.token = tokenOf s p.hdr.ctx →
        (headerClean p.hdr = false → ∃ t, exec (.receiveCheckFail p) s = .next t ∧
          Answered t op p stParam 0 [] ∧ OnlyCarried s t p) ∧
        (headerClean p.hdr = true → p.hdr.ack = false → p.hdr.seg = false →
          (1024 ≤ (c.h - p.hdr.seq).toNat → 2 ^ 31 ≤ (p.hdr.seq - c.h).toNat → ∃ t, exec (.receiveCheckFail p) s = .next t ∧
            Answered t op p stStale 0 [] ∧ fld t rKCT_STAT 7 0 = min (fld s rKCT_STAT 7 0 + 1) 255) ∧
          (1 ≤ (p.hdr.seq - c.h).toNat → (p.hdr.seq - c.h).toNat < 2 ^ 31 → c.started.length < 256 →
            (permitted s p.hdr.ctx op = false → ∃ t, exec (.receiveCheckFail p) s = .next t ∧
              Answered t op p stOpcode 0 [] ∧ OnlyCarried s t p) ∧
            (permitted s p.hdr.ctx op = true → lengthOk op p.payload = false → ∃ t, exec (.receiveCheckFail p) s = .next t ∧
              Answered t op p stLength 0 [] ∧ OnlyCarried s t p))))))

/-- O8. A command accepted at a sequence leaves its context's record so that a packet with the same context and sequence is
not accepted again as a command: after the run of TIME_READ, and already when any command starts, the same packet's verdict is
not accept. -/
def Obligations.NoCommandRunsTwice : Prop :=
  ∀ (s : State) (p : Pkt), s.tidy = true →
    (∀ op, Runs s op p → verdict (atRun s op p) op (rowReq op p) ≠ .accept) ∧
    (∀ t, Runs s opTIME p → exec (.timeRead p) s = .next t → verdict t opTIME (rowReq opTIME p) ≠ .accept)

/-- O9. For a sequence q against a context with highest accepted sequence H and d = (q − H) mod 2^32: when 1 ≤ d ≤ 2^31 − 1
the sequence is ahead, and accepting it makes H be q; a sequence behind by at most 1,023 and not in the record is accepted and
H is unchanged; one in the record is a duplicate; one behind by 1,024 or more is stale; and after either acceptance q is in
the record, which keeps no sequence more than 1,023 behind H. -/
def Obligations.AheadSequenceMovesH : Prop :=
  ∀ (c : Ctx) (q : W32),
    let d := (q - c.h).toNat
    let b := (c.h - q).toNat
    (1 ≤ d → d ≤ 2 ^ 31 - 1 → seqVerdict c q = .ahead ∧ (acceptSeq c q).h = q) ∧
    (¬ (1 ≤ d ∧ d ≤ 2 ^ 31 - 1) → 1024 ≤ b → seqVerdict c q = .stale) ∧
    (¬ (1 ≤ d ∧ d ≤ 2 ^ 31 - 1) → b ≤ 1023 → q ∈ c.seen → seqVerdict c q = .duplicate) ∧
    (¬ (1 ≤ d ∧ d ≤ 2 ^ 31 - 1) → b ≤ 1023 → q ∉ c.seen → seqVerdict c q = .behind ∧ (acceptSeq c q).h = c.h) ∧
    q ∈ (acceptSeq c q).seen ∧
    ∀ x ∈ (acceptSeq c q).seen, x = q ∨ (x ∈ c.seen ∧ ((acceptSeq c q).h - x).toNat ≤ 1023)

/-- O10. QUERY_CAPS answers OK with the 64 bytes of Table 13.10, TIME_READ with the 8 bytes of the device-local time, and
MARCH_RUN STATUS with the 24 bytes of Table 18.4; the reply goes to the command's source with its context, token, sequence,
opcode and host tag, and nothing changes but what carries the command. -/
def Obligations.ReadCommandsAnswer : Prop :=
  ∀ (s : State) (p : Pkt), s.tidy = true → 64 ≤ pathMax s p.src →
    (Runs s opTIME p → ∃ t, exec (.timeRead p) s = .next t ∧ Done t opTIME p s (toLE 8 s.time)) ∧
    (Runs s opCAPS p → ∃ t, exec (.queryCaps p) s = .next t ∧ Done t opCAPS p s (capsPayload s) ∧ (capsPayload s).length = 64) ∧
    (let p' := withByte p 0 4
     Runs s opMARCH p' → s.ras.march = none → allZero p'.payload 6 2 = true →
      ∃ t, exec (.marchRunStatus p) s = .next t ∧ Done t opMARCH p' s
        (toLE 4 s.ras.bgRegion ++ toLE 4 s.ras.bgCycles ++ toLE 8 s.ras.bgLast ++ toLE 1 s.ras.bgHours ++ toLE 1 (b2n s.ras.fullNext)
          ++ toLE 1 (sparesOf s 0).length ++ toLE 1 (sparesOf s 1).length ++ toLE 1 (spareBanks s).length ++ zeros 3))

/-- O11. OPEN_CONTEXT with fields in the ranges of Table 13.4, a free context and reservations that can be honoured opens the
lowest free number with the quotas of its payload, H = 0 and the token asked for or, for 0, one the device picks, and answers
number and token; no other context changes. CLOSE_CONTEXT of an open context other than 0, by itself or by context 0, marks it
closing: the command joins those that closed it, its subscription goes with the first of them, and commands in it are answered
NO_CONTEXT. A context that one command closed, of which no instance and no request remains, is gone after endClose, which
every step boundary makes for every context: no counter is owned by it, and that command is answered OK. -/
def Obligations.ContextsOpenAndClose : Prop :=
  ∀ (s : State) (p : Pkt), s.tidy = true →
    (let pl := p.payload
     Runs s opOPEN p → openOk pl = true → s.kct.ctxs.length < 4096 → reserveFits s (num pl 8 4) (num pl 12 4) = true →
      8 ≤ pathMax s p.src → ∃ t tok, exec (.openContext p) s = .next t ∧ (num pl 20 4 ≠ 0 → tok = num pl 20 4) ∧
        Done t opOPEN p (setCtx { s with fresh := s.fresh + 1 } (firstGap 0 s.kct.ctxs)
          { cls := num pl 0 1, part := num pl 1 1, ctrQuota := num pl 2 2, reqQuota := num pl 4 4, reqReserve := num pl 8 4,
            pageReserve := num pl 12 4, memQuota := num pl 16 4, token := BitVec.ofNat 32 tok, h := 0, seen := [0], cache := [],
            started := [], sub := none, closing := [] })
          (toLE 2 (firstGap 0 s.kct.ctxs) ++ zeros 2 ++ toLE 4 tok)) ∧
    (let n := num p.payload 0 2
     Runs s opCLOSE p → num p.payload 2 2 = 0 → n ≤ 4095 → n ≠ 0 → (p.hdr.ctx = 0 ∨ p.hdr.ctx = n) →
      ∀ x, ctxOf s n = some x → ∃ t y, exec (.closeContext p) s = .next t ∧ ctxOf t n = some y ∧
        y.closing = x.closing ++ [rowReq opCLOSE p] ∧ (x.closing = [] → y.sub = none) ∧
        (∀ q, q.hdr.ctx = n → ctxVerdict t q.hdr.opcode q = .answer stNoCtx)) ∧
    (∀ n x, keysAbove none s.kct.ctxs = true → ctxOf s n = some x → x.closing = [rowReq opCLOSE p] →
      (∀ i ∈ s.disp.insts, i.ctx ≠ n) → (∀ q ∈ s.serve.reqs, q.2.ctx = n → 32768 ≤ q.1) → portUp s = true → hasAddr s = true →
      let t := endClose s n x
      ctxOf t n = none ∧ (∀ k, look t.disp.owners k ≠ some n) ∧ Answered t opCLOSE p stOK 0 [])

/-- O12. WRITE_MEM whose parameters pass its checks stores its data at ADDR of its space and is answered OK: read back, the
range holds the data, and every byte outside it, in that space and the others, is as before. READ_MEM of a range that the
context may name and that decodes answers with the bytes of the range, in one packet or, when they exceed one, as a segmented
transfer of them, and changes no memory. Nothing else changes but what carries the command and the bandwidth regulator the
bytes are charged to. -/
def Obligations.MemoryCommandsReadAndWrite : Prop :=
  ∀ (s : State) (p : Pkt), s.tidy = true →
    (let pl := p.payload
     let sp := num pl 0 1
     let a := num pl 8 8
     let d := pl.drop 16
     Runs s opWRITE p → writeFault s p.hdr.ctx pl d.length = none →
      ∃ t, exec (.writeMem p) s = .next t ∧ Done t opWRITE p (writeData s p.hdr.ctx sp a d) [] ∧
        ld t sp a d.length = d ∧
        (∀ x, x < a ∨ a + d.length ≤ x → peek (memOf t.mem sp) x = peek (memOf s.mem sp) x) ∧
        (∀ q < 4, q ≠ sp → memOf t.mem q = memOf s.mem q)) ∧
    (let pl := p.payload
     let sp := num pl 0 1
     let n := num pl 4 4
     let a := num pl 8 8
     let u := charge s (resOf sp) (partOf s p.hdr.ctx) n
     Runs s opREAD p → allZero pl 1 3 = true → spaceFault s sp = none → n ≤ 536870912 → (n = 0 ∨ a + n ≤ capOf s sp) →
      (n = 0 ∨ mayName s p.hdr.ctx sp a n = true) → (n = 0 ∨ firstBad s sp a n = none) →
      ∃ t, exec (.readMem p) s = .next t ∧ OnlyCarried u t p ∧ t.mem = s.mem ∧
        (n ≤ pathMax s p.src → Answered t opREAD p stOK 0 (ld s sp a n)) ∧
        (pathMax s p.src < n → n ≤ 65536 * segSize s p.src →
          ∃ x ∈ t.kct.outX, x.data = ld s sp a n ∧ x.dst = p.src ∧ x.size = segSize s p.src ∧ x.hdr.seq = p.hdr.seq ∧
            x.hdr.ctx = p.hdr.ctx ∧ x.hdr.opcode = opREAD ∧ x.hdr.status = stOK))

/-- O13. MEM_ALLOC with OP 0 within the quota grants COUNT contiguous blocks of the space to the context and answers with the
byte address of the first: each was free and, unless the context owned it last, named by no task in the window; each is now
granted to the context, a block whose recorded owner was another context reads 0, and a block without an owner or of the
context's own keeps its content. With OP 1 it frees COUNT blocks that the context owns and answers their ADDR: they are no
longer granted, but for those that a registered delta graft names (R275), and they keep their recorded owner. Memory outside
the blocks is as before. Which run of free blocks is granted the spec leaves open (log 3). -/
def Obligations.MemoryGrantsAndFrees : Prop :=
  ∀ (s : State) (p : Pkt), s.tidy = true →
    (let p' := withByte p 0 0
     let pl := p'.payload
     let c := p.hdr.ctx
     let sp := num pl 1 1
     let n := num pl 4 4
     Runs s opALLOC p' → allocFault s pl = none → 8 ≤ pathMax s p.src →
      (∀ x, ctxOf s c = some x → blocksHeld s c + n ≤ x.memQuota) → ∀ b, findRun s c sp n = some b →
      ∃ t, exec (.memAllocGrant p) s = .next t ∧
        Done t opALLOC p' (grantRun { s with fresh := s.fresh + 1 } c sp b n) (toLE 8 (b * 65536)) ∧
        freeRun s sp b n = true ∧ untouched s c sp b n = true ∧
        (∀ i < n, owns t c sp (b + i) = true) ∧
        (∀ i < n, ∀ x, (b + i) * 65536 ≤ x → x < (b + i + 1) * 65536 → peek (memOf t.mem sp) x =
          if (blockAt s sp (b + i)).owner = none ∨ (blockAt s sp (b + i)).owner = some c then peek (memOf s.mem sp) x else 0) ∧
        (∀ x, x < b * 65536 ∨ (b + n) * 65536 ≤ x → peek (memOf t.mem sp) x = peek (memOf s.mem sp) x)) ∧
    (let p' := withByte p 0 1
     let pl := p'.payload
     let c := p.hdr.ctx
     let sp := num pl 1 1
     let n := num pl 4 4
     let b := num pl 8 8 / 65536
     Runs s opALLOC p' → allocFault s pl = none → num pl 8 8 % 65536 = 0 → ownsRange s c sp (num pl 8 8) (n * 65536) = true →
      8 ≤ pathMax s p.src →
      ∃ t, exec (.memAllocFree p) s = .next t ∧ Done t opALLOC p' (freeRunOf s sp b n) (toLE 8 (num pl 8 8)) ∧
        (∀ i < n, (blockAt t sp (b + i)).granted = deltaNames s sp (b + i) ∧ (blockAt t sp (b + i)).owner = some c) ∧
        (∀ x, x < b * 65536 ∨ (b + n) * 65536 ≤ x → peek (memOf t.mem sp) x = peek (memOf s.mem sp) x))

/-- O14. READ_MEM of the commons whose range holds a word that does not decode is answered FAULT_UNCORRECTABLE without a
payload, and a COMMONS_UE record of SEVERITY 2 that names the command's context and no object is the newest of the fault ring;
no memory changes. -/
def Obligations.CommandMeetsUncorrectableWord : Prop :=
  ∀ (s : State) (p : Pkt), s.tidy = true → Runs s opREAD p →
    let pl := p.payload
    let n := num pl 4 4
    let a := num pl 8 8
    num pl 0 1 = 0 → allZero pl 1 3 = true → n ≠ 0 → n ≤ 536870912 → a + n ≤ 2 ^ 28 → mayName s p.hdr.ctx 0 a n = true →
    ∀ x, firstBad s 0 a n = some x →
      ∃ t, exec (.readMem p) s = .next t ∧ Answered t opREAD p stFault 0 [] ∧ t.mem = s.mem ∧ t.pins.alert = true ∧
        look t.ras.ring s.ras.nextIdx = some (faultBytes s.ras.nextSeq s.time (stepCount s % 2 ^ 32)
          { code := 0x0301, sev := 2, unit := 2, inst := commonsBank x, status := stFault, ctx := p.hdr.ctx, addr := x, space := 0,
            bank := commonsBank x, row := commonsRow x })

/-- O15. Bit b of the word at block offset a has the alias address 0x4000_0000 + (a / 4) · 128 + b · 4, and an alias address x
names block offset ((x − 0x4000_0000) / 128) · 4 and bit ((x − 0x4000_0000) / 4) mod 32; the one undoes the other. -/
def Obligations.RegisterAliasesNameOneBit : Prop :=
  (∀ a b, a % 4 = 0 → a ≤ 0xFFFFC → b < 32 →
    let x := 0x40000000 + a / 4 * 128 + b * 4
    isAlias x = true ∧ goodAddr x = true ∧ aliasWord x = a ∧ aliasBit x = b) ∧
  ∀ x, isAlias x = true → x % 4 = 0 →
    aliasWord x = (x - 0x40000000) / 128 * 4 ∧ aliasBit x = (x - 0x40000000) / 4 % 32 ∧
    aliasWord x % 4 = 0 ∧ aliasWord x ≤ 0xFFFFC ∧ aliasBit x < 32 ∧ x = 0x40000000 + aliasWord x / 4 * 128 + aliasBit x * 4

/-- O16. REG_READ with a COUNT of 1 to 1,023 is answered BAD_PARAM, reads nothing and clears nothing when an address is no
multiple of 4 or lies in neither range, or, from a context other than 0, when one lies in the fault or security block or its
aliases; otherwise the addresses are read in payload order, each read seeing what those before it left, and the values
answered; a reader other than context 0 leaves every register as it was, and REG_WRITE from it is not permitted (BAD_OPCODE,
by the receive checks). -/
def Obligations.RegisterReadsAreChecked : Prop :=
  ∀ (s : State) (p : Pkt), s.tidy = true →
    (let pl := p.payload
     let n := num pl 0 4
     let as := words32 pl 4 n
     let bad := as.any (fun a => !goodAddr a) || (p.hdr.ctx != 0 && as.any restricted)
     let u := (readRegs s (p.hdr.ctx == 0) as).2
     Runs s opRREAD p → 1 ≤ n → n ≤ 1023 → ∃ t, exec (.regRead p) s = .next t ∧
      (bad = true → Answered t opRREAD p stParam 0 [] ∧ OnlyCarried s t p) ∧
      (bad = false → p.hdr.ctx ≠ 0 → u = s) ∧
      (bad = false → t.mem = s.mem ∧ t = { s with kct := t.kct, regs := t.regs, power := t.power } ∧ SameCtxs p.hdr.ctx s t ∧
        (∀ a, a ∉ portCounts → a ∉ as → rd t a = rd s a) ∧
        (as.all (fun a => !portCounts.contains (wordOf a)) = true → (4 * n ≤ pathMax s p.src →
          Done t opRREAD p u ((readRegs s (p.hdr.ctx == 0) as).1.flatMap (toLE 4)))))) ∧
    ∀ c, c ≠ 0 → permitted s c opRWRITE = false

/-- O17. REG_WRITE of one to 1,023 pairs applies each in payload order: when all pass it is answered OK with no payload; when
one fails it is answered BAD_PARAM with its index in DETAIL (255 at most) and in a 4-byte payload, the pairs before it applied
and those after it not; the words of the host port act only once that reply has been sent (R339). A pair fails exactly when
its address is no register, its value holds 1 in a reserved bit, or the word that results breaks the register's range. A pair
to a word that writes fully as RW stores the value; after a pair to a covered word UNCOMMITTED is set; and a word no table
defines accepts only 0 and keeps what it holds. -/
def Obligations.RegisterWritesApplyInOrder : Prop :=
  ∀ (s : State) (p : Pkt), s.tidy = true →
    (let pl := p.payload
     let n := num pl 0 4
     let w := writePairs (atRun s opRWRITE p) 0 (pairsOf pl n)
     let u := { w.1 with kct := { w.1.kct with held := heldWords (atRun s opRWRITE p) w.1 } }
     Runs s opRWRITE p → 1 ≤ n → n ≤ 1023 → (∀ a ∈ portRegs, hpWord u a = hpWord s a) ∧
      exec (.regWrite p) s = .next (portSettle (match w.2 with
        | none => replyTo u (rowReq opRWRITE p) stOK 0 []
        | some i => replyTo u (rowReq opRWRITE p) stParam (min i 255) (toLE 4 i)))) ∧
    (∀ a v, a % 4 = 0 → a < 0x100000 → v < 2 ^ 32 →
      (storeReg s a v = none ↔ checkWrite s a allBits v (newWord a allBits v (storedFor s a)) = false) ∧
      (∀ u w acts, storeReg s a v = some (u, w, acts) → w = a ∧ (isCovered a = true → fld u rCFG_STAT 1 1 = 1) ∧
        (∀ x, x ≠ a → x ≠ rCFG_STAT → rd u x = rd s x) ∧
        ((regRow a).rw = allBits → storesNothing s a = false → a ≠ rFT_CTL → rd u a = v))) ∧
    (∀ i a v ps, storeReg s a v = none → writePairs s i ((a, v) :: ps) = (s, some i)) ∧
    (∀ a v, goodAddr a = false → storeReg s a v = none) ∧
    (∀ a v, 0xD0000 ≤ a → a < 0x100000 → a % 4 = 0 → v < 2 ^ 32 → (v ≠ 0 → storeReg s a v = none) ∧
      (v = 0 → ∃ u, storeReg s a v = some (u, a, 0) ∧ rd u a = rd s a))

/-- O18. A REG_WRITE of one pair to LINK_CTL, BED_CTL or a regulator's RATE that passes its checks stores its RW fields and is
answered OK: ENABLE of the link, TARGET, FLOOR and PIN of the bed, the partition's RATE, which must keep the sum of the eight
partitions' RATE within the resource's CAP. A RATE that would exceed it is answered BAD_PARAM and every RATE stays. Writing
ENABLE = 0 to a link that exists takes it DOWN with REASON 3; writing WAKE to a bed in Idle, Doze or Off that is still begins
its wake to Run. -/
def Obligations.LinkBedAndRateWritesStore : Prop :=
  ∀ (s : State) (p : Pkt), s.tidy = true →
    (∀ n < 11, ∀ en : Bool,
      let p' := onePair p (rLINK_CTL n) (b2n en)
      Runs s opRWRITE p' → ∃ t, exec (.linkCtlEnable p n en) s = .next t ∧ Replied t opRWRITE p' stOK 0 [] ∧
        (linkThere s n = false → rd t (rLINK_CTL n) = rd s (rLINK_CTL n)) ∧
        (linkThere s n = true → fld t (rLINK_CTL n) 0 0 = b2n en ∧ fld t rCFG_STAT 1 1 = 1 ∧
          (en = false → linkState t n = 0 ∧ fld t (rLINK_STAT n) 27 24 = 3))) ∧
    (∀ n < 11, ∀ v : W32,
      let p' := onePair p (rLINK_CTL n) (setBits 1 1 v.toNat 1)
      Runs s opRWRITE p' → v.toNat < 4 → ∃ t, exec (.linkCtlRetrain p n v) s = .next t ∧ Replied t opRWRITE p' stOK 0 [] ∧
        (linkThere s n = true → fld t (rLINK_CTL n) 0 0 = v.toNat % 2 ∧ (v.toNat % 2 = 1 → linkState t n = 1))) ∧
    (∀ b < 13, ∀ v : W32,
      let p' := onePair p (rBED_CTL b) (setBits 7 7 v.toNat 0)
      Runs s opRWRITE p' → Nat.land v.toNat 0xFFFFFF60 = 0 → (bits 1 0 v.toNat = 3 → bedMayOff s b = true) →
      ∃ t, exec (.bedCtlTarget p b v) s = .next t ∧ Replied t opRWRITE p' stOK 0 [] ∧
        fld t (rBED_CTL b) 4 0 = bits 4 0 v.toNat ∧ bedState t b = bedState s b ∧ moveOf t b = moveOf s b) ∧
    (∀ b < 13, ∀ v : W32,
      let p' := onePair p (rBED_CTL b) (setBits 7 7 v.toNat 1)
      Runs s opRWRITE p' → Nat.land v.toNat 0xFFFFFF60 = 0 → (bits 1 0 v.toNat = 3 → bedMayOff s b = true) →
      ∃ t, exec (.bedCtlWake p b v) s = .next t ∧ Replied t opRWRITE p' stOK 0 [] ∧ fld t (rBED_CTL b) 4 0 = bits 4 0 v.toNat ∧
        (moveOf s b = .still → bedState s b ≠ 0 → moveOf t b = .waking 0 ∧ fld t (rBED_STAT b) 2 2 = 1) ∧
        (moveOf s b = .still → bedState s b = 0 → moveOf t b = .still)) ∧
    (∀ res < 4, ∀ q < 8, ∀ v : W32,
      let p' := onePair p (rREG res q) v.toNat
      let sum := sumOf ((List.range 8).map fun k => if k = q then v.toNat else rd s (rREG res k))
      Runs s opRWRITE p' → v.toNat ≤ 0xFFFFF → rd s (rREG res q) ≤ 0xFFFFF → (s.fuses.variantB = false ∨ res ≠ 1) →
      4 ≤ pathMax s p.src → ∃ t, exec (.regulatorRateWrite p res q v) s = .next t ∧
        (sum ≤ capNow s res → Replied t opRWRITE p' stOK 0 [] ∧ rd t (rREG res q) = v.toNat) ∧
        (capNow s res < sum → Replied t opRWRITE p' stParam 0 (toLE 4 0) ∧ rd t (rREG res q) = rd s (rREG res q)) ∧
        (∀ k < 8, k ≠ q → rd t (rREG res k) = rd s (rREG res k)))

/-- O19. CFG_COMMIT of MODE 0 makes the result of a fresh scan CFG_REF, clears MISMATCH and UNCOMMITTED and answers OK with
the reference; MODE 1 does so when the result equals the REF carried, and otherwise answers CONFIG_DRIFT and leaves CFG_REF
and CFG_STAT as they were. -/
def Obligations.ConfigurationCommits : Prop :=
  ∀ (s : State) (p : Pkt), s.tidy = true → 4 ≤ pathMax s p.src →
    (let p' := withByte p 0 0
     Runs s opCFG p' → allZero p'.payload 1 3 = true → ∃ t, exec (.cfgCommit p) s = .next t ∧
      Done t opCFG p' (commitCfg s) (toLE 4 (rd t rCFG_REF)) ∧ rd t rCFG_REF = checkValue s ∧ rd t rCFG_CUR = checkValue s ∧
      fld t rCFG_STAT 1 0 = 0) ∧
    (let p' := withByte p 0 1
     let ref := num p'.payload 4 4
     Runs s opCFG p' → allZero p'.payload 1 3 = true → ∃ t, exec (.cfgCommitRef p) s = .next t ∧
      (checkValue s = ref → Done t opCFG p' (commitCfg s) (toLE 4 ref) ∧ rd t rCFG_REF = ref ∧ fld t rCFG_STAT 1 0 = 0) ∧
      (checkValue s ≠ ref → Answered t opCFG p' stDrift 0 (toLE 4 (checkValue s)) ∧ rd t rCFG_REF = rd s rCFG_REF ∧
        rd t rCFG_STAT = rd s rCFG_STAT))

/-- O20. MODEL_INSTALL outside bind-off, whose manifest has the length its counts give, passes its checks and finds its
graphs' counters and the blocks of its mirror free, enters the model under the lowest free number with the manifest's version,
limit, ranges, images, sites and projections, enters its graphs for that model, and answers OK with the model's number and its
graphs' numbers; no other model and no request changes. MODEL_REMOVE of an installed model is answered OK and marks it: it
leaves service at the next boundary. -/
def Obligations.ModelsInstallAndRemove : Prop :=
  ∀ (s : State) (p : Pkt), s.tidy = true →
    (let pl := p.payload
     let m := manifestOf pl
     let n := firstGap 0 s.models
     Runs s opINSTALL p → s.power.bindOff = none → pl.length = manifestLen pl → manifestOk s pl m = true →
      (s.fuses.variantB = true → ∀ i ∈ m.images, 2 ≤ i.1) → (∀ i ∈ m.images, i.2.1 ≤ 1) → (∀ g ∈ m.graphs, g.1 ≤ 1) →
      s.graphs.length + m.graphs.length ≤ 16 → manifestUe s m = none → m.images.all (imageOk s) = true →
      (∀ g ∈ m.graphs, installFault s g = none) → mirrorUe s m = none →
      (unitsLeft s 5 32 = 0 → ∀ i ∈ m.images, 2 ≤ i.1) →
      (let a := atRun s opINSTALL p
       ∃ u gs, foldOpt (fun acc g => enterGraph n acc g) m.graphs (a, []) = some (u, gs) ∧
        (mirrorAll u (nearParts a m.graphs m.images)).isSome = true) →
      17 ≤ pathMax s p.src → ∃ t x, exec (.modelInstall p) s = .next t ∧ look t.models n = some x ∧
        x.modelId = m.modelId ∧ x.fmt = num pl 0 2 ∧ x.ctxLimit = m.limit ∧ x.ranges = m.ranges ∧ x.images = m.images ∧ x.sites = m.sites ∧
        x.projs = m.projs ∧ x.removing = false ∧ x.lost = false ∧ x.graphs.length = m.graphs.length ∧
        (∀ g ∈ x.graphs, (look t.graphs g).map (·.model) = some n) ∧ (∀ k, k ≠ n → look t.models k = look s.models k) ∧
        t.serve = s.serve ∧ t.graft = s.graft ∧ Answered t opINSTALL p stOK 0 (toLE 1 n ++ x.graphs.flatMap (toLE 1))) ∧
    (let n := num p.payload 0 1
     Runs s opREMOVE p → allZero p.payload 1 3 = true → ∀ m, look s.models n = some m → ∃ t, exec (.modelRemove p) s = .next t ∧
      Done t opREMOVE p { s with models := put s.models n { m with removing := true } } [])

/-- O21. LOAD_WEIGHTS for an installed model whose version the firmware reads, outside bind-off, whose records have right
lengths and name tiles of the model's ranges, is answered OK, and the records and entries are written in the order of the
payload, to the shadow image and to the slice of a powered bed. Of a payload of one record, the near tier holds the record at
the tile's slot of the logical array's image and its entry in the image's directory; where the array is mapped and its bed
neither Off nor on its way there, the slice holds them as well. -/
def Obligations.WeightsAreLoaded : Prop :=
  ∀ (s : State) (p : Pkt), s.tidy = true →
    let pl := p.payload
    Runs s opWEIGHTS p → s.power.bindOff = none → ∀ m ts, look s.models (num pl 0 1) = some m → fmtOk s m.fmt = true → allZero pl 1 3 = true →
      walkEntries (num pl 4 4) (pl.drop 8) = true → tileRecs (num pl 4 4) (pl.drop 8) = some ts → ts.all (tileOk m) = true →
      ∃ t, exec (.loadWeights p) s = .next t ∧ Done t opWEIGHTS p (ts.foldl writeTile s) [] ∧
        ∀ x, ts = [x] → x.tile < sliceSlots →
          let e := if bit 8 x.entry then x.entry else 209
          let a := physOf s x.array
          (stackCount s ≠ 0 → ld t 1 (imageBase s x.array + slotBytes * x.tile) x.bytes.length = x.bytes ∧
            ldN t 1 (imageBase s x.array + dirOff + 4 * x.tile) 4 = e) ∧
          (fld s (rARRAY_MAP x.array) 7 7 = 1 → bedState s (a / 8) ≠ 3 → moveOf s (a / 8) ≠ .entering 3 →
            ld t 3 (sliceBase a + slotBytes * x.tile) x.bytes.length = x.bytes ∧ ldN t 3 (sliceBase a + dirOff + 4 * x.tile) 4 = e)

/-- O22. GRAFT_REGISTER with OP 0 of an image that passes its checks, whose copy finds a block in the far tier where it is to
be made, enters it in the lowest free registry slot for the command's context and the image's model, and answers OK with an
identifier made of kind, generation and slot; an image with no entry is answered with identifier 0 and enters nothing. With OP
1 a graft of the context (any for context 0) becomes retiring and is answered OK with its identifier. No other entry changes.
-/
def Obligations.GraftsRegisterAndRetire : Prop :=
  ∀ (s : State) (p : Pkt), s.tidy = true → 4 ≤ pathMax s p.src →
    (let p' := withByte p 0 0
     let pl := p'.payload
     let c := p.hdr.ctx
     let tier := num pl 1 1
     let addr := num pl 8 8
     let h := ld s tier addr 64
     Runs s opGRAFT p' → tier ≤ 1 → num pl 2 2 = 0 → mayName s c tier addr 64 = true → firstBad s tier addr 64 = none →
      (num h 2 1 = 1 → s.fuses.variantB = false ∧ unitsLeft s 6 8 ≠ 0) → graftHeadOk s tier h = true → mayName s c tier addr (num h 8 4) = true →
      firstBad s tier addr (num h 8 4) = none → ∀ n m, modelById s (num h 4 4) = some (n, m) → entriesOk s m tier addr h = true →
      (num h 12 2 = 0 → ∃ t, exec (.graftRegister p) s = .next t ∧ Done t opGRAFT p' s (toLE 4 0)) ∧
      (num h 12 2 ≠ 0 → s.graft.reg.length < 65536 → (capOf s 2 = 0 ∨ num h 2 1 = 1 ∨ (findRun s 0 2 1).isSome = true) → ∃ t g, exec (.graftRegister p) s = .next t ∧
        look t.graft.reg (firstGap 0 s.graft.reg) = some g ∧ g.delta = (num h 2 1 == 1) ∧ g.ctx = c ∧ g.model = n ∧
        g.size = num h 8 4 ∧ g.unreg = false ∧ g.gen = (look s.graft.gens (firstGap 0 s.graft.reg)).getD 1 ∧
        (∀ k, k ≠ firstGap 0 s.graft.reg → look t.graft.reg k = look s.graft.reg k) ∧ t.graft.hot = s.graft.hot ∧
        t.graft.pfx = s.graft.pfx ∧ t.serve = s.serve ∧ t.models = s.models ∧
        Answered t opGRAFT p' stOK 0 (toLE 4 (graftIdOf g (firstGap 0 s.graft.reg))))) ∧
    (let p' := withByte p 0 1
     let id := num p'.payload 4 4
     Runs s opGRAFT p' → num p'.payload 2 2 = 0 → id ≠ 0 → ∀ i g, findGraft s id = some (i, g) →
      (p.hdr.ctx = 0 ∨ g.ctx = p.hdr.ctx) → ∃ t, exec (.graftUnregister p) s = .next t ∧
        Done t opGRAFT p' { s with graft := { s.graft with reg := put s.graft.reg i { g with unreg := true } } } (toLE 4 id))

/-- O23. REQ_ADMIT of a payload that passes its checks, by a context within its request quota, while the module is neither
failed nor in bind-off: when the table has a free entry and the request fits, the lowest free entry becomes one in PREFILL
that holds the prompt, the context, the model, the class and the deadlines of the payload, to be admitted at the next
boundary, and the reply is OK with its identifier, 0, 0 and the reuse count; when it does not fit now but may wait and the
deferred queue has room, the entry is QUEUED at the end of the queue and the reply is DEFERRED with its position and the
firmware's forecast, which is free. When the table is full, a GUARANTEED request within its context's reservation is owed an
entry whose request is ending or is preempted for it (which one is the model's choice, log 20), and the reply is OK with its
identifier there. No other entry changes. -/
def Obligations.RequestsAreAdmitted : Prop :=
  ∀ (s : State) (p : Pkt), s.tidy = true → 16 ≤ pathMax s p.src →
    let pl := p.payload
    let c := p.hdr.ctx
    let r := rowReq opADMIT p
    Runs s opADMIT p → moduleFailed s = false → s.power.bindOff = none → admitFault s r = none →
      ∀ m x, look s.models (num pl 0 1) = some m → ctxOf s c = some x →
      let u := (probe s m (num pl 4 4) c (tokensAt pl 64 (num pl 28 4))).2
      let reuse := (probe s m (num pl 4 4) c (tokensAt pl 64 (num pl 28 4))).1.length
      let need := pagesNeeded (layersOf m) (num pl 28 4) reuse
      let k := freeEntry s
      let id := reqIdOf k (genOf s k)
      let fit := withinReserve u c x.cls need || fits u x.cls need
      heldEntries s c < x.reqQuota → neverFits u c x.cls need = false →
      (entriesUsed s < 32768 → fit = true → ∃ t q, exec (.reqAdmit p) s = .next t ∧ look t.serve.reqs k = some q ∧ q.state = 2 ∧ q.admitting = true ∧
        q.ctx = c ∧ q.cls = x.cls ∧ q.model = num pl 0 1 ∧ q.tokens = tokensAt pl 64 (num pl 28 4) ∧ q.maxTokens = num pl 24 4 ∧
        q.firstDl = num pl 32 8 ∧ q.completeDl = num pl 40 8 ∧ q.cadence = num pl 48 4 ∧ q.hostTag = p.hdr.hostTag ∧
        t.serve.queue = s.serve.queue ∧ (∀ j, j ≠ k → look t.serve.reqs j = look s.serve.reqs j) ∧
        Answered t opADMIT p stOK 0 (toLE 4 id ++ zeros 8 ++ toLE 4 reuse)) ∧
      (entriesUsed s < 32768 → fit = false → x.cls ≠ 2 → 1 ≤ mayEntries u x.cls → s.serve.queue.length < fld s rSERVE_CTL 31 16 →
        ∃ t q, exec (.reqAdmit p) s = .next t ∧ look t.serve.reqs k = some q ∧ q.state = 1 ∧ q.queuePos = s.serve.queue.length + 1 ∧
          q.ctx = c ∧ q.tokens = tokensAt pl 64 (num pl 28 4) ∧ t.serve.queue = s.serve.queue ++ [k] ∧
          (∀ j, j ≠ k → look t.serve.reqs j = look s.serve.reqs j) ∧
          Answered t opADMIT p stDeferred 0
            (toLE 4 id ++ toLE 4 (s.serve.queue.length + 1) ++ toLE 4 (Config.waitMs s.fresh) ++ toLE 4 reuse)) ∧
      (32768 ≤ entriesUsed s → withinReserve u c x.cls need = true → ∀ y, yieldedEntry u = some y →
        ∃ t q, exec (.reqAdmit p) s = .next t ∧ look t.serve.owed y = some q ∧ q.state = 2 ∧ q.admitting = true ∧ q.ctx = c ∧
          q.tokens = tokensAt pl 64 (num pl 28 4) ∧ (∀ e, look t.serve.reqs y = some e → e.ending.isSome = true) ∧
          (∀ j, j ≠ y → look t.serve.reqs j = look s.serve.reqs j ∧ look t.serve.owed j = look s.serve.owed j) ∧
          t.serve.queue = s.serve.queue ∧
          Answered t opADMIT p stOK 0 (toLE 4 (reqIdOf y ((genOf s y + 1) % 2 ^ 17)) ++ zeros 8 ++ toLE 4 reuse))

/-- O24. Of a request of the command's own context (any for context 0): REQ_APPEND with DRAFT 0 to a request in PREFILL or
DECODE puts its tokens up for the next boundary, with DRAFT 1 to one in DECODE adds them to its drafts, at most 15; REQ_PRUNE
marks it to end with reason 2 unless an end is decided already; REQ_ACCEPT in SPEC_WAIT records a count of at most the drafts;
REQ_QUERY answers with the 128 bytes of its entry and the tokens asked for, with STATUS STALL in STALL, and changes nothing.
Each is answered at once and changes that entry alone. -/
def Obligations.RequestCommandsMarkTheirEntry : Prop :=
  ∀ (s : State) (p : Pkt), s.tidy = true →
    (let p' := withByte p 4 (num p.payload 4 1 / 2 * 2)
     let pl := p'.payload
     Runs s opAPPEND p' → num pl 4 1 < 2 → allZero pl 5 3 = true → num pl 8 4 ≠ 0 →
      ∀ k q, namedReq s (rowReq opAPPEND p') = .ok (k, q) → (q.state = 2 ∨ q.state = 3) →
      q.tokens.length + q.appended.length + num pl 8 4 ≤ q.ptCap * 32 → ∃ t, exec (.reqAppend p) s = .next t ∧
        Done t opAPPEND p' (modReq s k fun q => { q with appended := q.appended ++ tokensAt pl 12 (num pl 8 4) }) []) ∧
    (let p' := withByte p 4 (num p.payload 4 1 / 2 * 2 + 1)
     let pl := p'.payload
     Runs s opAPPEND p' → num pl 4 1 < 2 → allZero pl 5 3 = true → num pl 8 4 ≠ 0 →
      ∀ k q, namedReq s (rowReq opAPPEND p') = .ok (k, q) → q.state = 3 → num pl 8 4 + q.drafts.length ≤ 15 →
      q.seqLen + 1 + q.drafts.length + num pl 8 4 ≤ q.ptCap * 32 → ∃ t, exec (.reqAppendDraft p) s = .next t ∧
        Done t opAPPEND p' (modReq s k fun q => { q with drafts := q.drafts ++ tokensAt pl 12 (num pl 8 4) }) []) ∧
    (Runs s opPRUNE p → ∀ k q, namedReq s (rowReq opPRUNE p) = .ok (k, q) → ∃ t, exec (.reqPrune p) s = .next t ∧
      Done t opPRUNE p (modReq s k fun q => if q.ending.isSome then q else { q with ending := some 2 }) []) ∧
    (Runs s opACCEPT p → ∀ k q, namedReq s (rowReq opACCEPT p) = .ok (k, q) → q.state = 4 → num p.payload 4 4 < q.sampled.length →
      ∃ t, exec (.reqAccept p) s = .next t ∧
        Done t opACCEPT p (modReq s k fun q => { q with accept := some (num p.payload 4 4) }) []) ∧
    (let a := num p.payload 4 4
     let n := num p.payload 8 4
     Runs s opQUERY p → ∀ k q, namedReq s (rowReq opQUERY p) = .ok (k, q) → n ≤ 2000 → (n = 0 ∨ a + n ≤ q.seqLen) →
      128 + 4 * n ≤ pathMax s p.src → ∃ t, exec (.reqQuery p) s = .next t ∧ OnlyCarried s t p ∧
        Answered t opQUERY p (if q.state = 5 then stStall else stOK) 0 (requestBytes s k q ++ tokBytes ((q.tokens.drop a).take n)))

/-- O25. SUBMIT_GRAPH whose image passes the checks of Table 9.4, outside maintenance, enters one instance at the end of the
table under the next instance number, with the image's header, the context and its partition, and nothing of it admitted, and
answers OK with that number; an installed graph's instance (context 0) carries the parameter block. Nothing else changes but
the regulator that the reading of the image is charged to. A graph without tasks completes before the reply and leaves no
entry. -/
def Obligations.GraphsAreSubmitted : Prop :=
  ∀ (s : State) (p : Pkt), s.tidy = true → 4 ≤ pathMax s p.src →
    let c := p.hdr.ctx
    let n := s.disp.nextNum
    (let p' := withByte p 0 0
     let pl := p'.payload
     let tier := num pl 1 1
     let addr := num pl 8 8
     let h := hdrOf (ld s tier addr 64)
     let u := chargeNear s tier (partOf s c) (64 + 64 * h.tasks)
     let i : Inst := { num := n, ctx := c, part := partOf s c, step := none, forceRef := false, tier := tier, addr := addr, hdr := h,
                       params := none, admitted := 0, ended := 0, voided := 0, status := 0, failTask := 0xFFFFFFFF, suspect := none,
                       late := false, start := 0, signals := [], closing := false }
     Runs s opSUBMIT p' → num pl 3 1 = 0 → num pl 4 4 ≤ 256 → (c ≠ 0 → moduleFailed s = false ∧ s.power.bindOff = none) →
      maintHolds s = false → imageNamed s c tier addr = true → firstBad s tier addr 64 = none →
      imagePlaced s c tier addr false = true → imageUe s tier addr = none →
      graphFault u c h (imageTasks u tier addr h none) (fun _ _ => false) = none → localRangeOk u c h = true →
      s.disp.insts.length < 1024 →
      (h.tasks ≠ 0 → ∃ t, exec (.submitGraph p) s = .next t ∧
        Done t opSUBMIT p' { u with disp := { s.disp with insts := s.disp.insts ++ [i], nextNum := n + 1 } } (toLE 4 n)) ∧
      (h.tasks = 0 → (∀ j ∈ s.disp.insts, j.num < n) → ∃ t, exec (.submitGraph p) s = .next t ∧ t.disp.insts = s.disp.insts ∧
        t.disp.nextNum = n + 1 ∧ t.serve = s.serve ∧ t.models = s.models ∧ Answered t opSUBMIT p' stOK 0 (toLE 4 n))) ∧
    (let p' := withByte p 0 1
     let pl := p'.payload
     let m := num pl 4 4
     Runs s opSUBMIT p' → num pl 3 1 = 0 → m ≤ 256 → c = 0 → num pl 2 1 ≤ 15 → maintHolds s = false →
      ∀ ig, look s.graphs (num pl 2 1) = some ig →
      let h := hdrOf (ld s ig.tier ig.addr 64)
      let u := chargeNear s ig.tier (partOf s c) (64 + 64 * h.tasks)
      let ps := some (words32 pl 16 m)
      let i : Inst := { num := n, ctx := c, part := partOf s c, step := none, forceRef := false, tier := ig.tier, addr := ig.addr,
                        hdr := h, params := ps, admitted := 0, ended := 0, voided := 0, status := 0, failTask := 0xFFFFFFFF,
                        suspect := none, late := false, start := 0, signals := [], closing := false }
      imageNamed s c ig.tier ig.addr = true → firstBad s ig.tier ig.addr 64 = none → imageUe s ig.tier ig.addr = none →
      (∀ x ∈ patchesOf s ig.tier ig.addr h, x.param < m) →
      imagePlaced s c ig.tier ig.addr true = true → graphFault u c h (imageTasks u ig.tier ig.addr h ps) (fun _ _ => false) = none →
      localRangeOk u c h = true → s.disp.insts.length < 1024 → h.tasks ≠ 0 →
      ∃ t, exec (.submitGraphInstalled p) s = .next t ∧
        Done t opSUBMIT p' { u with disp := { s.disp with insts := s.disp.insts ++ [i], nextNum := n + 1 } } (toLE 4 n))

/-- O26. A counter holds an unsigned 32-bit value, 0 once it is allocated. A signal adds 1 to a counter below 0xFFFF_FFFF and
leaves one that holds 0xFFFF_FFFF alone, counting it in DISP_FAULT.CTR_SAT (which itself stops at 255). An ADD whose true sum
exceeds 0xFFFF_FFFF leaves the counter at 0xFFFF_FFFF and counts once; one whose sum does not, even exactly 0xFFFF_FFFF,
leaves the sum and counts nothing. The counter table is in order (every write keeps it so: CountersAndArraysStayInOrder), and
the waits that a change may answer came by the host port or by one of the 11 links. -/
def Obligations.CountersSaturate : Prop :=
  ∀ s : State, s.tidy = true → keysAbove none s.disp.ctrs = true →
    (∀ w ∈ s.disp.waits, ∀ n, w.req.via = some n → n < 11) →
    let sat := fun (x : State) => fld x rDISP_FAULT 15 8
    (∀ c, ctrVal s c < 2 ^ 32) ∧
    (∀ c b n k, k < n → ctrVal (giveCtrs s c b n) (b + k) = 0) ∧
    (∀ c, ctrVal s c < 0xFFFFFFFF → ctrVal (signalCtr s c) c = ctrVal s c + 1 ∧ sat (signalCtr s c) = sat s) ∧
    (∀ c, ctrVal s c = 0xFFFFFFFF → (signalCtr s c).disp = s.disp ∧ sat (signalCtr s c) = min (sat s + 1) 255) ∧
    (∀ c v, 0xFFFFFFFF < ctrVal s c + v → v < 2 ^ 32 → ctrVal (addCtr s c v) c = 0xFFFFFFFF ∧
      sat (addCtr s c v) = min (sat s + 1) 255) ∧
    (∀ c v, ctrVal s c + v ≤ 0xFFFFFFFF → ctrVal (addCtr s c v) c = ctrVal s c + v ∧ sat (addCtr s c v) = sat s)

/-- O27. The table of counter values lists rising counter numbers at reset, and a counter's value stored keeps it so, reads
back as stored, and leaves every other counter as it was. So does the table of the arrays that are not in the cleared state.
-/
def Obligations.CountersAndArraysStayInOrder : Prop :=
  keysAbove none State.reset.disp.ctrs = true ∧ keysAbove none State.reset.arr.arrays = true ∧
    (∀ (s : State) (c v : Nat), keysAbove none s.disp.ctrs = true → v < 2 ^ 32 →
      keysAbove none (putCtr s c v).disp.ctrs = true ∧ ctrVal (putCtr s c v) c = v ∧
      ∀ d, d ≠ c → ctrVal (putCtr s c v) d = ctrVal s d) ∧
    (∀ (s : State) (n : Nat) (a : Arr), keysAbove none s.arr.arrays = true →
      keysAbove none (setArr s n a).arr.arrays = true ∧ arrOf (setArr s n a) n = a ∧
      ∀ m, m ≠ n → arrOf (setArr s n a) m = arrOf s m)

/-- O28. For a counter the context may name: SYNC_WAIT whose value is reached is answered OK at once with the counter's value
and changes nothing; one whose value is not reached joins the waiting commands, with the time its timeout ends, and nothing is
sent, or, with 1,024 waiting already, is answered REFUSED_CAPACITY with DETAIL 4. SYNC_SIGNAL ADD of a value above 0 leaves
the sum, or 0xFFFF_FFFF with CTR_SAT counted once; ADD of 0 changes nothing; SET leaves the value given. ADD and SET answer
each wait that the new value satisfies with the value, and then the command with OK; no such wait remains, tasks whose waits
are now met are ready, and no other counter, owner or instance changes. A wait whose timeout has passed leaves and is answered
DEADLINE_MISSED with the value. -/
def Obligations.SyncCommandsWaitAndSignal : Prop :=
  ∀ (s : State) (p : Pkt), s.tidy = true → 4 ≤ pathMax s p.src →
    let c := num p.payload 0 2
    (Runs s opWAIT p → allZero p.payload 2 2 = true → ctrFault s p.hdr.ctx c = none →
      (num p.payload 4 4 ≤ ctrVal s c → ∃ t, exec (.syncWait p) s = .next t ∧ Done t opWAIT p s (toLE 4 (ctrVal s c))) ∧
      (ctrVal s c < num p.payload 4 4 → s.disp.waits.length < 1024 → ∃ t, exec (.syncWait p) s = .next t ∧
        OnlyCarried { s with disp := t.disp } t p ∧ t.kct.sent = s.kct.sent ∧ t.kct.waiting = s.kct.waiting ∧
        t.disp = { s.disp with waits := s.disp.waits ++
          [{ req := rowReq opWAIT p, ctr := c, value := num p.payload 4 4,
             expires := if num p.payload 8 8 = 0 then none else some (s.time + num p.payload 8 8) }] }) ∧
      (ctrVal s c < num p.payload 4 4 → 1024 ≤ s.disp.waits.length → ∃ t, exec (.syncWait p) s = .next t ∧
        Answered t opWAIT p stCapacity 4 [] ∧ OnlyCarried s t p)) ∧
    ((∀ w ∈ s.disp.waits, ∀ n, w.req.via = some n → n < 11) →
     (let p' := withByte p 2 0
      let k := num p'.payload 0 2
      let v := num p'.payload 4 4
      let y := min (ctrVal s k + v) 0xFFFFFFFF
      Runs s opSIGNAL p' → num p'.payload 3 1 = 0 → ctrFault s p.hdr.ctx k = none →
       (v = 0 → ∃ t, exec (.syncSignalAdd p) s = .next t ∧ Done t opSIGNAL p' s []) ∧
       (v ≠ 0 → ∃ t, exec (.syncSignalAdd p) s = .next t ∧ t.disp.ctrs = put s.disp.ctrs k (BitVec.ofNat 32 y) ∧
        t.disp = { (refreshReady (putCtr s k y)).disp with waits := s.disp.waits.filter fun w => !(w.ctr == k && w.value ≤ y) } ∧
        (∀ w ∈ s.disp.waits, w.ctr = k → w.value ≤ y → w.req.via = none → 4 ≤ pathMax s w.req.pkt.src →
          Replied t w.req.pkt.hdr.opcode w.req.pkt stOK 0 (toLE 4 y)) ∧
        fld t rDISP_FAULT 15 8 = min (fld s rDISP_FAULT 15 8 + if ctrVal s k + v ≤ 0xFFFFFFFF then 0 else 1) 255 ∧
        t.mem = s.mem ∧ t.serve = s.serve ∧ Answered t opSIGNAL p' stOK 0 [])) ∧
     (let p' := withByte p 2 1
      let k := num p'.payload 0 2
      let v := num p'.payload 4 4
      Runs s opSIGNAL p' → num p'.payload 3 1 = 0 → ctrFault s p.hdr.ctx k = none →
       ∃ t, exec (.syncSignalSet p) s = .next t ∧
        t.disp.ctrs = (if v = 0 then del s.disp.ctrs k else put s.disp.ctrs k (BitVec.ofNat 32 v)) ∧
        t.disp = { (refreshReady (putCtr s k v)).disp with waits := s.disp.waits.filter fun w => !(w.ctr == k && w.value ≤ v) } ∧
        (∀ w ∈ s.disp.waits, w.ctr = k → w.value ≤ v → w.req.via = none → 4 ≤ pathMax s w.req.pkt.src →
          Replied t w.req.pkt.hdr.opcode w.req.pkt stOK 0 (toLE 4 v)) ∧
        fld t rDISP_FAULT 15 8 = fld s rDISP_FAULT 15 8 ∧
        t.mem = s.mem ∧ t.serve = s.serve ∧ Answered t opSIGNAL p' stOK 0 [])) ∧
    (∀ w e, s.disp.waits.find? (fun w => w.req.pkt.hdr.ctx == p.hdr.ctx && w.req.pkt.hdr.seq == p.hdr.seq) = some w →
      w.expires = some e → e ≤ s.time → w.req = rowReq opWAIT p → portUp s = true → hasAddr s = true →
      ∃ t, exec (.syncWaitTimeout p.hdr.ctx p.hdr.seq) s = .next t ∧
        t.disp = { s.disp with waits := s.disp.waits.filter fun x => !(x.req.pkt.hdr.ctx == p.hdr.ctx && x.req.pkt.hdr.seq == p.hdr.seq) } ∧
        t.mem = s.mem ∧ Answered t opWAIT p stDeadline 0 (toLE 4 (ctrVal s w.ctr)))

/-- O29. SYNC_ALLOC of n counters within the context's quota gives it a run of n counters that nobody holds, each at 0,
answers OK with the run's first number, and changes no other owner. A free of counters that the context itself holds and that
nothing in flight uses takes them back, each SYNC_WAIT on them leaves, and the command is answered OK; counters outside the
run keep their owners. A free of a run of which the context does not hold every counter, be it context 0, is answered
BAD_PARAM and changes nothing. -/
def Obligations.CountersAreAllocatedAndFreed : Prop :=
  ∀ (s : State) (p : Pkt), s.tidy = true → 4 ≤ pathMax s p.src →
    let c := p.hdr.ctx
    (let p' := withByte p 0 0
     let n := num p'.payload 2 2
     Runs s opSALLOC p' → num p'.payload 1 1 = 0 → num p'.payload 6 2 = 0 → n ≠ 0 → n ≤ 16384 →
      (c = 0 ∨ ∃ x, ctxOf s c = some x ∧ ctrsHeld s c + n ≤ x.ctrQuota) → ∀ b, freeCtrRun s n = some b →
      ∃ t, exec (.syncAllocAllocate p) s = .next t ∧ Done t opSALLOC p' (giveCtrs s c b n) (toLE 2 b ++ zeros 2) ∧
        b + n ≤ 16384 ∧ (∀ k < n, look s.disp.owners (b + k) = none ∧ look t.disp.owners (b + k) = some c) ∧
        ∀ k, ¬ (b ≤ k ∧ k < b + n) → look t.disp.owners k = look s.disp.owners k) ∧
    (let p' := withByte p 0 1
     let n := num p'.payload 2 2
     let b := num p'.payload 4 2
     Runs s opSALLOC p' → num p'.payload 1 1 = 0 → num p'.payload 6 2 = 0 → n ≠ 0 → b + n ≤ 16384 →
      (∀ k < n, look s.disp.owners (b + k) = some c) → ctrsInUse s b n = false →
      ∃ t, exec (.syncAllocFree p) s = .next t ∧
        t.disp = { s.disp with owners := s.disp.owners.filter (fun x => !decide (b ≤ x.1 ∧ x.1 < b + n)),
                               waits := s.disp.waits.filter (fun w => !decide (b ≤ w.ctr ∧ w.ctr < b + n)) } ∧
        t.mem = s.mem ∧ t.serve = s.serve ∧ Answered t opSALLOC p' stOK 0 (toLE 2 b ++ zeros 2) ∧
        ((∀ w ∈ s.disp.waits, ¬ (b ≤ w.ctr ∧ w.ctr < b + n)) → OnlyCarried { s with disp := t.disp } t p')) ∧
    (let p' := withByte p 0 1
     let n := num p'.payload 2 2
     let b := num p'.payload 4 2
     Runs s opSALLOC p' → num p'.payload 1 1 = 0 → num p'.payload 6 2 = 0 → n ≠ 0 → b + n ≤ 16384 →
      (∃ k, k < n ∧ look s.disp.owners (b + k) ≠ some c) →
      ∃ t, exec (.syncAllocFree p) s = .next t ∧ Answered t opSALLOC p' stParam 0 [] ∧ OnlyCarried s t p')

/-- O30. TASK_ADMIT lets the tasks of the instances chosen one after another enter, at most 16 of them, and stops before that
only where none may enter. The next task of the chosen instance that passes its entry check takes the lowest free slot with
its descriptor as read now, ready where its waits are met, the instance has one task more admitted, and the instance's first
task starts it: local counters 0 and the time recorded. TASK_RELEASE marks the first 16 ready tasks that may be released as
released, numbered on in their order of release, and counts them in DISP_PERF; instances, counters and memory stay. -/
def Obligations.DispatcherAdmitsAndReleases : Prop :=
  ∀ s : State, s.tidy = true →
    (∃ (t : State) (l : List Inst), exec .taskAdmit s = .next t ∧ l.length ≤ 16 ∧ t = l.foldl admitTask s ∧ (l.length < 16 → chooseEntry t = none)) ∧
    (∀ i, chooseEntry s = some i → instOf s i.num = some i → firstBad s i.tier (taskAddr i.addr i.admitted) 64 = none →
      let d := taskOf s i i.admitted
      let u := if i.admitted = 0 then startInst s i.num else s
      entryFault s i d = none → chooseEntry (admitTask s i) = none → ∃ t, exec .taskAdmit s = .next t ∧
        t.disp.window = put s.disp.window (firstGap 0 s.disp.window)
          { inst := i.num, index := i.admitted, desc := d, ready := waitsMet u i.hdr.ctrBase d, released := false,
            forceRef := i.forceRef, result := none, names := taskNames s d } ∧
        t.disp.insts = s.disp.insts.map (fun j => if j.num = i.num then
          { j with admitted := j.admitted + 1, signals := addSignals j.signals d, start := if i.admitted = 0 then s.time else j.start }
          else j) ∧
        (i.admitted = 0 → t.disp.ctrs = (List.range i.hdr.ctrCount).foldl (fun m k => del m (i.hdr.ctrBase + k)) s.disp.ctrs) ∧
        (i.admitted ≠ 0 → t.disp.ctrs = s.disp.ctrs) ∧ t.disp.rr = (if i.step.isNone then (i.part + 1) % 8 else s.disp.rr) ∧
        t.mem = s.mem ∧ t.regs = s.regs ∧ t.serve = s.serve ∧ t.kct = s.kct) ∧
    (let l := (releasable s).take 16
     (∀ w ∈ l, w ∈ s.disp.window ∧ w.2.ready = true ∧ w.2.released = false) ∧ l.length ≤ 16 ∧
      ∃ t, exec .taskRelease s = .next t ∧
        t.disp = { s.disp with
          window := (l.zip (List.range l.length)).foldl (fun m w =>
            put m w.1.1 { w.1.2 with released := true, order := s.disp.nextRel + w.2 }) s.disp.window
          nextRel := s.disp.nextRel + l.length } ∧
        rd64 t rDISP_PERF = (rd64 s rDISP_PERF + l.length) % 2 ^ 64 ∧ t.mem = s.mem ∧ t.serve = s.serve ∧ t.kct = s.kct ∧
        t.arr = s.arr)

/-- O31. A released NULL task ends with OK and changes nothing else; a STAMP task writes the time into its 8 bytes of the
commons and ends. A task whose engine has stopped leaves its slot and its instance has one more task ended (the waits its
signals may answer came by the host port or by one of the 11 links): with OK, when others remain, its signals are made and
nothing else of its instance changes; the last one takes the instance out of the table, with its completion record written
where STATUS_EN is set; a failed task fails the instance, and no unreleased task of it stays in the window. An instance found
stalled fails likewise. -/
def Obligations.TasksCompleteAndFail : Prop :=
  ∀ s : State, s.tidy = true → (∀ w ∈ s.disp.waits, ∀ n, w.req.via = some n → n < 11) →
    (∀ k sl i, released s k 0 (fun _ => true) = some (sl, i) → ∃ t, exec (.nullTask k) s = .next t ∧
      t = { s with disp := { s.disp with window := t.disp.window } } ∧
      look t.disp.window k = some { sl with result := some stOK } ∧ ∀ j, j ≠ k → look t.disp.window j = look s.disp.window j) ∧
    (∀ k sl i, released s k 10 (fun _ => true) = some (sl, i) → ∃ t, exec (.stamp k) s = .next t ∧
      t = { s with mem := t.mem, disp := { s.disp with window := t.disp.window } } ∧
      look t.disp.window k = some { sl with result := some stOK } ∧ (∀ j, j ≠ k → look t.disp.window j = look s.disp.window j) ∧
      ld t 0 (num sl.desc 16 4) 8 = toLE 8 s.time ∧
      (∀ a, ¬ (num sl.desc 16 4 ≤ a ∧ a < num sl.desc 16 4 + 8) → peek t.mem.commons a = peek s.mem.commons a) ∧
      t.mem.near = s.mem.near ∧ t.mem.far = s.mem.far ∧ t.mem.slices = s.mem.slices) ∧
    (∀ k sl i st, look s.disp.window k = some sl → sl.result = some st → instOf s sl.inst = some i →
      (st = stOK → i.ended + 1 ≠ i.hdr.tasks → ∃ t, exec (.taskComplete k) s = .next t ∧
        t.disp.window.map Prod.fst = (del s.disp.window k).map Prod.fst ∧
        t.disp.insts = s.disp.insts.map (fun j => if j.num = i.num then { j with ended := j.ended + 1 } else j) ∧
        t.disp.ctrs = (signalTask s i sl.desc).disp.ctrs ∧ t.mem = s.mem ∧ t.serve = s.serve) ∧
      (st = stOK → i.ended + 1 = i.hdr.tasks → i.closing = false → ∃ t, exec (.taskComplete k) s = .next t ∧
        t.disp.insts = s.disp.insts.filterMap (fun j => if j.num = i.num then none else some j) ∧
        (i.hdr.statusEn = true → recordPlaceOk s i.ctx i.hdr.statusTier i.hdr.statusAddr = true → i.status = 0 → i.suspect = none →
          i.hdr.deadline = 0 → ld t i.hdr.statusTier i.hdr.statusAddr 32 =
            toLE 1 0 ++ zeros 3 ++ toLE 4 0xFFFFFFFF ++ toLE 8 i.start ++ toLE 8 s.time ++ toLE 4 i.hdr.hostTag.toNat ++
              toLE 4 i.voided) ∧
        (i.hdr.statusEn = false → t.mem = s.mem)) ∧
      (st ≠ stOK → ∃ t, exec (.taskComplete k) s = .next t ∧ (∀ w ∈ t.disp.window, w.2.inst = i.num → w.2.released = true) ∧
        ∀ j, instOf t i.num = some j → j.status ≠ 0 ∧ (i.status = 0 → j.status = st ∧ j.failTask = sl.index))) ∧
    (∀ n i, instOf s n = some i → stalled s i = true → ∃ t, exec (.stallDetect n) s = .next t ∧
      (∀ w ∈ t.disp.window, w.2.inst = n → w.2.released = true) ∧ ∀ j, instOf t n = some j → j.status ≠ 0)

/-- O32. DEADLINE_CHECK leaves no instance whose deadline has passed that is not marked late. Where none of those it finds
asks to be aborted, exactly these are marked, DISP_FAULT.DL_MISS is raised by their number (to at most 65,535), each has its
fault record, and the window, the counters, memory and the serving tables stay as they are. -/
def Obligations.LateInstancesAreFound : Prop :=
  ∀ s : State, s.tidy = true →
    let late := s.disp.insts.filter (fun i => i.hdr.deadline != 0 && i.hdr.deadline < s.time && !i.late)
    ∃ t, exec .deadlineCheck s = .next t ∧
      (∀ j ∈ t.disp.insts, j.hdr.deadline ≠ 0 → j.hdr.deadline < s.time → j.late = true) ∧
      ((∀ i ∈ late, i.hdr.dlAbort = false) →
        t.disp = { s.disp with insts := s.disp.insts.map (fun j => if late.any (fun i => i.num == j.num) then { j with late := true }
                                                                   else j) } ∧
        fld t rDISP_FAULT 31 16 = min (fld s rDISP_FAULT 31 16 + late.length) 65535 ∧
        (late ≠ [] → t.ras.nextIdx = (s.ras.nextIdx + late.length) % 256) ∧ t.mem = s.mem ∧ t.serve = s.serve)

/-- O33. COLLECTIVE_OPEN of a good description, while fewer than 4,096 are open, opens the collective under its identifier for
the command's context, with its next invocation 0, and answers OK with the identifier; CLOSE of a collective of the context
(any for context 0) that no task in the window names frees it with the packets that waited for it. LINK_MAP_COMMIT of a good
map puts it into force and into the flash record; with ADOPT the map takes the record met for each masked link quarantined
with REASON 1 and keeps every other entry; a quarantined link that knows its peer has a new verdict of the new map to send. -/
def Obligations.CollectivesOpenAndClose : Prop :=
  ∀ (s : State) (p : Pkt), s.tidy = true → 4 ≤ pathMax s p.src →
    (let pl := p.payload
     let id := num pl 0 2
     let c : Coll := { ctx := p.hdr.ctx, op := num pl 2 1, rack := num pl 3 1 == 1, redOp := num pl 4 1, fmt := num pl 5 1,
                       memb := (List.range (num pl 6 1)).map (fun i => num pl (16 + i) 1), next := 0 }
     Runs s opCOPEN p → (num pl 3 1 = 1 → s.fuses.variantB = false) → collOpenOk s pl = true → s.coll.open_.length < 4096 →
      ∃ t, exec (.collectiveOpen p) s = .next t ∧
        Done t opCOPEN p { s with coll := { s.coll with open_ := put s.coll.open_ id c } } (toLE 2 id ++ zeros 2)) ∧
    (let id := num p.payload 0 2
     Runs s opCCLOSE p → num p.payload 2 2 = 0 → ∀ c, look s.coll.open_ id = some c → (p.hdr.ctx = 0 ∨ c.ctx = p.hdr.ctx) →
      (∀ w ∈ s.disp.window, dEngine w.2.desc = 9 → num w.2.desc 16 2 ≠ id) → ∃ t, exec (.collectiveClose p) s = .next t ∧
        t.coll.open_ = del s.coll.open_ id ∧ t.coll.runs = s.coll.runs ∧
        (∀ x, x ∈ t.coll.staged ∨ x ∈ t.coll.held.map Prod.fst → x.collId ≠ id) ∧
        (∀ x, x ∈ s.coll.staged ∨ x ∈ s.coll.held.map Prod.fst → x.collId ≠ id → x ∈ t.coll.staged ∨ x ∈ t.coll.held.map Prod.fst) ∧
        t.disp = s.disp ∧ t.mem = s.mem ∧ t.serve = s.serve ∧ Answered t opCCLOSE p stOK 0 []) ∧
    (∀ commit : Bool,
     let p' := withAdopt p (if commit then 0 else 1)
     let pl := p'.payload
     let m := if commit then mapOf pl else adopted s (num pl 4 2)
     Runs s opMAP p' → mapHeadOk pl = true → (commit = true → (List.range 11).all (entryOk pl) = true) →
      ∃ t, exec (if commit then .linkMapCommit p else .linkMapAdopt p) s = .next t ∧ Done t opMAP p' (newMap s m) [] ∧
        t.link.map = some m ∧ t.trust.mapRecord = some m ∧
        (∀ n < 11, ∀ i, (linkOf s n).peer = some i → linkState s n = 3 →
          (linkOf t n).mine = some (verdictOf s (m.getD n (wiredEntry s n)) i) ∧ (linkOf t n).told = false) ∧
        (commit = false → ∀ n < 11, m[n]? = some (match (linkOf s n).peer with
          | some i => if bit n (num pl 4 2) = true ∧ linkState s n = 3 ∧ fld s (rLINK_STAT n) 27 24 = 1 then
              { mode := 1, boardPos := i.boardPos, slot := i.slot, link := i.link, boardId := i.boardId, serial := i.serial }
              else mapEntry s n
          | none => mapEntry s n)))

/-- O34. POWER_SET HOLD_ACTIVE sets the hold, ALLOW_QUIET clears it and starts the idle time anew; each is answered OK and
changes nothing else. BIND_OFF with none in progress starts bind-off with its DRAIN_DL: PWR_STAT shows it, Quiet is left, and
no reply is sent yet. Once DRAIN_DL has passed, every graph instance in flight that is no step fails; a bind-off with nothing
left in flight ends: the module is Off, may be removed, and alerts. -/
def Obligations.PowerCommandsHoldAndBindOff : Prop :=
  ∀ (s : State) (p : Pkt), s.tidy = true →
    (let p' := withByte p 0 0
     Runs s opPOWER p' → powerOk p'.payload false = true → ∃ t, exec (.holdActive p) s = .next t ∧
      Done t opPOWER p' (setFld s rPWR_STAT 0 0 1) [] ∧ fld t rPWR_STAT 0 0 = 1) ∧
    (let p' := withByte p 0 1
     Runs s opPOWER p' → powerOk p'.payload false = true → ∃ t, exec (.allowQuiet p) s = .next t ∧
      Done t opPOWER p' { setFld s rPWR_STAT 0 0 0 with power := { s.power with idleSince := s.time } } [] ∧ fld t rPWR_STAT 0 0 = 0) ∧
    (let p' := withByte p 0 2
     Runs s opPOWER p' → powerOk p'.payload true = true → s.power.bindOff = none → ∃ t, exec (.bindOff p) s = .next t ∧
      OnlyCarried (startBindOff s (some (rowReq opPOWER p')) (num p'.payload 8 8)) t p' ∧ t.kct.sent = s.kct.sent ∧
      t.kct.waiting = s.kct.waiting ∧ fld t rPWR_STAT 1 1 = 1 ∧ t.power.dev = .active ∧
      t.power.bindOff = some { req := some (rowReq opPOWER p'), drainDl := num p'.payload 8 8, queued := false }) ∧
    (∀ b, s.power.bindOff = some b → b.drainDl ≠ 0 → b.drainDl < s.time → ∃ t, exec .drainDeadline s = .next t ∧
      (∀ n j, instOf t n = some j → j.step = none → j.status ≠ 0 ∧ ∀ w ∈ t.disp.window, w.2.inst = n → w.2.released = true) ∧
      (drained s b = true → IsOff s t ∧ t.pins.removeOk = true ∧ t.pins.alert = true))

/-- O35. When what R408 asks has held for QUIET_MS and no maintenance window is open, the device becomes Quiet at that time,
with every bed in Doze or deeper and no reduction slot open; else nothing happens. A wake timer that has expired, a datagram,
a trellis packet and an alarm make a Quiet device Active; after a second of Quiet a maintenance window opens in Active, and 20
ms later it ends, in Quiet where that is due. CASTON_N low for 1 ms makes a cast-on due where the device is Off, wakes it from
Quiet, and does nothing else. -/
def Obligations.QuietIsEnteredAndLeft : Prop :=
  ∀ s : State, s.tidy = true →
    let woken := { s with power := { s.power with dev := .active, idleSince := s.time, windowAt := none } }
    let window := { s with power := { s.power with dev := .active, windowAt := some s.time } }
    (quietDue s = true → s.power.windowAt = none → ∃ t, exec .quietEnter s = .next t ∧ t.power.dev = .quiet ∧ t.power.quietAt = s.time ∧
      t.arr.slots = [] ∧ t.mem = s.mem ∧ t.serve = s.serve ∧ t.disp = s.disp ∧ t.kct = s.kct ∧
      ∀ b < 13, (∀ d, moveOf s b = .entering d → d = 2 ∨ d = 3) → 2 ≤ bedState t b) ∧
    (quietDue s = false → exec .quietEnter s = .next s) ∧
    (s.power.dev = .quiet → timerDue s = true → exec .quietWakeTimer s = .next woken ∧ exec (.quietExit .timer) s = .next woken) ∧
    (timerDue s = false → exec .quietWakeTimer s = .next s) ∧
    (s.power.dev = .quiet → exec (.quietExit .datagram) s = .next woken ∧ exec (.quietExit .trellis) s = .next woken ∧
      exec (.quietExit .alarm) s = .next woken) ∧
    (s.power.dev = .quiet → s.power.quietAt + 25000000 ≤ s.time → exec (.quietExit .window) s = .next window ∧
      (s.power.windowAt = none → exec .maintenanceWindow s = .next window)) ∧
    (∀ t0, s.power.dev = .active → s.power.windowAt = some t0 → t0 + 500000 ≤ s.time → ∃ t, exec .maintenanceWindow s = .next t ∧
      t.power.windowAt = none ∧ t.mem = s.mem ∧ t.serve = s.serve ∧ t.kct = s.kct ∧
      (quietDue s = true → t.power.dev = .quiet ∧ t.power.quietAt = s.time) ∧
      (quietDue s = false → t = { s with power := { s.power with windowAt := none } })) ∧
    (∀ us, 1000 ≤ us →
      (isOff s = true → s.power.mainSwitch = true → exec (.castonN us) s = .next { s with power := { s.power with due := true } }) ∧
      (s.power.dev = .quiet → exec (.castonN us) s = .next woken) ∧ (s.power.dev = .active → exec (.castonN us) s = .next s))

/-- O36. A sensor sample leaves PWR_TELEM as read and, unless Off, OVER_TEMP and OVER_POWER set where it shows them; one at
least 100 µs after the last change leaves the throttle level one higher, to at most 12, above the limit or at a throttle
temperature, one lower below 95 % of the limit, and else the same; an earlier one leaves the level. A trip temperature takes the module Off at once,
may-be-removed and alerting, with its trip record kept. An input outside 48 V to 58 V sets INPUT_V and writes an
INPUT_VOLTAGE record. -/
def Obligations.LimitsThrottleAndTrip : Prop :=
  ∀ (s : State) (x : Sensors), s.tidy = true →
    (∃ t, exec (.throttleUpdate x) s = .next t ∧ t = { s with regs := t.regs, power := { s.power with throttleAt := t.power.throttleAt } } ∧
      SameRegs [rPWR_STAT, rTELEM, rTELEM + 4, rTELEM + 8, rTELEM + 16, rTELEM + 20] s t ∧
      fld t rTELEM 15 0 = min x.meanW 65535 ∧ fld t rTELEM 31 16 = max (fld s rTELEM 31 16) (min x.watts 65535) ∧
      fld t (rTELEM + 4) 31 16 = min x.vin 65535 ∧ fld t (rTELEM + 4) 15 0 = min x.iin 65535 ∧
      fld t (rTELEM + 8) 31 24 = min x.tDie 255 ∧ fld t (rTELEM + 8) 23 16 = min x.tSram 255 ∧
      fld t (rTELEM + 8) 15 8 = min x.tHbm 255 ∧ rd64 t (rTELEM + 16) = x.energy % 2 ^ 64 ∧
      (s.power.dev = .off → rd t rPWR_STAT = rd s rPWR_STAT ∧ t.power.throttleAt = s.power.throttleAt) ∧
      (s.time < s.power.throttleAt + 2500 → fld t rPWR_STAT 19 16 = fld s rPWR_STAT 19 16 ∧ t.power.throttleAt = s.power.throttleAt) ∧
      (let hot := 100 ≤ x.tDie ∨ 95 ≤ x.tSram ∨ 95 ≤ x.tHbm
       s.power.dev ≠ .off → fld t rPWR_STAT 1 0 = fld s rPWR_STAT 1 0 ∧
        fld t rPWR_STAT 9 9 = (if hot then 1 else fld s rPWR_STAT 9 9) ∧
        fld t rPWR_STAT 8 8 = (if fld s rPWR_LIMIT 10 0 < x.meanW then 1 else fld s rPWR_STAT 8 8)) ∧
      (s.power.dev ≠ .off → s.power.throttleAt + 2500 ≤ s.time → t.power.throttleAt = s.time ∧
        let k := fld s rPWR_STAT 19 16
        let lim := min (fld s rPWR_LIMIT 10 0 * 100) (25 * x.vin)
        let hot := 100 ≤ x.tDie ∨ 95 ≤ x.tSram ∨ 95 ≤ x.tHbm
        fld t rPWR_STAT 19 16 = (if lim < x.meanW * 100 ∨ hot then min 12 (k + 1) else if x.meanW * 10000 < 95 * lim then k - 1
                                 else k))) ∧
    ((115 ≤ x.tDie ∨ 110 ≤ x.tSram ∨ 105 ≤ x.tHbm) → s.power.dev ≠ .off → ∃ t, exec (.thermalTrip x) s = .next t ∧ IsOff s t ∧
      t.power.trip = some (faultBytes 0 s.time (stepCount s % 2 ^ 32) { code := 0x0A02, sev := 2, unit := 18 }) ∧
      t.ras.ring = s.ras.ring ∧ t.pins.removeOk = true ∧ t.pins.alert = true) ∧
    ((x.vin < 4800 ∨ 5800 < x.vin) → s.power.mainSwitch = true → ∃ t, exec (.inputVoltage x) s = .next t ∧
      fld t rPWR_STAT 10 10 = 1 ∧ t.ras.ring = put s.ras.ring s.ras.nextIdx
        (faultBytes s.ras.nextSeq s.time (stepCount s % 2 ^ 32) { code := 0x0A01, sev := 1, unit := 18 }) ∧
      t.ras.nextIdx = (s.ras.nextIdx + 1) % 256 ∧ t.mem = s.mem ∧ t.serve = s.serve ∧ t.disp = s.disp) ∧
    (4800 ≤ x.vin → x.vin ≤ 5800 → exec (.inputVoltage x) s = .next s)

/-- O37. A cutoff with the main switch closed leaves the module Off with the switch open, an INPUT_VOLTAGE record (or one of
an EN break) in the ring and the ring saved. The switch closes only after 20 ms of EN, precharge, and more than 46 V; a
cast-on is due then. RESET_N low for 10 µs, and the trusted core's watchdog, reset every domain; a pulse below 1 µs does
nothing, and one between may do either (free, log 1). A trial cast-on without READY after 60 s is reset with the other trusted
bank selected and TRIAL cleared. -/
def Obligations.CutoffsAndResets : Prop :=
  ∀ s : State, s.tidy = true →
    (∀ c, s.power.mainSwitch = true → ∃ t d, exec (.powerCutoff c) s = .next t ∧ IsOff s t ∧ t.power.mainSwitch = false ∧
      t.power.enOpen = (c == .enOpen) ∧ t.ras.ring = put s.ras.ring s.ras.nextIdx
        (faultBytes s.ras.nextSeq s.time (stepCount s % 2 ^ 32) { code := 0x0A01, sev := 1, unit := 18, data := d }) ∧
      (c ≠ .enOpen → d = 0) ∧ t.trust.ringRecord = ringInOrder t ∧ t.pins.removeOk = true ∧ t.pins.alert = true) ∧
    (∀ c, s.power.mainSwitch = false → exec (.powerCutoff c) s = .next s) ∧
    (∀ ms pre vin, exec (.mainSwitchClose ms pre vin) s = .next (if s.power.mainSwitch = false ∧ 20 ≤ ms ∧ pre = true ∧ 4600 < vin then
      { s with power := { s.power with mainSwitch := true, enOpen := false, due := true } } else s)) ∧
    (∀ us rel, 10 ≤ us → ∃ t, exec (.resetN us rel) s = .next t ∧ IsReset s t ∧ t.pins.resetLow = !rel) ∧
    (∀ rel, exec (.resetN 0 rel) s = .next s) ∧
    (∀ us rel, 1 ≤ us → us < 10 → ∃ t, exec (.resetN us rel) s = .next t ∧
      (t = { s with fresh := s.fresh + 1 } ∨ (IsReset s t ∧ t.pins.resetLow = !rel))) ∧
    (∃ t, exec .trustedCoreWatchdog s = .next t ∧ IsReset s t ∧ t.trust.trial = s.trust.trial ∧ t.trust.selTrusted = s.trust.selTrusted) ∧
    (s.trust.casting = true → s.trust.trial = true → 1500000000 ≤ s.time → ∃ t, exec .trialWatchdog s = .next t ∧ IsReset s t ∧
      t.trust.trial = false ∧ t.trust.selTrusted = 1 - s.trust.selTrusted % 2) ∧
    (s.trust.casting = false ∨ s.trust.trial = false ∨ s.time < 1500000000 → exec .trialWatchdog s = .next s)

/-- O38. From power good with the switch closed and RESET_N high, a cast-on that finds a valid trusted bank and a valid
untrusted bank, outside TRIAL, ends Active and ready: the banks found run, the measurements are theirs, the straps, the board
identity (0 where the device does not answer), the stacks and the packages are as met, and nothing is in the request, graph and model tables. Without an untrusted bank it ends ready in
recovery mode; without a trusted bank it stops, alerting, with BOOT_CODE 1. An image left in the boot area by a cold start
moves into the near tier, the boot area is cleared, and the cast-on is complete. -/
def Obligations.CastOnReachesReady : Prop :=
  ∀ (s : State) (c : CastOn), s.tidy = true →
    (s.power.due = true → s.power.mainSwitch = true → s.pins.resetLow = false → s.power.dev = .off →
      (∀ l, chooseBank s (s.trust.selTrusted % 2) 0 c.trustedOk = (none, l) → ∃ t, exec (.castOn c) s = .next t ∧
        t.trust.stopped = true ∧ t.trust.bootCode = 1 ∧ t.power.dev = .off ∧ t.trust.ready = false ∧ t.pins.removeOk = true ∧
        t.pins.alert = true ∧ t.pins.amber = true) ∧
      (∀ k ti l, s.trust.trial = false → chooseBank s (s.trust.selTrusted % 2) 0 c.trustedOk = (some (k, ti), l) →
        ∃ t, exec (.castOn c) s = .next t ∧ t.power.dev = .active ∧ t.trust.ready = true ∧ t.trust.casting = false ∧
          t.trust.runTrusted = k ∧ t.trust.trusted = ti ∧ t.trust.m0 = ti.digest ∧ mySlot t = c.slot % 8 ∧ myPos t = c.boardPos % 8 ∧
          (∀ x : W32, c.idBytes = some (toLE 4 x.toNat ++ toLE 4 (~~~x).toNat) → t.pins.boardId = x) ∧
          (c.idBytes = none → t.pins.boardId = 0) ∧
          fld t rNT_INFO 7 0 = ofBits (bitList 8 c.stackMask) ∧
          (s.fuses.variantB = false → fld t rFT_INFO 23 0 = ofBits (bitList 24 c.pkgMask)) ∧
          t.time = c.ticks ∧ t.fuses = s.fuses ∧ t.pending = s.pending ∧ t.trust.banks = s.trust.banks ∧ t.serve.reqs = [] ∧
          t.disp.insts = [] ∧ t.models = [] ∧ t.graphs = [] ∧ t.power.due = false ∧
          (∀ l', chooseBank s (s.trust.selUntr % 2) 2 c.untrustedOk = (none, l') → t.trust.recovery = true) ∧
          (∀ j ui l', chooseBank s (s.trust.selUntr % 2) 2 c.untrustedOk = (some (j, ui), l') → t.trust.recovery = false ∧
            t.trust.running = ui ∧ t.trust.selUntr = j ∧ t.trust.m1 = ui.digest ∧ t.trust.m2 = ui.digest ∧
            (bitList 8 c.stackMask ≠ [] → t.trust.inBoot = false)))) ∧
    (s.trust.inBoot = true → s.trust.casting = true → s.power.dev = .active → ∃ t, exec .imageRelocate s = .next t ∧
      t.trust.casting = false ∧ t.trust.ready = true ∧ t.power.dev = .active ∧ t.trust.running = s.trust.running ∧
      t.serve = s.serve ∧ t.disp = s.disp ∧
      (stackCount s ≠ 0 → t.trust.inBoot = false ∧ ∀ i < 117440512, peek t.mem.commons (0x9000000 + i) = 0))

/-- O39. While the endpoint is powered, each command of the management bus puts its answer on the bus: STATUS the state, the
flags, the throttle level, the boot code and the newest record's number, clearing the latched alert; TELEMETRY, IDENTITY and
LAST_FAULT the fields of their tables (without a record, what stands for it is free, log 1). CASTON acts as CASTON_N does;
BIND_OFF starts a bind-off of a module in service. Nothing else changes. -/
def Obligations.ManagementBusAnswers : Prop :=
  ∀ s : State, s.tidy = true → s.power.mainSwitch = true → s.pins.resetLow = false →
    let newest := look s.ras.ring ((s.ras.nextIdx + 255) % 256)
    let answered := fun (t : State) (d : Bytes) => t = { s with fresh := t.fresh, pins := t.pins, kct := { s.kct with sent := .smb d :: s.kct.sent } }
    (∃ t b, exec .smbStatus s = .next t ∧ (∀ x, newest = some x → b = x ∧ t.fresh = s.fresh) ∧ t.pins = { s.pins with alert := false } ∧
      answered t (toLE 1 (smbState s) ++ toLE 1 (b2n s.trust.ready + 2 * fld s rPWR_STAT 10 10 + 4 * fld s rPWR_STAT 9 9
        + 8 * b2n s.pins.alert + 16 * fld s rHP_STAT 0 0) ++ toLE 1 (fld s rPWR_STAT 19 16) ++ toLE 1 s.trust.bootCode ++ b.take 4)) ∧
    (∃ t, exec .smbTelemetry s = .next t ∧ t.fresh = s.fresh ∧ t.pins = s.pins ∧
      answered t (toLE 2 (fld s (rTELEM + 4) 31 16) ++ toLE 2 (fld s (rTELEM + 4) 15 0) ++ toLE 2 (fld s rTELEM 15 0) ++
        toLE 1 (fld s (rTELEM + 8) 31 24) ++ toLE 1 (fld s (rTELEM + 8) 23 16) ++ toLE 1 (fld s (rTELEM + 8) 15 8) ++ zeros 3)) ∧
    (∃ t, exec .smbIdentity s = .next t ∧ t.fresh = s.fresh ∧ t.pins = s.pins ∧
      answered t (toLE 8 s.fuses.serial.toNat ++ toLE 1 (b2n s.fuses.variantB) ++ toLE 1 (if s.fuses.stepA1 then 1 else 2) ++
        toLE 1 (fld s rLINK_INFO 18 16) ++ toLE 1 (fld s rLINK_INFO 21 19) ++ toLE 4 s.pins.boardId.toNat)) ∧
    (∃ t b, exec .smbLastFault s = .next t ∧ (∀ x, newest = some x → b = x ∧ t.fresh = s.fresh) ∧ t.pins = s.pins ∧ answered t b) ∧
    exec .smbCaston s = exec (.castonN 1000) s ∧
    (isOff s = true → exec .smbCaston s = .next { s with power := { s.power with due := true } }) ∧
    (s.power.dev ≠ .off → s.trust.ready = true → s.trust.recovery = false → s.power.bindOff = none → ∃ t, exec .smbBindOff s = .next t ∧
      fld t rPWR_STAT 1 1 = 1 ∧ t.power.dev = .active ∧ t.power.bindOff = some { req := none, drainDl := 0, queued := false } ∧
      SameRegs [rPWR_STAT] s t ∧ t = { s with regs := t.regs, power := t.power })

/-- O40. Each instruction of the TAP is loaded into its instruction register. IDCODE shifts out the 32 bits of the stepping's
code; BYPASS, CLAMP and HIGHZ shift out one bit, 0. While RESET_N is low, EXTEST, its pulse and train forms, and at any time
SAMPLE/PRELOAD, shift out the boundary register, whose length and captured data are free (log 1), and load it; HBM_SEL shifts
out its 3 bits and takes 3 new ones; HBM_WIR and HBM_WDR shift a register of the stack. While RESET_N is high, all of these
but IDCODE, SAMPLE/PRELOAD and BYPASS act as BYPASS; DEBUG does so where the debug fuse is closed. -/
def Obligations.TestPortInstructions : Prop :=
  ∀ s : State,
    let scan := fun (ir n v : Nat) (t : State) =>
      t = { s with fresh := t.fresh, pins := t.pins, kct := { s.kct with sent := .tap n v :: s.kct.sent } } ∧
      t.pins = { s.pins with tapIr := ir, hbmSel := t.pins.hbmSel, boundary := t.pins.boundary }
    let held := fun (t : State) => t.pins.hbmSel = s.pins.hbmSel ∧ t.pins.boundary = s.pins.boundary
    (∃ t, exec .idcode s = .next t ∧ scan 1 32 (if s.fuses.stepA1 then 0x10B1134B else 0x20B1134B) t ∧ held t) ∧
    (∃ t, exec .bypass s = .next t ∧ scan 0xFF 1 0 t ∧ held t) ∧ (∃ t, exec .clamp s = .next t ∧ scan 4 1 0 t ∧ held t) ∧
    (∃ t, exec .highz s = .next t ∧ scan 5 1 0 t ∧ held t) ∧ (∃ t n v, exec .samplePreload s = .next t ∧ scan 2 n v t ∧ v < 2 ^ n ∧
        t.pins.hbmSel = s.pins.hbmSel) ∧
    (s.pins.resetLow = true → (∃ t n v, exec .extest s = .next t ∧ scan 0 n v t ∧ v < 2 ^ n ∧
        t.pins.hbmSel = s.pins.hbmSel) ∧
      (∃ t n v, exec .extestPulse s = .next t ∧ scan 6 n v t ∧ v < 2 ^ n ∧
        t.pins.hbmSel = s.pins.hbmSel) ∧
      (∃ t n v, exec .extestTrain s = .next t ∧ scan 7 n v t ∧ v < 2 ^ n ∧
        t.pins.hbmSel = s.pins.hbmSel) ∧
      (∃ t, exec .hbmSel s = .next t ∧ scan 0x20 3 s.pins.hbmSel t ∧ t.pins.hbmSel < 8 ∧ t.pins.boundary = s.pins.boundary) ∧
      (∃ t n v, exec .hbmWir s = .next t ∧ scan 0x21 n v t ∧ v < 2 ^ n ∧ held t) ∧
      (∃ t n v, exec .hbmWdr s = .next t ∧ scan 0x22 n v t ∧ v < 2 ^ n ∧ held t)) ∧
    (s.pins.resetLow = false → ∀ x ∈ [(Instr.extest, 0), (.extestPulse, 6), (.extestTrain, 7), (.hbmSel, 0x20), (.hbmWir, 0x21),
        (.hbmWdr, 0x22)], ∃ t, exec x.1 s = .next t ∧ scan x.2 1 0 t ∧ held t) ∧
    (s.fuses.debugOpen = true → ∃ t n v, exec .debug s = .next t ∧ scan 0x40 n v t ∧ v < 2 ^ n ∧ held t) ∧
    (s.fuses.debugOpen = false → ∃ t, exec .debug s = .next t ∧ scan 0x40 1 0 t ∧ held t)

/-- O41. EVENT_SUBSCRIBE replaces the context's subscription by one with the mask and the endpoint given, SEQ 1 and an empty
queue; UNSUBSCRIBE ends it. An FW_STAGE whose conditions hold writes its bytes into the bank that does not run; an image that
passes its check becomes the one staged with STAGE_RESULT 0, one that fails leaves none staged and its result code, and is
answered BAD_PARAM; a port configuration record within its table is stored. ACTIVATE of a staged image that the running one
can hand over to copies it to the free half of the activation region and makes it the pending one; in recovery mode it starts
at once. CONFIRM and CONFIRM_TRUSTED raise the SVN counters, the latter revoking keys and clearing TRIAL, and an image that is then
no longer valid is staged no longer; ARM_TRUSTED and
DISARM_TRUSTED select the other trusted bank. ATTEST joins the reports to be signed, at most 8; none is answered yet. -/
def Obligations.EventsAndFirmwareCommands : Prop :=
  ∀ (s : State) (p : Pkt), s.tidy = true →
    (let pl := p.payload
     let b : Sub := { mask := num pl 0 4, dst := endpointOf (num pl 4 1) (sliceOf pl 8 16) (num pl 24 2), seq := 1, queue := [], lost := 0 }
     Runs s opSUB p → (num pl 4 1 = 4 ∨ num pl 4 1 = 6) → allZero pl 5 3 = true → allZero pl 26 2 = true →
      ∃ t, exec (.eventSubscribe p) s = .next t ∧ Done t opSUB p (modCtx s p.hdr.ctx fun c => { c with sub := some b }) []) ∧
    (Runs s opUNSUB p → ∃ t, exec (.eventUnsubscribe p) s = .next t ∧
      Done t opUNSUB p (modCtx s p.hdr.ctx fun c => { c with sub := none }) []) ∧
    (∀ k < 2,
     let p' := withByte p 0 k
     let bank := stageBank s k
     let m := pokes (bankMem s bank) 0 (p'.payload.drop 8)
     let u := { s with trust := { s.trust with banks := put s.trust.banks bank m, staged := s.trust.staged.filter fun x => x.1 != k } }
     let row := fun (x : Pkt) => if k = 0 then Instr.fwStageUntrusted x else Instr.fwStageTrusted x
     Runs s opSTAGE p' → stageFault s p'.payload = none →
      (∀ i, verifyImage s (if k = 1 then 0 else 1) m = .ok i → ∃ t, exec (row p) s = .next t ∧
        Done t opSTAGE p' (setFld { u with trust := { u.trust with staged := put u.trust.staged k i } } rSEC_STAT 15 12 0) []) ∧
      (∀ c, verifyImage s (if k = 1 then 0 else 1) m = .error c → ∃ t, exec (row p) s = .next t ∧
        Answered t opSTAGE p' stParam 0 [] ∧ OnlyCarried (setFld u rSEC_STAT 15 12 c) t p')) ∧
    (let p' := withByte p 0 2
     let m := pokes (bankMem s 4) 0 (p'.payload.drop 8)
     Runs s opSTAGE p' → stageFault s p'.payload = none → portRecordOk (peeks m 0 256) = true →
      ∃ t, exec (.fwStagePortConfig p) s = .next t ∧ Done t opSTAGE p'
        { s with trust := { s.trust with banks := put s.trust.banks 4 m, staged := s.trust.staged.filter fun x => x.1 != 2,
                                         portRecord := some (peeks m 0 256) } } []) ∧
    (let p' := withByte p 0 0
     let a := halfAt s (1 - s.trust.half % 2)
     Runs s opACTIVATE p' → actHead s p'.payload = true → ∀ i, look s.trust.staged 0 = some i → buildIs p'.payload i = true →
      (s.trust.recovery = false → s.trust.pending = none → stackCount s ≠ 0 → i.hoMin ≤ s.trust.running.hoOut →
        s.trust.running.hoOut ≤ i.hoMax →
        (∀ m, look s.trust.banks (stageBank s 0) = some m →
          ∃ j, verifyImage s 1 (nearAt (copyImage s (stageBank s 0) 1 a) a (bankSize 2)) = .ok j) →
        ∃ t, exec (.activate p) s = .next t ∧
          Done t opACTIVATE p'
            { charge (copyImage s (stageBank s 0) 1 a) 0 0 (bankSize 2) with trust := { s.trust with pending := some i } } []) ∧
      (s.trust.recovery = true → ∃ t, exec (.activate p) s = .next t ∧ Answered t opACTIVATE p' stOK 0 [] ∧ t.trust.running = i ∧
        t.trust.casting = true ∧ t.trust.ready = false ∧ t.trust.recovery = false ∧ t.trust.inBoot = true)) ∧
    (let p' := withByte p 0 1
     Runs s opACTIVATE p' → actHead s p'.payload = true → s.trust.recovery = false → buildIs p'.payload s.trust.running = true →
      ∃ t, exec (.confirm p) s = .next t ∧
        Done t opACTIVATE p' (dropInvalid { s with fuses := { s.fuses with untrustedSvn := max s.fuses.untrustedSvn s.trust.running.svn } }) []) ∧
    (let p' := withByte p 0 2
     Runs s opACTIVATE p' → actHead s p'.payload = true → s.trust.recovery = false → ∀ i, look s.trust.staged 1 = some i →
      s.trust.trial = false → buildIs p'.payload i = true → ∃ t, exec (.armTrusted p) s = .next t ∧ Done t opACTIVATE p'
        { s with trust := { s.trust with selTrusted := 1 - s.trust.selTrusted % 2, trial := true, armed := true } } []) ∧
    (let p' := withByte p 0 3
     Runs s opACTIVATE p' → actHead s p'.payload = true → s.trust.recovery = false → s.trust.trial = true → s.trust.armed = false →
      buildIs p'.payload s.trust.trusted = true → ∃ t, exec (.confirmTrusted p) s = .next t ∧ Done t opACTIVATE p'
        (dropInvalid { s with
          fuses := { s.fuses with trustedSvn := max s.fuses.trustedSvn s.trust.trusted.svn,
                                  revoked := Nat.lor s.fuses.revoked (s.trust.trusted.revoke % 16) },
          trust := { s.trust with trial := false } }) []) ∧
    (let p' := withByte p 0 4
     let img := if s.trust.armed then (look s.trust.staged 1).getD s.trust.trusted else s.trust.trusted
     Runs s opACTIVATE p' → actHead s p'.payload = true → s.trust.recovery = false → s.trust.trial = true →
      buildIs p'.payload img = true → ∃ t, exec (.disarmTrusted p) s = .next t ∧ Done t opACTIVATE p'
        { s with trust := { s.trust with selTrusted := 1 - s.trust.selTrusted % 2, trial := false, armed := false } } []) ∧
    (Runs s opATTEST p → s.trust.attests.length < 8 → ∃ t, exec (.attest p) s = .next t ∧
      OnlyCarried { s with trust := { s.trust with attests := s.trust.attests ++ [rowReq opATTEST p] } } t p ∧ t.kct.sent = s.kct.sent ∧
      t.kct.waiting = s.kct.waiting)

/-- O42. An idle tick of a module that has no far-tier package to take out and whose next report waits either leaves it
waiting or signs it (which tick does is free, log 1): it leaves the list, and a segmented reply is under way whose data begins
with the report of the state at that tick for its command's context and nonce and runs to 33,088 bytes, with status OK and the
command's sequence. A memory test that runs likewise either goes on or ends, and then none runs. -/
def Obligations.ReportsAreSignedInIdleTime : Prop :=
  ∀ (s : State) (p : Pkt), s.tidy = true → s.pending = [] → pinLoss s = none → (∀ x ∈ s.link.links, x.1 < 11) →
    (∀ rest, s.trust.attests = rowReq opATTEST p :: rest → s.ras.march = none → ∃ t, step s = .next t ∧
      (t.trust.attests = s.trust.attests ∨ (t.trust.attests = rest ∧ ∃ x ∈ t.kct.outX, x.dst = p.src ∧ x.via = none ∧
        x.hdr.status = stOK ∧ x.hdr.seq = p.hdr.seq ∧ x.hdr.ctx = p.hdr.ctx ∧ x.data.length = 33088 ∧
        x.data.take 512 = attestReport { s with time := s.time + 1 } p.hdr.ctx p.payload))) ∧
    (∀ r b, s.trust.attests = [] → s.ras.march = some (r, b) → ∃ t, step s = .next t ∧ t.time = s.time + 1 ∧
      (t.ras.march = some (r, b) ∨ t.ras.march = none))

/-- O43. While a hand-over is under way with an image pending, no bind-off and nothing buffered: the new image's READY makes
it the running one from the other bank and the other half, with the old one staged and nothing pending; a failure, reported or
by its time, leaves the old image running, the pending one given up, and M2 extended by the old image's measurement again.
Without a hand-over neither row does anything. -/
def Obligations.HandoverEndsOneWay : Prop :=
  ∀ s : State, s.tidy = true →
    (∀ t0 i, s.trust.handover = some t0 → s.trust.pending = some i → s.power.bindOff = none → s.kct.buffer = [] →
      (∃ t, exec .handoverReady s = .next t ∧ t.trust.running = i ∧ t.trust.pending = none ∧ t.trust.handover = none ∧
        t.trust.selUntr = 1 - s.trust.selUntr % 2 ∧ t.trust.half = 1 - s.trust.half % 2 ∧
        look t.trust.staged 0 = some s.trust.running ∧ t.trust.banks = s.trust.banks) ∧
      (∃ t, exec .handoverTimeout s = .next t ∧ t.trust.running = s.trust.running ∧ t.trust.pending = none ∧ t.trust.handover = none ∧
        t.trust.selUntr = s.trust.selUntr ∧ t.trust.half = s.trust.half ∧
        t.trust.m2 = sha256 (s.trust.m2 ++ s.trust.running.digest) ∧ t.trust.banks = s.trust.banks)) ∧
    (s.trust.handover = none → exec .handoverReady s = .next s ∧ exec .handoverTimeout s = .next s)

/-- O44. Of a stack in service: QUERY answers the spare rows left of its 2,048 banks and its soft and hard repairs; SOFT_ROW,
and in maintenance HARD_ROW, of a row of a bank with a spare left enter the repair and keep all content; COMMIT_SOFT in
maintenance makes the stack's soft repairs hard and answers their number; TEST_ACCESS in maintenance answers BITS bits, which
are free, and remembers the stack. MAINT_ENTER is answered at once where nothing is in flight, and else waits; MAINT_EXIT
leaves maintenance, and after a test access rebuilds the near tier first. RETIRE_STACK takes the stack out of service. -/
def Obligations.HbmRepairOperations : Prop :=
  ∀ (s : State) (p : Pkt), s.tidy = true →
    (let p' := withByte p 0 0
     let k := num p'.payload 1 1
     let count := fun (l : List (Nat × Nat × Nat × Nat)) => (l.filter fun x => x.1 == k).length
     Runs s opHBM p' → hbmFault s p'.payload true false true = none → 2052 ≤ pathMax s p.src → ∃ t, exec (.hbmQuery p) s = .next t ∧
      Done t opHBM p' s (((List.range 32).flatMap fun c => (List.range 64).flatMap fun b => toLE 1 (spareRows s k c b)) ++
        toLE 2 (count s.tier.soft) ++ toLE 2 (count s.tier.hard))) ∧
    (∀ hard : Bool,
     let p' := withByte p 0 (if hard then 2 else 1)
     let x := rowNamed p'.payload
     let row := fun (q : Pkt) => if hard then Instr.hardRow q else Instr.softRow q
     let entered : Tiers := if hard then { s.tier with hard := x :: s.tier.hard } else { s.tier with soft := x :: s.tier.soft }
     Runs s opHBM p' → hbmFault s p'.payload (rowFieldsOk p'.payload) hard true = none → spareRows s x.1 x.2.1 x.2.2.1 ≠ 0 →
      ∃ t, exec (row p) s = .next t ∧ Done t opHBM p' { s with tier := entered } [] ∧
        spareRows t x.1 x.2.1 x.2.2.1 + 1 = spareRows s x.1 x.2.1 x.2.2.1) ∧
    (let p' := withByte p 0 3
     let k := num p'.payload 1 1
     let mine := s.tier.soft.filter fun x => x.1 == k
     let committed : Tiers := { s.tier with hard := mine ++ s.tier.hard, soft := s.tier.soft.filter fun x => x.1 != k }
     Runs s opHBM p' → hbmFault s p'.payload true true true = none → 4 ≤ pathMax s p.src → ∃ t, exec (.commitSoft p) s = .next t ∧
      Done t opHBM p' { s with tier := committed }
        (toLE 2 mine.length ++ zeros 2)) ∧
    (let p' := withByte p 0 4
     let n := num p'.payload 8 2
     let k := num p'.payload 1 1
     Runs s opHBM p' → hbmFault s p'.payload (n ≤ 32768 && allZero p'.payload 10 2) true true = none → ceilDiv n 8 ≤ pathMax s p.src →
      ∃ t v, exec (.testAccess p) s = .next t ∧ v < 2 ^ n ∧ k ∈ t.tier.tested ∧ Answered t opHBM p' stOK 0 (toLE (ceilDiv n 8) v) ∧
        OnlyCarried { s with fresh := s.fresh + 1, tier := { s.tier with tested := t.tier.tested } } t p') ∧
    (let p' := withByte p 0 5
     Runs s opHBM p' → hbmFault s p'.payload true false false = none → ∃ t, exec (.maintEnter p) s = .next t ∧
      t.mem = s.mem ∧ t.disp = s.disp ∧ t.serve = s.serve ∧ t.tier.maint = (s.tier.maint || idleServe s) ∧
      (t.tier.maint = true → s.disp.insts = [] → t.tier.maintWant = [] ∧ Answered t opHBM p' stOK 0 []) ∧
      (t.tier.maint = false ∨ s.disp.insts ≠ [] → t.tier.maintWant = s.tier.maintWant ++ [rowReq opHBM p'] ∧
        t.kct.sent = s.kct.sent ∧ t.kct.waiting = s.kct.waiting)) ∧
    (let p' := withByte p 0 6
     Runs s opHBM p' → hbmFault s p'.payload true true false = none → ∃ t, exec (.maintExit p) s = .next t ∧
      t.tier.maint = false ∧ t.tier.tested = [] ∧ Answered t opHBM p' stOK 0 [] ∧
      (s.tier.tested = [] → OnlyCarried { s with tier := { s.tier with maint := false } } t p')) ∧
    (let p' := withByte p 0 7
     let k := num p'.payload 1 1
     Runs s opHBM p' → hbmFault s p'.payload true false true = none → ∃ t, exec (.retireStack p) s = .next t ∧
      stackIn t k = false ∧ (∀ j < 8, j ≠ k → stackIn t j = stackIn s j) ∧ Answered t opHBM p' stOK 0 [])

/-- O45. A stack that is lost leaves the mask of those in service and the capacity falls with it; the dispatch window is
empty, and with fewer than four left the module has failed. A lost package leaves its mask, and graphs in flight go on. A
recalibration that succeeds clears the channel's count of failures, one that fails counts, and the third in a row is the loss
of its device. The scrubber reads one line and goes on to the next, past the last to the first; a clean line leaves everything
else, a corrected one is due to be written back; a write-back done leaves the list. -/
def Obligations.TiersLoseAndScrub : Prop :=
  ∀ s : State, s.tidy = true →
    (∀ k, stackIn s k = true → k < 8 → s.power.dev ≠ .off → ∃ t, exec (.stackLoss k) s = .next t ∧ stackIn t k = false ∧
      (∀ j < 8, j ≠ k → stackIn t j = stackIn s j) ∧ stackCount t = ((stackList s).filter (· != k)).length ∧
      capOf t 1 = stackCount t * 2 ^ 36 ∧ t.disp.window = [] ∧ (stackCount t < 4 → t.ras.failed.isSome = true)) ∧
    (∀ k, pkgIn s k = true → k < 24 → s.power.dev ≠ .off → ∃ t, exec (.packageLoss k) s = .next t ∧ pkgIn t k = false ∧
      (∀ j < 24, j ≠ k → pkgIn t j = pkgIn s j) ∧ packages t = ((pkgList s).filter (· != k)).length ∧ t.disp = s.disp ∧
      t.serve.cur = s.serve.cur) ∧
    (∀ dev chan, stackIn s dev = true → dev < 8 → chan < 32 → s.power.dev = .active →
      let key := dev * 32 + chan
      let n := (look s.tier.recalBad key).getD 0
      exec (.channelRecal .near dev chan true) s = .next { s with tier := { s.tier with recalBad := del s.tier.recalBad key } } ∧
      (n < 2 → exec (.channelRecal .near dev chan false) s =
        .next { s with tier := { s.tier with recalBad := put s.tier.recalBad key (n + 1) } }) ∧
      (2 ≤ n → ∃ t, exec (.channelRecal .near dev chan false) s = .next t ∧ stackIn t dev = false)) ∧
    (∀ dev chan, pkgIn s dev = true → dev < 24 → chan < 4 → s.power.dev = .active →
      let key := 4096 + dev * 32 + chan
      let n := (look s.tier.recalBad key).getD 0
      exec (.channelRecal .far dev chan true) s = .next { s with tier := { s.tier with recalBad := del s.tier.recalBad key } } ∧
      (n < 2 → exec (.channelRecal .far dev chan false) s =
        .next { s with tier := { s.tier with recalBad := put s.tier.recalBad key (n + 1) } }) ∧
      (2 ≤ n → ∃ t, exec (.channelRecal .far dev chan false) s = .next t ∧ pkgIn t dev = false)) ∧
    (∀ (tr : Tier) (line : Nat),
     let sp := if tr = .near then 1 else 2
     exec (.tierWriteback tr line) s = .next { s with tier := { s.tier with
       writebacks := s.tier.writebacks.filter fun x => !(x.1 == sp && x.2 == line) } }) ∧
    (let lines := capOf s 1 / 64
     let line := s.tier.scrubNear
     let nxt := if lines ≤ line + 1 then 0 else line + 1
     let near : Tiers := { s.tier with scrubNear := nxt, rowCe := if nxt = 0 then [] else s.tier.rowCe }
     fld s rNT_CTL 0 0 = 1 → line < lines → s.power.dev = .active → pinLoss s = none → badIn s 1 (line * 64) 64 = false →
      exec (.patrolScrub .near .clean) s = .next { s with tier := near } ∧
      ∃ t, exec (.patrolScrub .near (.corrected 1 (line * 64))) s = .next t ∧ t.tier.scrubNear = nxt ∧ (1, line) ∈ t.tier.writebacks ∧
        t.mem = s.mem) ∧
    (let lines := capOf s 2 / 64
     let line := s.tier.scrubFar
     let nxt := if lines ≤ line + 1 then 0 else line + 1
     let far : Tiers := { s.tier with scrubFar := nxt, farUe := if nxt = 0 then [] else s.tier.farUe }
     fld s rFT_CTL 0 0 = 1 → line < lines → s.power.dev = .active → pinLoss s = none → badIn s 2 (line * 64) 64 = false →
      exec (.patrolScrub .far .clean) s = .next { s with tier := far } ∧
      ∃ t, exec (.patrolScrub .far (.corrected 2 (line * 64))) s = .next t ∧ t.tier.scrubFar = nxt ∧ (2, line) ∈ t.tier.writebacks ∧
        t.mem = s.mem)

/-- O46. Of a MARCH_RUN while none runs: MARCH within its rules runs, to be answered at its end with a reply of 24 bytes that
says 0 where no place fails and 1 or 2 where one does, how many of the places given lie in its range, and the lowest; a test
that finds none changes nothing else, but for the slice range that a destructive test leaves cleared, with its pending
write-backs. MARCH of an engine absent from the unit mask is answered UNSUPPORTED_UNIT. SWATCH of a spare or a unit under test
makes it a spare, or retired. RETIRE of an array or attention unit in service starts its retirement with the spare chosen,
which is then under test; RETIRE of a bank starts the copy into a spare bank, or without one the module has failed; each is
answered OK. FULL_NEXT and BG_PERIOD are kept. While one runs, another is refused with REFUSED_CAPACITY. -/
def Obligations.MarchRunOperations : Prop :=
  ∀ (s : State) (p : Pkt), s.tidy = true →
    (∀ fails : List Nat,
     let p' := withByte p 0 0
     let pl := p'.payload
     let k := mKIND pl
     let n := mINST pl
     let len := if num pl 12 4 = 0 then marchBytes k - mOFFSET pl else num pl 12 4
     let hits := fails.filter fun o => mOFFSET pl ≤ o && o < mOFFSET pl + len
     Runs s opMARCH p' →
      (s.ras.march = none → allZero pl 6 2 = true → marchOk s pl = true → (k = 3 → marchAbsent s n = false) →
        ∃ t b, exec (.marchRunMarch p fails) s = .next t ∧ t.ras.march = some (rowReq opMARCH p', b) ∧ b.length = 24 ∧
          num b 4 4 = hits.length % 2 ^ 32 ∧ num b 16 8 = s.time % 2 ^ 64 ∧ (hits ≠ [] → num b 0 1 = 1 ∨ num b 0 1 = 2) ∧
          (hits ≠ [] → num b 8 4 ∈ hits ∧ ∀ o ∈ hits, num b 8 4 ≤ o) ∧
          (hits = [] → num b 0 1 = 0 ∧ num b 12 4 = 0 ∧ t.kct.sent = s.kct.sent ∧ t.kct.waiting = s.kct.waiting ∧
            OnlyCarried { s with fresh := t.fresh, ras := { s.ras with march := t.ras.march, sliceWb := t.ras.sliceWb }, mem := t.mem } t p' ∧
            (mMODE pl ≠ 0 ∨ k ≠ 0 → t.mem = s.mem ∧ t.ras.sliceWb = s.ras.sliceWb)) ∧
          (mMODE pl = 0 → k = 0 → ∀ x, peek t.mem.slices x =
            if sliceBase n + mOFFSET pl ≤ x ∧ x < sliceBase n + mOFFSET pl + len then 0 else peek s.mem.slices x)) ∧
      (s.ras.march = none → allZero pl 6 2 = true → k = 3 → marchAbsent s n = true →
        ∃ t, exec (.marchRunMarch p fails) s = .next t ∧ Answered t opMARCH p' stUnit 0 [] ∧ OnlyCarried s t p') ∧
      (s.ras.march ≠ none → ∃ t, exec (.marchRunMarch p fails) s = .next t ∧ Answered t opMARCH p' stCapacity 4 [] ∧
        OnlyCarried s t p')) ∧
    (∀ (pass : Bool) (k : Nat),
     let p' := withByte p 0 1
     let n := mINST p'.payload
     Runs s opMARCH p' → s.ras.march = none → allZero p'.payload 6 2 = true → k < 2 → mKIND p'.payload = 2 * k → maySwatch s k n = true →
      ∃ t, exec (.marchRunSwatch p pass) s = .next t ∧ unitState t k n = (if pass then 0 else 3) ∧
        t.ras.march = some (rowReq opMARCH p', toLE 1 (if pass then 0 else 2) ++ zeros 7) ∧
        ((k, n) ∈ t.ras.retired ↔ pass = false ∨ (k, n) ∈ s.ras.retired) ∧
        (∀ j < 2, ∀ a < unitCount j, (j, a) ≠ (k, n) → unitState t j a = unitState s j a) ∧
        (∀ x, peek t.mem.slices x = if k = 0 ∧ sliceBase n ≤ x ∧ x < sliceBase (n + 1) then 0 else peek s.mem.slices x)) ∧
    (∀ k < 2,
     let p' := withByte p 0 2
     let n := mINST p'.payload
     Runs s opMARCH p' → s.ras.march = none → allZero p'.payload 6 2 = true → mKIND p'.payload = 2 * k → n < unitCount k →
      unitState s k n = 1 → ∃ t, exec (.marchRunRetire p) s = .next t ∧ Answered t opMARCH p' stOK 0 [] ∧ unitState t k n = 2 ∧
        (∃ r ∈ t.ras.retires, r.kind = k ∧ r.phys = n ∧ r.logical = logicalUnit s k n ∧ r.definite = true ∧ r.spare = chooseSpare s k) ∧
        (∀ a, chooseSpare s k = some a → unitState t k a = 4)) ∧
    (let p' := withByte p 0 2
     let n := mINST p'.payload
     Runs s opMARCH p' → s.ras.march = none → allZero p'.payload 6 2 = true → mKIND p'.payload = 1 → n < 132 →
      (∀ x ∈ s.ras.bankCopy, bankOf s x.1 ≠ n) → ∀ b, bankServed s n = some b →
      ∃ t, exec (.marchRunRetire p) s = .next t ∧ Answered t opMARCH p' stOK 0 [] ∧ t.mem = s.mem ∧
        (∀ q rest, spareBanks s = q :: rest → ∃ c, t.ras.bankCopy = s.ras.bankCopy ++ [(b, q, c)]) ∧
        (spareBanks s = [] → t.ras.failed.isSome = true)) ∧
    (let p' := withByte p 0 3
     Runs s opMARCH p' → s.ras.march = none → allZero p'.payload 6 2 = true → mMODE p'.payload < 2 →
      ∃ t, exec (.marchRunFullNext p) s = .next t ∧
        Done t opMARCH p' { s with ras := { s.ras with fullNext := mMODE p'.payload == 1 } } []) ∧
    (let p' := withByte p 0 5
     let h := mOFFSET p'.payload
     Runs s opMARCH p' → s.ras.march = none → allZero p'.payload 6 2 = true → 1 ≤ h → h ≤ 255 →
      ∃ t, exec (.marchRunBgPeriod p) s = .next t ∧ Done t opMARCH p' { s with ras := { s.ras with bgHours := h } } [])

/-- O47. A swatch run on a spare or a unit under test leaves it a spare, or retired. A slice region that is due and whose
repair succeeds takes one of the slice's spares; after an uncorrectable read its bytes are those of the shadow image. The end
of a bank copy switches the bank map. The end of a repair copy without an error leaves the spare's slice equal to the image,
and the retirement due at the next boundary. The background test goes on to the next region, past the last to the first with
one cycle more, and changes nothing else where the region is good. A collision on a commons line is counted in both halves of
COMMONS_STAT; of two writes side B's stands last, unless RETRY_DIS drops it; with RETRY_DIS a read that collides is noted, and
what its side's next read of the line meets is undefined. -/
def Obligations.RepairsTakeEffect : Prop :=
  ∀ s : State, s.tidy = true → s.power.dev ≠ .off →
    (∀ (k n : Nat) (pass : Bool), maySwatch s k n = true → taskFree s k n = true → ∃ t, exec (.swatchRun k n pass) s = .next t ∧
      unitState t k n = (if pass then 0 else 3) ∧ (pass = false → (k, n) ∈ t.ras.retired) ∧
      (∀ j < 2, ∀ a < unitCount j, (j, a) ≠ (k, n) → unitState t j a = unitState s j a) ∧
      (∀ x, peek t.mem.slices x = if k = 0 ∧ sliceBase n ≤ x ∧ x < sliceBase (n + 1) then 0 else peek s.mem.slices x)) ∧
    (∀ (a region : Nat) (ue : Bool),
     let base := sliceBase a + region * 4096
     let lg := logicalOf s a
     let used := (look s.ras.sliceRows a).getD 0
     a < 104 → region < 8192 → sliceSpares s a ≠ 0 →
      (ue = true → ∃ x ∈ s.mem.bad, x.1 = 3 ∧ base ≤ x.2 * 16 ∧ x.2 * 16 < base + 4096) →
      (ue = false → 16 ≤ (look s.ras.regionCe (8192 * a + region)).getD 0) →
      ∃ t, exec (.sliceRepair a region ue true) s = .next t ∧ look t.ras.sliceRows a = some (used + 1) ∧
        sliceSpares t a + 1 = sliceSpares s a ∧ (∀ j < 104, unitState t 0 j = unitState s 0 j) ∧
        (ue = false → t.mem = s.mem) ∧
        (ue = true → lg < 96 → fld s (rSHADOW_VALID (lg / 32)) (lg % 32) (lg % 32) = 1 → imageBad s lg false .clean = [] →
          ∀ i < 4096, peek t.mem.slices (base + i) = peek s.mem.near (imageBase s lg + region * 4096 + i))) ∧
    (∀ b q c, (s.ras.bankCopy.find? fun x => x.1 == b) = some (b, q, c) → ∃ t, exec (.bankCopyComplete b) s = .next t ∧
      bankOf t b = q ∧ (∀ d, d ≠ b → bankOf t d = bankOf s d) ∧ t.ras.bankCopy = s.ras.bankCopy.filter (fun x => x.1 != b) ∧
      bankOf s b ∈ t.ras.banksBad ∧ t.mem = s.mem) ∧
    (∀ (lg sp : Nat) (r : Retire), (s.ras.retires.find? fun x => x.kind == 0 && x.logical == lg && !x.copied) = some r →
      r.spare = some sp → lg < 96 → bedPowered s (sp / 8) = true → fld s (rSHADOW_VALID (lg / 32)) (lg % 32) (lg % 32) = 1 →
      imageBad s lg true .clean = [] → ∃ t, exec (.repairCopyComplete lg .clean) s = .next t ∧
        (∀ i < 2 ^ 25, peek t.mem.slices (sliceBase sp + i) = peek s.mem.near (imageBase s lg + i)) ∧
        (∀ x, x < sliceBase sp ∨ sliceBase (sp + 1) ≤ x → peek t.mem.slices x = peek s.mem.slices x) ∧
        t.mem.near = s.mem.near ∧ t.regs = s.regs ∧
        t.ras.retires = s.ras.retires.map fun x => if x.kind == 0 && x.logical == lg then { x with copied := true } else x) ∧
    (∀ fails repaired : Bool,
     let due := s.power.windowAt.isSome || s.ras.bgAt * bgRegions + s.ras.bgHours * 90000000000 ≤ s.time * bgRegions
     s.ras.bgRegion < bgRegions → s.trust.ready = true → s.power.dev = .active → due = true →
      ∃ t, exec (.bgTestRegion fails repaired) s = .next t ∧ t.ras.bgAt = s.time ∧
        t.ras.bgRegion = (s.ras.bgRegion + 1) % bgRegions ∧ t.ras.bgCycles = (if s.ras.bgRegion + 1 = bgRegions then
          (s.ras.bgCycles + 1) % 2 ^ 32 else s.ras.bgCycles) ∧
        (fails = false ∨ bgSkips s s.ras.bgRegion = true → t = { s with ras := { s.ras with
          bgAt := t.ras.bgAt, bgRegion := t.ras.bgRegion, bgCycles := t.ras.bgCycles, bgLast := t.ras.bgLast,
          regionCe := t.ras.regionCe } })) ∧
    (∀ (line : Nat) (a b : Bytes), line < 2 ^ 22 →
     let counted := bump (bump s rCOMMONS_STAT 31 16 1) rCOMMONS_STAT 15 0 1
     let wrote := fun (u : State) (d : Bytes) => st u 0 (line * 64) (fixed 64 d)
     fld counted rCOMMONS_STAT 31 16 = min (fld s rCOMMONS_STAT 31 16 + 1) 65535 ∧
      fld counted rCOMMONS_STAT 15 0 = min (fld s rCOMMONS_STAT 15 0 + 1) 65535 ∧
      exec (.commonsRetry line .aWriteBRead a b) s = .next (wrote (unretried counted true line) a) ∧
      (s.serve.retryDis = false → ∃ t, exec (.commonsRetry line .aReadBWrite a b) s = .next t ∧
        ld t 0 (line * 64) 64 = fixed 64 b ∧ ∀ x, x < line * 64 ∨ line * 64 + 64 ≤ x → peek t.mem.commons x = peek s.mem.commons x) ∧
      (s.serve.retryDis = true → exec (.commonsRetry line .aReadBWrite a b) s = .next (unretried counted false line)) ∧
      (s.serve.retryDis = false → unretried counted true line = counted) ∧
      (∀ side, s.serve.retryDis = true → unretried counted side line = { counted with
        fresh := s.fresh + 64, ras := { s.ras with collided := s.ras.collided ++ [(side, line, s.fresh)] } }) ∧
      ∃ t, exec (.commonsRetry line .aWriteBWrite a b) s = .next t ∧
        ld t 0 (line * 64) 64 = fixed 64 (if s.serve.retryDis then a else b) ∧
        ∀ x, x < line * 64 ∨ line * 64 + 64 ≤ x → peek t.mem.commons x = peek s.mem.commons x)

/-- O48. A configuration scan makes CFG_CUR the check value of the covered set and MISMATCH its difference from CFG_REF; one
met outside a hold and not reported before is counted and recorded with both values. A hold that has run out is gone. The ring
is saved to flash at once for a record of SEVERITY 2, for others at most every 60 s. A mailbox request that passes its checks
is done: a block granted, a flash record, a remap, which puts the spare under test, has the unit retire and waits with the map
unchanged, or of a commons bank begins its copy (a record's CAUSE is free, log 1); else it is recorded. A remap that is ready maps the spare to the logical unit
and puts the old unit under test (remapOne, which item 6 of a boundary makes for each). An access the protection unit blocks
is not performed, counted in SEC_FAULT and recorded with its space and address; another changes nothing here. -/
def Obligations.ScansSavesAndMailbox : Prop :=
  ∀ s : State, s.tidy = true →
    let noted := fun (t : State) (f : FaultRec) =>
      t.ras.ring = put s.ras.ring s.ras.nextIdx (faultBytes s.ras.nextSeq s.time (stepCount s % 2 ^ 32) f)
    let refused := fun (t : State) => noted t { code := 0x0902, sev := 1, unit := 13 } ∧ t.mem = s.mem ∧ t.blocks = s.blocks ∧
      t.trust = s.trust
    (s.ras.refSet = true → s.ras.scanAt + 25000 ≤ s.time →
      let v := checkValue s % 2 ^ 32
      let ref := rd s rCFG_REF
      ∃ t, exec .cfgScan s = .next t ∧ rd t rCFG_CUR = v ∧ rd t rCFG_REF = ref ∧ fld t rCFG_STAT 0 0 = (if v = ref then 0 else 1) ∧
        t.mem = s.mem ∧ (v = ref ∨ holding s = true ∨ s.ras.cfgReported = some (BitVec.ofNat 32 v) →
          t = { s with regs := t.regs, ras := { s.ras with scanAt := s.time } } ∧
          SameRegs [rCFG_CUR, rCFG_STAT] s t ∧ fld t rCFG_STAT 31 16 = fld s rCFG_STAT 31 16) ∧
        (v ≠ ref → holding s = false → s.ras.cfgReported ≠ some (BitVec.ofNat 32 v) →
          fld t rCFG_STAT 31 16 = min (fld s rCFG_STAT 31 16 + 1) 65535 ∧ t.ras.cfgReported = some (BitVec.ofNat 32 v) ∧
          noted t { code := 0x0701, sev := 1, unit := 13, data := ref + v * 2 ^ 32 })) ∧
    (∀ u, s.ras.holdUntil = some u →
      (u ≤ s.time → exec .cfgHoldExpire s = .next { s with ras := { s.ras with holdUntil := none } } ∧
        holding { s with ras := { s.ras with holdUntil := none } } = false) ∧
      (s.time < u → exec .cfgHoldExpire s = .next s)) ∧
    (∀ d, s.ras.dirty = some d →
      (d = 2 ∨ s.ras.savedAt + 1500000000 ≤ s.time → ∃ t, exec .faultRingSave s = .next t ∧ t.trust.ringRecord = ringInOrder s ∧
        t.ras.dirty = none ∧ t = { s with trust := { s.trust with ringRecord := t.trust.ringRecord },
                                          ras := { s.ras with savedAt := s.time, dirty := none } }) ∧
      (d ≠ 2 → s.time < s.ras.savedAt + 1500000000 → exec .faultRingSave s = .next s)) ∧
    (∀ lg sp,
     let old := physOf s lg
     lg < 96 → sp < 104 → old < 104 → old ≠ sp →
      (unitState s 0 sp = 0 → (0, sp) ∉ s.ras.swatchBad → fld s (rARRAY_MAP lg) 7 7 = 1 →
        (∀ r ∈ s.ras.retires, ¬ (r.kind = 0 ∧ r.logical = lg)) → ∃ t c, exec (.mailboxRequest (.remapArray lg sp)) s = .next t ∧
        t.ras.retires = s.ras.retires ++ [{ kind := 0, logical := lg, phys := old, spare := some sp, copied := false, definite := false,
                                            cause := c }] ∧
        unitState t 0 sp = 4 ∧ unitState t 0 old = 2 ∧ (∀ k < 96, rd t (rARRAY_MAP k) = rd s (rARRAY_MAP k)) ∧ t.mem = s.mem) ∧
      (unitState s 0 sp ≠ 0 → ∃ t, exec (.mailboxRequest (.remapArray lg sp)) s = .next t ∧ refused t)) ∧
    (∀ lg sp,
     let old := fld s (rATTN_MAP lg) 4 0
     lg < 16 → sp < 18 → old < 18 → old ≠ sp → unitState s 1 sp = 0 → (1, sp) ∉ s.ras.swatchBad → fld s (rATTN_MAP lg) 5 5 = 1 →
      (∀ r ∈ s.ras.retires, ¬ (r.kind = 1 ∧ r.logical = lg)) → ∃ t c, exec (.mailboxRequest (.remapUnit lg sp)) s = .next t ∧
        t.ras.retires = s.ras.retires ++ [{ kind := 1, logical := lg, phys := old, spare := some sp, copied := true, definite := false,
                                            cause := c }] ∧
        unitState t 1 sp = 4 ∧ unitState t 1 old = 2 ∧ (∀ k < 16, rd t (rATTN_MAP k) = rd s (rATTN_MAP k)) ∧ t.mem = s.mem) ∧
    (∀ b q, (b < 128 → q ∈ spareBanks s → (∀ x ∈ s.ras.bankCopy, x.1 ≠ b) → ∃ t c,
        exec (.mailboxRequest (.remapBank b q)) s = .next t ∧ t.ras.bankCopy = s.ras.bankCopy ++ [(b, q, c)] ∧
          t.ras.bankMap = s.ras.bankMap ∧ t.mem = s.mem) ∧
      (q ∉ spareBanks s → ∃ t, exec (.mailboxRequest (.remapBank b q)) s = .next t ∧ refused t)) ∧
    (∀ (r : Retire) (sp : Nat), r.spare = some sp → r.phys ≠ sp → r.definite = false →
      (r.kind = 0 → r.logical < 96 → sp < 104 → r.phys < 104 →
        let t := remapOne s r
        fld t (rARRAY_MAP r.logical) 7 7 = 1 ∧ physOf t r.logical = sp ∧ unitState t 0 sp = 1 ∧ logicalOf t sp = r.logical ∧
          unitState t 0 r.phys = 4 ∧ logicalOf t r.phys = 127) ∧
      (r.kind = 1 → r.logical < 16 → sp < 18 → r.phys < 18 →
        let t := remapOne s r
        rd t (rATTN_MAP r.logical) = 32 + sp ∧ unitState t 1 sp = 1 ∧ logicalUnit t 1 sp = r.logical ∧ unitState t 1 r.phys = 4 ∧
          logicalUnit t 1 r.phys = 31)) ∧
    (∀ sp b c, sp < 3 → freeRun s sp b 1 = true →
      ((ctxOf s c).isSome = true → ∃ t, exec (.mailboxRequest (.grant sp b c)) s = .next t ∧ owns t c sp b = true ∧ t.regs = s.regs ∧
        ∀ x, b * 65536 ≤ x → x < (b + 1) * 65536 → peek (memOf t.mem sp) x =
          if (blockAt s sp b).owner = none ∨ (blockAt s sp b).owner = some c then peek (memOf s.mem sp) x else 0) ∧
      (ctxOf s c = none → ∃ t, exec (.mailboxRequest (.grant sp b c)) s = .next t ∧ refused t)) ∧
    (∀ b : Bytes,
      (portRecordOk b = true → exec (.mailboxRequest (.flashRecord 1 b)) s =
        .next { s with trust := { s.trust with portRecord := some b } }) ∧
      (portRecordOk b = false → ∃ t, exec (.mailboxRequest (.flashRecord 1 b)) s = .next t ∧ refused t) ∧
      (∀ k, k < 6 → k ≠ 1 → k ≠ 2 → exec (.mailboxRequest (.flashRecord k b)) s =
        .next { s with trust := { s.trust with records := put s.trust.records k b } })) ∧
    (∀ a : Access,
      (isProtected s a = true → ∃ t, exec (.protectedAccess a) s = .next t ∧ t.mem = s.mem ∧
        fld t rSEC_FAULT 15 0 = min (fld s rSEC_FAULT 15 0 + 1) 65535 ∧
        noted t { code := 0x0901, sev := 2, unit := 13, addr := a.addr, space := min a.space 255 }) ∧
      (isProtected s a = false → exec (.protectedAccess a) s = .next s))

/-- O49. A later segment of a WRITE_MEM under way is stored at its place as it arrives; the last one missing completes the
command, answered OK, and the transfer is gone; a segment of a command that is staged lies at its place in the staging blocks.
An acknowledgement moves an outbound transfer's window and ends one it acknowledges whole. 20 µs after the last segment
without an acknowledgement, one is sent with the base and the bitmap of what has come. 200 µs without progress everything
unacknowledged is counted as sent again, and after 8 times the transfer is abandoned and counted. 100 ms without a segment
ends an inbound transfer: BAD_LENGTH, DETAIL 1, its staging blocks free but for those that a registered delta graft names. 50
µs without ECE a rate rises by 2 % of line rate, to all of it. -/
def Obligations.SegmentedTransfersRun : Prop :=
  ∀ s : State, s.tidy = true →
    (∀ (p : Pkt) (x : InXfer),
     let i := p.hdr.segment
     let n := p.payload.length
     let q := x.req.pkt
     let sp := num q.payload 0 1
     let a := num q.payload 8 8 + i * x.size - 16
     let got := if x.got.contains i then x.got else i :: x.got
     s.trust.handover = none → verdict s p.hdr.opcode (hostReq p) = .dropQuiet → p.frame = .good → p.hdr.ack = false → p.hdr.seg = true →
      i ≠ 0 → findIn s p.hdr.ctx p.hdr.seq = some x → q.hdr.opcode = p.hdr.opcode → p.hdr.segLast = x.last → i ≤ x.last →
      (i < x.last → n = x.size) → 0 < n → n ≤ x.size →
      (p.hdr.opcode = opWRITE → x.staging = none → writeFault s q.hdr.ctx (toLE 8 sp ++ toLE 8 a) n = none →
        ∃ t, exec (.transferSegment p) s = .next t ∧ ld t sp a n = p.payload ∧
          (∀ y, y < a ∨ a + n ≤ y → peek (memOf t.mem sp) y = peek (memOf s.mem sp) y) ∧
          (got.length ≠ x.last + 1 → ∃ y ∈ t.kct.inX, y.req = x.req ∧ y.got = got ∧ y.arrived = s.time) ∧
          (got.length = x.last + 1 → findIn t p.hdr.ctx p.hdr.seq = none ∧
            (x.req.via = none → Answered t opWRITE q stOK 0 []))) ∧
      (∀ b k, p.hdr.opcode ≠ opWRITE → x.staging = some (b, k) → got.length ≠ x.last + 1 → ∃ t, exec (.transferSegment p) s = .next t ∧
        ld t 1 (b * 65536 + i * x.size) n = p.payload ∧ ∃ y ∈ t.kct.inX, y.req = x.req ∧ y.got = got ∧ y.arrived = s.time)) ∧
    (∀ (p : Pkt) (x : OutXfer),
     let b := num p.payload 0 2
     s.trust.handover = none → verdict s p.hdr.opcode (hostReq p) = .dropQuiet → p.frame = .good → p.hdr.ack = true →
      findOut s p.hdr.ctx p.hdr.seq = some x → x.hdr.opcode = p.hdr.opcode → p.payload.length = 264 → x.base ≤ b → b ≤ x.next →
      outLast x < 65535 →
      (outLast x < b → ∃ t, exec (.ackReceive p) s = .next t ∧ findOut t p.hdr.ctx p.hdr.seq = none ∧ t.kct.sent = s.kct.sent) ∧
      (b ≤ outLast x → (x.base < b ∨ ∀ i, (look x.tries i).getD 0 < 8) → ∃ t, exec (.ackReceive p) s = .next t ∧
        ∃ y ∈ t.kct.outX, y.hdr = x.hdr ∧ y.data = x.data ∧ y.base = b ∧ x.next ≤ y.next ∧
          y.moved = (if x.base < b then s.time else x.moved))) ∧
    (∀ (c : Nat) (q : W32) (x : InXfer), findIn s c q = some x →
      (x.acked = false → x.arrived + 500 ≤ s.time → ∃ t, exec (.ackTimer c q) s = .next t ∧ (∃ y ∈ t.kct.inX, y.req = x.req ∧ y.acked = true) ∧
        (x.req.via = none → portUp s = true → hasAddr s = true → ∃ o : OutPkt, lastOut t = some (.kct o) ∧ o.dst = x.req.pkt.src ∧
          o.hdr.ack = true ∧ o.hdr.reply = false ∧ o.hdr.ctx = x.req.pkt.hdr.ctx ∧ o.hdr.seq = x.req.pkt.hdr.seq ∧
          o.payload = ackPayload x.got x.last)) ∧
      (x.acked = true ∨ s.time < x.arrived + 500 → exec (.ackTimer c q) s = .next s) ∧
      (x.arrived + 2500000 ≤ s.time → ∃ t, exec (.transferTimeout c q) s = .next t ∧ findIn t c q = none ∧
        (∀ b k, x.staging = some (b, k) → ∀ i < k, (blockAt t 1 (b + i)).granted =
          (deltaNames s 1 (b + i) && (blockAt s 1 (b + i)).granted)) ∧
        (x.req.via = none → portUp s = true → hasAddr s = true → Answered t x.req.pkt.hdr.opcode x.req.pkt stLength 1 [])) ∧
      (s.time < x.arrived + 2500000 → exec (.transferTimeout c q) s = .next s)) ∧
    (∀ (c : Nat) (q : W32) (x : OutXfer), findOut s c q = some x → x.moved + 5000 ≤ s.time →
     let due := fun (i : Nat) => x.base ≤ i ∧ i < x.next ∧ i ∉ x.got
     ((∀ i, due i → (look x.tries i).getD 0 < 8) → ∃ t, exec (.segmentRetransmitTimer c q) s = .next t ∧ ∃ y ∈ t.kct.outX,
        y.hdr = x.hdr ∧ y.data = x.data ∧ y.base = x.base ∧ y.next = x.next ∧ y.moved = s.time ∧
        ∀ i, look y.tries i = if x.base ≤ i ∧ i < x.next ∧ i ∉ x.got then some ((look x.tries i).getD 0 + 1) else look x.tries i) ∧
     ((∃ i, due i ∧ 8 ≤ (look x.tries i).getD 0) → ∃ t, exec (.segmentRetransmitTimer c q) s = .next t ∧ findOut t c q = none ∧
        rd64 t (rHP_PERF + 24) = (rd64 s (rHP_PERF + 24) + 1) % 2 ^ 64)) ∧
    (∀ (d : Endpoint) (x : Rate), (s.kct.rates.find? fun y => y.dst == d) = some x → x.changed + 1250 ≤ s.time →
      ∃ t, exec (.ecnRateRaise d) s = .next t ∧ t = { s with kct := { s.kct with rates := t.kct.rates } } ∧
        (∀ e, e ≠ d → rateTo t e = rateTo s e) ∧
        (let n := x.num + 2 * 2 ^ x.exp
         (n < 100 * 2 ^ x.exp → rateTo t d = { x with num := n, changed := s.time }) ∧
         (100 * 2 ^ x.exp ≤ n → (rateTo t d).num = 100 ∧ (rateTo t d).exp = 0)))

/-- O50. A port that trains its four lanes, with no write of its registers held back, shows LINK_UP, all four lanes and
whether it used auto-negotiation, asks for addresses in DHCP mode, and what waited goes; with fewer lanes it shows them and
stays down. One that loses its link is down from that time; a second later that is recorded once. A DHCP answer gives the
address and router and sets ADDR; in static mode only the router of IPv6 is taken. The port sends an LLDP frame every 30 s,
answers neighbour discovery and echo for its own addresses and no others, with its VLAN_ID and in IP with ECT(0), stops at a
pause of its priority, and sends what waited when the pause ends. -/
def Obligations.HostPortLinkAndAnswers : Prop :=
  ∀ s : State, s.tidy = true →
    (∀ an : Bool, s.power.dev ≠ .off → portUp s = false → an = decide (hpFld s rHP_CFG2 31 30 < 2) →
      (∀ lanes, lanes ≠ 15 → exec (.hostPortLinkUp ⟨an, lanes⟩) s = .next (setFld s rHP_STAT 7 4 lanes)) ∧
      (s.kct.held = [] → ∃ t, exec (.hostPortLinkUp ⟨an, 15⟩) s = .next t ∧ fld t rHP_STAT 7 4 = 15 ∧ fld t rHP_STAT 2 0 = 3 + 4 * b2n an ∧
        fld t rHP_STAT 3 3 = fld s rHP_STAT 3 3 ∧ t.ras.downSince = none ∧ t.mem = s.mem ∧ t.serve = s.serve ∧ t.disp = s.disp ∧
        (fld s rHP_CFG2 15 15 = 0 → Out.dhcp 4 s.fuses.serial ∈ t.kct.sent ∧ Out.dhcp 6 s.fuses.serial ∈ t.kct.sent) ∧
        (paused s = false → t.kct.waiting = [] ∧ (hasAddr s = true → ∀ o ∈ s.kct.waiting, o ∈ t.kct.sent)))) ∧
    (portUp s = true → ∃ t, exec .hostPortLinkLoss s = .next t ∧ fld t rHP_STAT 2 0 = 0 ∧ fld t rHP_STAT 7 4 = 0 ∧ t.kct.waiting = [] ∧
      t.ras.downSince = some s.time ∧ t.ras.downSeen = false ∧ t.mem = s.mem ∧ t.serve = s.serve ∧ t.disp = s.disp) ∧
    (∀ u, s.ras.downSince = some u → s.power.dev ≠ .off → portUp s = false → s.ras.downSeen = false →
      (u + 25000000 ≤ s.time → ∃ t, exec .hostPortDown s = .next t ∧ t.ras.downSeen = true ∧ t.mem = s.mem ∧
        t.ras.ring = put s.ras.ring s.ras.nextIdx
          (faultBytes s.ras.nextSeq s.time (stepCount s % 2 ^ 32) { code := 0x0B01, sev := 1, unit := 17 })) ∧
      (s.time < u + 25000000 → exec .hostPortDown s = .next s)) ∧
    (∀ a router, portUp s = true → hpFld s rHP_CFG2 15 15 = 1 → a ≠ 0 → exec (.dhcpReply 4 a router) s = .next s ∧
      exec (.dhcpReply 6 a router) s = .next { s with kct := { s.kct with router6 := router % 2 ^ 128 } }) ∧
    (∀ fam a router, portUp s = true → hpFld s rHP_CFG2 15 15 = 0 → a ≠ 0 →
      s.kct.held = [] ∨ (paused s = true ∧ s.kct.waiting ≠ []) →
      (fam = 4 → ∃ t, exec (.dhcpReply fam a router) s = .next t ∧ t.kct.addr4 = some (a % 2 ^ 32) ∧ t.kct.router4 = router % 2 ^ 32 ∧
        fld t rHP_STAT 3 3 = 1 ∧ t.kct.addr6 = s.kct.addr6 ∧ t.mem = s.mem) ∧
      (fam = 6 → ∃ t, exec (.dhcpReply fam a router) s = .next t ∧ t.kct.addr6 = some (a % 2 ^ 128) ∧
        t.kct.router6 = router % 2 ^ 128 ∧ fld t rHP_STAT 3 3 = 1 ∧ t.kct.addr4 = s.kct.addr4 ∧ t.mem = s.mem)) ∧
    (portUp s = true → s.kct.lldpAt + 750000000 ≤ s.time → ∃ t, exec .lldpTransmit s = .next t ∧ t.kct.lldpAt = s.time ∧
      t.kct.sent = .lldp s.fuses.serial (Config.portId s.fuses.serial) (Config.systemName s.fuses.serial) (mgmtAddr s) s.pins.boardId
        (mySlot s) :: s.kct.sent ∧
      t = { s with kct := { s.kct with lldpAt := t.kct.lldpAt, sent := t.kct.sent } }) ∧
    (s.time < s.kct.lldpAt + 750000000 → exec .lldpTransmit s = .next s) ∧
    (∀ (fam target : Nat) (asker : Endpoint) (d : Bytes),
      (isMine s fam target = true →
        (∃ t, exec (.arpNeighborDiscovery fam target asker) s = .next t ∧ lastOut t = some (.neighbor fam target asker) ∧
          (paused s = false → t.kct.tags = (hpFld s rHP_CFG 15 4, 0) :: s.kct.tags) ∧
          t = { s with kct := { s.kct with waiting := t.kct.waiting, sent := t.kct.sent, tags := t.kct.tags } }) ∧
        (∃ t, exec (.icmpEcho fam target asker d) s = .next t ∧ lastOut t = some (.echo fam target asker d) ∧
          (paused s = false → t.kct.tags = (hpFld s rHP_CFG 15 4, 2) :: s.kct.tags) ∧
          t = { s with kct := { s.kct with waiting := t.kct.waiting, sent := t.kct.sent, tags := t.kct.tags } })) ∧
      (isMine s fam target = false → exec (.arpNeighborDiscovery fam target asker) s = .next s ∧
        exec (.icmpEcho fam target asker d) s = .next s)) ∧
    (∀ prio, portUp s = true → hpFld s rHP_CFG 3 3 = 1 → prio = hpFld s rHP_CFG 2 0 →
      exec (.pfcPauseReceive prio true) s = .next { s with kct := { s.kct with paused := true } } ∧
      ∃ t, exec (.pfcPauseReceive prio false) s = .next t ∧ paused t = false ∧ t.kct.waiting = [] ∧
        (hasAddr s = true → ∀ o ∈ s.kct.waiting, o ∈ t.kct.sent) ∧ t.mem = s.mem ∧ t.serve = s.serve) ∧
    (∀ prio on, prio ≠ hpFld s rHP_CFG 2 0 → exec (.pfcPauseReceive prio on) s = .next s)

/-- O51. A command for another slot, of context 0, goes on by the link to that slot and is remembered; of another context it
is answered BAD_PARAM, and without the link LINK_DOWN. What its target sends goes on to the command's source with PROXY and
the slot, and its reply in one packet ends the entry, but for a REQ_ADMIT that was not refused, whose tokens follow. 10 ms
without an answer the forwarder answers LINK_DOWN. A proxied TIME_READ for this module runs, and its reply leaves by the link
it came by; one that names another slot does nothing. A neighbour's event goes on to its endpoint. A data flit with a bad CRC
or out of order asks for a replay and is not taken; one in order joins its packet. -/
def Obligations.ProxiesAndDataFlits : Prop :=
  ∀ s : State, s.tidy = true →
    (∀ p : Pkt,
     let n := linkToSlot s p.hdr.proxySlot
     let same := fun (x : Proxy) => x.slot == p.hdr.proxySlot && x.req.pkt.hdr.seq == p.hdr.seq && x.req.pkt.src == p.src
     s.trust.handover = none → verdict s p.hdr.opcode (hostReq p) = .forward →
      (p.hdr.ctx = 0 → linkOk s n = true → p.hdr.ack = false → s.kct.proxies.any same = false → ∃ t, exec (.proxyForward p) s = .next t ∧
        t.kct.proxies = s.kct.proxies ++ [{ req := hostReq p, slot := p.hdr.proxySlot, link := n, at_ := s.time, answered := false }] ∧
        t.link = (sendKctOn (arrived s (hostReq p)) n p.hdr p.payload).link ∧ t.mem = s.mem ∧ t.serve = s.serve ∧
        t.disp = s.disp) ∧
      (p.hdr.ctx = 0 → linkOk s n = false → ∃ t, exec (.proxyForward p) s = .next t ∧ Answered t p.hdr.opcode p stLink 0 [] ∧
        t.kct.proxies = s.kct.proxies) ∧
      (p.hdr.ctx ≠ 0 → ∃ t, exec (.proxyForward p) s = .next t ∧ Answered t p.hdr.opcode p stParam 0 [] ∧
        t.kct.proxies = s.kct.proxies)) ∧
    (∀ (n : Nat) (p : Pkt), boardLink s n = true →
     let out := { p.hdr with proxy := true, proxySlot := slotOf s n }
     (∀ x, (s.kct.proxies.find? fun y => y.link == n && y.req.pkt.hdr.seq == p.hdr.seq) = some x →
        (p.hdr.reply = true ∨ p.hdr.ack = true) → portUp s = true → hasAddr s = true →
        ∃ t, exec (.proxyReply n p) s = .next t ∧ lastOut t = some (.fromLink x.req.pkt.src out p.payload) ∧ t.mem = s.mem ∧
          (endsProxy x p.hdr = true → x ∉ t.kct.proxies) ∧
          (endsProxy x p.hdr = false → ∃ y ∈ t.kct.proxies, y.req = x.req ∧ y.link = x.link ∧ y.at_ = s.time ∧
            (p.hdr.reply = true → y.answered = true))) ∧
     (p.hdr.event = true → portUp s = true → hasAddr s = true → ∃ t, exec (.proxyEventRelay n p) s = .next t ∧
        lastOut t = some (.fromLink p.src out p.payload) ∧ t.mem = s.mem ∧ t.kct.proxies = s.kct.proxies) ∧
     (p.hdr.event = false → p.hdr.proxySlot ≠ mySlot s → exec (.proxyLinkReceive n p) s = .next s) ∧
     (p.hdr.event = false → p.hdr.proxySlot = mySlot s → p.hdr.opcode = opTIME → s.trust.handover = none →
        ctxVerdict s opTIME p = .accept → p.hdr.seg = false → 8 ≤ pathMax s p.src →
        ∃ t c o, exec (.proxyLinkReceive n p) s = .next t ∧ ctxOf t p.hdr.ctx = some c ∧ c.cache.head? = some o ∧ o.via = some n ∧
          o.payload = toLE 8 s.time ∧ o.hdr.reply = true ∧ o.hdr.status = stOK ∧ o.hdr.seq = p.hdr.seq ∧
          o.hdr.proxySlot = (if p.hdr.proxy then mySlot s else 0) ∧ t.mem = s.mem)) ∧
    (∀ (slot : Nat) (q : W32) (x : Proxy), (s.kct.proxies.find? fun y => y.slot == slot && y.req.pkt.hdr.seq == q) = some x →
      let streams := x.answered && x.req.pkt.hdr.opcode == opADMIT && !x.final
      (x.at_ + 250000 ≤ s.time → streams = false → ∃ t, exec (.proxyTimeout slot q) s = .next t ∧ x ∉ t.kct.proxies ∧
        (x.answered = false → x.req.via = none → portUp s = true → hasAddr s = true →
          Answered t x.req.pkt.hdr.opcode x.req.pkt stLink 0 [])) ∧
      (s.time < x.at_ + 250000 ∨ streams = true → exec (.proxyTimeout slot q) s = .next s)) ∧
    (∀ (n : Nat) (f : DataFlit), n < 11 → s.power.dev ≠ .off → linkOk s n = true → (linkOf s n).retraining = false →
     let b := f.bytes
     let l := linkOf s n
     let len := num b 1 1
     let c := bits 3 2 (num b 0 1)
     (goodFlit b = false → ∃ t, exec (.dataFlitReceive n f) s = .next t ∧ linkOf t n = { l with nak := true } ∧
        fld t (rLINK_ERR n) 31 16 = min (fld s (rLINK_ERR n) 31 16 + 1) 65535 ∧ t.kct = s.kct ∧ t.mem = s.mem) ∧
     (goodFlit b = true → (num b 0 1 / 16 = 1 ∨ num b 0 1 / 16 = 2) → 0 < len → len ≤ 240 → c ≠ 3 →
        (num b 2 2 = l.rxNext → bit 1 (num b 0 1) = false → ∃ t, exec (.dataFlitReceive n f) s = .next t ∧
          (linkOf t n).rxNext = (l.rxNext + 1) % 65536 ∧ (linkOf t n).nak = false ∧
          look (linkOf t n).partial_ c = some ((if num b 0 1 / 16 = 1 then [] else (look l.partial_ c).getD []) ++ sliceOf b 16 len) ∧
          rd64 t (rLINK_PERF n + 8) = (rd64 s (rLINK_PERF n + 8) + len) % 2 ^ 64 ∧ t.kct = s.kct ∧ t.mem = s.mem) ∧
        (0 < (num b 2 2 + 65536 - l.rxNext) % 65536 → (num b 2 2 + 65536 - l.rxNext) % 65536 < 32768 →
          ∃ t, exec (.dataFlitReceive n f) s = .next t ∧ linkOf t n = { l with nak := true } ∧ t.regs = s.regs ∧ t.kct = s.kct)))

/-- O52. A link that exists: all lanes locked take it from TRAIN to IDENTIFY with four lanes; no lock for 100 ms, no verdict
for 1 ms of IDENTIFY, a third failed retrain or 1 ms of failing ones take it DOWN with the reason; an enabled DOWN link is
tried again, unseen, after 1 s. Lost lanes and 1 µs without a control flit start a retrain, which is counted; one that ends
with lanes gives UP with four, DEGRADED with a pair. A control flit with a bad CRC is counted and not taken; a record met in
IDENTIFY is kept and judged; two verdicts of 0 bring the link up, another verdict of the peer quarantines it, in IDENTIFY and
once it carries traffic. A retrain does not fail before 10 µs. The control slot sends this end's flit. No other link's state
changes. -/
def Obligations.LinksTrainRetrainAndFail : Prop :=
  ∀ s : State, s.tidy = true → ∀ n, linkThere s n = true →
    let l := linkOf s n
    let others := fun (t : State) => ∀ m < 11, m ≠ n → linkState t m = linkState s m
    let down := fun (t : State) (reason : Nat) => linkState t n = 0 ∧ fld t (rLINK_STAT n) 27 24 = reason ∧ linkLanes t n = 0 ∧ others t
    let retrains := fun (t : State) => (linkOf t n).retraining = true ∧ (linkOf t n).since = s.time ∧ (linkOf t n).retrains = 0 ∧
      fld t (rLINK_ERR n) 15 8 = min (fld s (rLINK_ERR n) 15 8 + 1) 255 ∧ linkState t n = linkState s n ∧ others t ∧ t.kct = s.kct ∧
      t.mem = s.mem
    (linkState s n = 1 → ∃ t, exec (.linkLaneLock n) s = .next t ∧ linkState t n = 2 ∧ linkLanes t n = 15 ∧ others t ∧ t.mem = s.mem) ∧
    (l.since + 2500000 ≤ s.time → linkState s n = 1 → ∃ t, exec (.linkTrainTimeout n) s = .next t ∧ down t 4) ∧
    (s.time < l.since + 2500000 → exec (.linkTrainTimeout n) s = .next s) ∧
    (linkState s n = 2 → l.verdict = none → l.since + 25000 ≤ s.time → ∃ t, exec (.linkVerdictTimeout n) s = .next t ∧ down t 5) ∧
    (s.power.dev ≠ .off → linkState s n = 0 → l.silent = false → fld s (rLINK_CTL n) 0 0 = 1 → l.since + 25000000 ≤ s.time →
      ∃ t, exec (.linkRetryTimer n) s = .next t ∧ (linkOf t n).silent = true ∧ (linkOf t n).since = s.time ∧ t.regs = s.regs ∧
        t.kct = s.kct) ∧
    (linkOk s n = true → l.retraining = false →
      (∃ t, exec (.laneLockLoss n) s = .next t ∧ retrains t) ∧
      (l.lastCtl + 25 ≤ s.time → ∃ t, exec (.controlFlitTimeout n) s = .next t ∧ retrains t) ∧
      (s.time < l.lastCtl + 25 → exec (.controlFlitTimeout n) s = .next s)) ∧
    (l.retraining = true →
      (∀ lanes, lanesAfter s n lanes ≠ 0 → (∀ h ∈ l.replay, h.tries < 7) → ∃ t, exec (.retrainDone n lanes) s = .next t ∧
        (linkOf t n).retraining = false ∧ linkLanes t n = lanesAfter s n lanes ∧
        linkState t n = (if lanesAfter s n lanes = 15 then 4 else 5) ∧ others t ∧ t.mem = s.mem) ∧
      (s.time < l.since + 250 → exec (.retrainFail n) s = .next s) ∧
      (let first := if l.retrains = 0 then l.since else l.firstFail
       l.since + 250 ≤ s.time →
       (3 ≤ l.retrains + 1 ∨ first + 25000 ≤ s.time → ∃ t, exec (.retrainFail n) s = .next t ∧ down t 5) ∧
       (l.retrains + 1 < 3 → s.time < first + 25000 → ∃ t, exec (.retrainFail n) s = .next t ∧ (linkOf t n).retrains = l.retrains + 1 ∧
          (linkOf t n).firstFail = first ∧ fld t (rLINK_ERR n) 15 8 = min (fld s (rLINK_ERR n) 15 8 + 1) 255 ∧
          linkState t n = linkState s n ∧ others t)) ∧
      (l.retrains ≠ 0 → l.firstFail + 25000 ≤ s.time → ∃ t, exec (.linkDownTimer n) s = .next t ∧ down t 5)) ∧
    (2 ≤ linkState s n → l.retraining = false →
      (∃ t, exec (.controlFlitSlot n) s = .next t ∧ Out.flit n (controlBytes s n) ∈ t.kct.sent ∧ others t) ∧
      (∀ f : CtlFlit, f.crcOk = false → ∃ t, exec (.controlFlitReceive n f) s = .next t ∧
        fld t (rLINK_ERR n) 31 16 = min (fld s (rLINK_ERR n) 31 16 + 1) 65535 ∧ t.link = s.link ∧ t.kct = s.kct ∧ t.mem = s.mem) ∧
      (∀ (f : CtlFlit) (i : Identity), f.crcOk = true → linkState s n = 2 → f.identity = some i → f.verdict = none → l.verdict = none →
        l.told = false → ∃ t, exec (.controlFlitReceive n f) s = .next t ∧ (linkOf t n).peer = some i ∧
          (linkOf t n).mine = some (verdictOf s (mapEntry s n) i) ∧ (linkOf t n).lastCtl = s.time ∧
          rd64 t (rLINK_PEER n) = i.serial.toNat ∧ rd t (rLINK_PEER n + 8) = i.boardId.toNat ∧ linkState t n = 2 ∧ others t ∧
          t.kct = s.kct) ∧
      (∀ (f : CtlFlit) (v m : Nat × Nat), f.crcOk = true → linkState s n = 2 → f.identity = none → f.verdict = some v → l.told = true →
        l.mine = some m → m.1 = 0 → ∃ t, exec (.controlFlitReceive n f) s = .next t ∧ others t ∧
          (v.1 = 0 → linkState t n = (if linkLanes s n = 15 then 4 else 5) ∧ fld t (rLINK_STAT n) 31 28 = m.2 % 16) ∧
          (v.1 ≠ 0 → linkState t n = 3 ∧ fld t (rLINK_STAT n) 27 24 = v.1 % 16)) ∧
      (∀ (f : CtlFlit) (v : Nat × Nat), f.crcOk = true → linkOk s n = true → f.verdict = some v → v.1 ≠ 0 →
        ∃ t, exec (.controlFlitReceive n f) s = .next t ∧ linkState t n = 3 ∧ fld t (rLINK_STAT n) 27 24 = v.1 % 16 ∧ others t))

/-- O53. With the table of arrays in order (CountersAndArraysStayInOrder): a released array task begins on its array, or ends
at once with no tokens. A tile loads into the active buffer, or ahead of a pass into the filling one; an activation block
takes the free half of its buffer, the current tile's or, ahead, the next one's. A record or a block that does not decode ends
the task with FAULT_UNCORRECTABLE, and leaves the rows that open slots hold. A pass adds the products of its tile into the
accumulator rows and counts its cycles, and the chain goes on to the next tile; the last pass of END 1 writes the spill
buffer, of END 0 emits the partial into its slot. A residue mismatch retires the array. A full slot whose other contributors
have signalled is drained by its home task, and the rows' credits go back; a credit returned empties its row. -/
def Obligations.ArraysComputePasses : Prop :=
  ∀ s : State, s.tidy = true → keysAbove none s.arr.arrays = true →
    (∀ k sl i, released s k 1 (fun _ => true) = some (sl, i) →
      let d := sl.desc
      let n := aARRAY d
      let a := physOf s n
      (aTOKENS d = 0 → ∃ t, exec (.arrayTask k) s = .next t ∧ look t.disp.window k = some { sl with result := some stOK } ∧
        t = { s with disp := { s.disp with window := t.disp.window } }) ∧
      (aTOKENS d ≠ 0 → fld s (rARRAY_MAP n) 7 7 = 1 → bedRuns s (a / 8) = true → (arrOf s a).run = none →
        logicalBusy s n = false →
        ∃ t r, exec (.arrayTask k) s = .next t ∧ (arrOf t a).run = some r ∧ r.slot = k ∧ r.inst = i.num ∧ r.logical = n ∧ r.pos = 0 ∧
          r.fetched = false ∧ r.mode = (if (fld s rARRAY_CTL 2 2 = 1 ∨ sl.forceRef = true) ∧ aMODE d ≠ 1 then 2 else aMODE d) ∧
          t = { s with arr := t.arr, disp := { s.disp with window := t.disp.window } } ∧
          look t.disp.window k = some { sl with begun := true } ∧ (∀ m, m ≠ k → look t.disp.window m = look s.disp.window m) ∧
          t.arr.slots = s.arr.slots ∧ ∀ b, b ≠ a → arrOf t b = arrOf s b)) ∧
    (∀ a line, exec (.sliceWriteback a line) s = .next { s with ras := { s.ras with sliceWb := s.ras.sliceWb.filter (· != (a, line)) } }) ∧
    (∀ a row,
      let x := arrOf s a
      let back := fun (c : Nat × Int) => x.ret.contains row && c.1 / 256 == row
      ∃ t, exec (.creditReturn a row) s = .next t ∧ t = { s with arr := t.arr } ∧
        arrOf t a = { x with ret := x.ret.erase row, acc := x.acc.filter fun c => !back c } ∧ ∀ b, b ≠ a → arrOf t b = arrOf s b) ∧
    (∀ a r sl i, running s a = some (r, sl, i) →
      let d := sl.desc
      let x := arrOf s a
      let tk := aTOKENS d
      (let pos := if r.loaded then r.pos + 1 else r.pos
       let tile := readRecord s a (aFIRST d + pos)
       pos < aCOUNT d → (r.loaded = true → x.filling = none) →
        (firstBad s 3 (sliceBase a + slotBytes * tile.tile) (recordLen tile.entry) = none → ∃ t, exec (.tileLoad a .clean) s = .next t ∧
          t = { s with arr := t.arr, regs := t.regs } ∧ SameRegs [rPACK_STAT] s t ∧ arrOf t a =
            (if r.loaded then { x with filling := some tile } else { x with active := some tile, run := some { r with loaded := true } })) ∧
        (∀ u, firstBad s 3 (sliceBase a + slotBytes * tile.tile) (recordLen tile.entry) = some u →
          ∃ t, exec (.tileLoad a .clean) s = .next t ∧ look t.disp.window r.slot = some { sl with result := some stFault } ∧
            (arrOf t a).run = none ∧ (arrOf t a).acc = heldRows x ∧ (arrOf t a).filling = none)) ∧
      (let pos := if r.fetched then r.pos + 1 else r.pos
       let addr := aACT d + pos * aKS d
       let reads := actReads r.mode (peek s.mem.commons addr).toNat addr tk
       let half : ActHalf := { addr := addr, tokens := tk, cells := actCells s addr reads }
       s.ras.collided = [] → (r.fetched = true → r.ahead = false ∧ r.pos + 1 < aCOUNT d ∧ x.halves ≠ []) →
        ((∀ z ∈ reads, firstBad s 0 z.1 z.2 = none) → ∃ t, exec (.actBlockFetch a .clean) s = .next t ∧ t = { s with arr := t.arr } ∧
          half ∈ (arrOf t a).halves ∧ (arrOf t a).acc = x.acc ∧
          (r.fetched = false → (arrOf t a).halves.head? = some half ∧ (arrOf t a).run = some { r with fetched := true }) ∧
          (r.fetched = true → (arrOf t a).halves.head? = x.halves.head? ∧ (arrOf t a).run = some { r with ahead := true })) ∧
        ((∃ z ∈ reads, firstBad s 0 z.1 z.2 ≠ none) → ∃ t, exec (.actBlockFetch a .clean) s = .next t ∧
          look t.disp.window r.slot = some { sl with result := some stFault } ∧ (arrOf t a).run = none ∧
          (arrOf t a).acc = heldRows x)) ∧
      (∀ tile half rest, x.active = some tile → x.halves = half :: rest → passReady s a r d = true →
        (actLen r.mode (peek half.cells 0).toNat half.addr tk).isSome = true →
        let code := (peek half.cells 0).toNat
        let cost := passCost r.mode r.skip false code tk half.cells
        let acc := passAdd r.mode code (aWSHIFT d) tk half.cells (tileTrits tile) (if r.pos = 0 then [] else x.acc)
        (r.pos + 1 ≠ aCOUNT d →
          (∃ t, exec (.passEnd a true true) s = .next t ∧ t = { s with arr := t.arr, regs := t.regs } ∧
            rd64 t (rARRAY_PERF a) = (rd64 s (rARRAY_PERF a) + cost.1) % 2 ^ 64 ∧
            rd64 t (rARRAY_PERF a + 8) = (rd64 s (rARRAY_PERF a + 8) + cost.2) % 2 ^ 64 ∧
            arrOf t a = { x with acc := acc, active := (if x.filling.isSome then x.filling else x.active), filling := none,
                                 halves := (if r.ahead then turnHalves x.halves (aACT d + (r.pos + 1) * aKS d) tk else x.halves),
                                 run := some { r with pos := r.pos + 1, loaded := x.filling.isSome, fetched := r.ahead,
                                                      ahead := false } }) ∧
          (a < 104 → unitState s 0 a = 1 → ∃ t, exec (.passEnd a false true) s = .next t ∧ unitState t 0 a = 2)) ∧
        (r.pos + 1 = aCOUNT d → aEND d = 1 → aSTART d ≠ 1 → r.badAct = false → ∃ t, exec (.passEnd a true true) s = .next t ∧
          look t.disp.window r.slot = some { sl with result := some stOK } ∧ (arrOf t a).run = none ∧
          ld t 0 (aSPILL d) 8 = toLE 2 tk ++ [1, 0] ++ toLE 4 1 ∧ ld t 0 (aSPILL d + 64) (1536 * tk) = spillRows tk acc ∧
          ∀ y, y < aSPILL d ∨ aSPILL d + spillBytes tk ≤ y → peek t.mem.commons y = peek s.mem.commons y) ∧
        (let n := aSLOT d
         let q := (look s.arr.slots n).getD { contrib := aCONTRIB d, tokens := tk, parts := [] }
         let p : Part := { array := a, inst := i.num, index := sl.index, win := r.slot, home := aHOME d, bad := r.badAct }
         r.pos + 1 = aCOUNT d → aEND d ≠ 1 → aSTART d ≠ 1 → emitCause q (aCONTRIB d) tk (aHOME d) = none →
          ∃ t, exec (.passEnd a true true) s = .next t ∧ look t.arr.slots n = some { q with parts := q.parts ++ [p] } ∧
            (arrOf t a).acc = acc ∧ (arrOf t a).run = none ∧ t.mem = s.mem ∧ (aHOME d = true → t.disp = s.disp) ∧
            (aHOME d = false → look t.disp.window r.slot = some { sl with result := some (if r.badAct then stParam else stOK) })))) ∧
    (∀ n r h sl i, look s.arr.slots n = some r → r.parts.find? (·.home) = some h → look s.disp.window h.win = some sl →
      instOf s h.inst = some i → r.parts.length = r.contrib → (∀ p ∈ r.parts, p.home = false → signalled s p = true) →
      let d := sl.desc
      (aTOK d = true → firstBad s 0 (aSCALE d) (4 * r.tokens) = none) → ∃ t, exec (.slotReduce n true) s = .next t ∧
        t.arr.slots = del s.arr.slots n ∧ t.mem = (drainRows s d r.parts ((look (arrOf s h.array).latches n).getD [])).mem ∧
        look t.disp.window h.win = some { sl with result := some (if h.bad then stParam else stOK) } ∧
        (∀ p ∈ r.parts, (arrOf t p.array).out = []) ∧
        ∀ y, (∀ k < aTOKENS d, (y < aOUT d + k * aOSTR d ∨ aOUT d + k * aOSTR d + 256 * elemSize (aFMT d) ≤ y) ∧
          (aSTATEN d = true → y < aSTAT d + k * aSSTR d ∨ aSTAT d + k * aSSTR d + 16 ≤ y)) →
          peek t.mem.commons y = peek s.mem.commons y)

/-- O54. Of a bed that is still, without a task for 256 cycles and not at its target: a shallower target wakes it, Idle and
Run are entered at once, a deeper one is on its way. An entry that completes loses the arrays' contents, and wakes again, to
Run or to Idle, where it was wanted. A wake from Idle or Doze completes in its target; one from Off first clears the slices,
then reloads them: each slice then holds its image's directory entries and every record whose entry is not 0, and zeros
elsewhere. Firmware sets the target of each bed that is not pinned, at a boundary or between steps, and wakes the beds a
forecast names. A rebuild copies the slice to its image. -/
def Obligations.BedsMoveAndReload : Prop :=
  ∀ s : State, s.tidy = true → keysAbove none s.arr.arrays = true → s.power.dev ≠ .off →
    (∀ b < 13,
      let tgt := fld s (rBED_CTL b) 1 0
      let now := bedState s b
      let busy := fun (t : State) => fld t (rBED_STAT b) 2 2
      let lost := fun (t : State) => ∀ i < 8, (arrOf t (8 * b + i)).acc = [] ∧ (arrOf t (8 * b + i)).active = none ∧
        (arrOf t (8 * b + i)).halves = []
      (moveOf s b = .still → bedWanted s b = false → (look s.power.lastTask b).getD 0 + 4 ≤ s.time → tgt ≠ now →
        (tgt = 3 → bedMayOff s b = true) → ∃ t, exec (.bedIdleEntry b) s = .next t ∧ t.mem = s.mem ∧ t.arr = s.arr ∧
          (tgt < now → 2 ≤ now → moveOf t b = .waking tgt ∧ busy t = 1 ∧ bedState t b = now) ∧
          (now < 2 → tgt < 2 → bedState t b = tgt ∧ busy t = 0) ∧
          (now < tgt → 2 ≤ tgt → moveOf t b = .entering tgt ∧ busy t = 1 ∧ bedState t b = now)) ∧
      (∀ d, moveOf s b = .entering d → (d = 2 ∨ d = 3) → ∃ t, exec (.bedEntryComplete b) s = .next t ∧ bedState t b = d ∧ lost t ∧
        t.mem = s.mem ∧ (b ∈ s.power.wakeWant → moveOf t b = .waking 0 ∧ busy t = 1) ∧
        (b ∉ s.power.wakeWant → b ∈ s.power.idleWant → moveOf t b = .waking 1 ∧ busy t = 1) ∧
        (b ∉ s.power.wakeWant → b ∉ s.power.idleWant → moveOf t b = .still ∧ busy t = 0)) ∧
      (∀ d < 3, moveOf s b = .waking d →
        (now ≠ 3 → ∃ t, exec (.bedWake b) s = .next t ∧ bedState t b = d ∧ busy t = 0 ∧ look t.power.lastTask b = some s.time ∧
          t.mem = s.mem ∧ (now = 2 → lost t)) ∧
        (now = 3 → clearing s b = false → reloading s b = false → ∃ t, exec (.bedWake b) s = .next t ∧ clearing t b = true ∧
          bedState t b = 3 ∧ ∀ x, peek t.mem.slices x =
            if sliceBase (8 * b) ≤ x ∧ x < sliceBase (8 * b + 8) then 0 else peek s.mem.slices x) ∧
        (now = 3 → clearing s b = true → ∃ t, exec (.bedWake b) s = .next t ∧ clearing t b = false ∧ reloading t b = true ∧
          t.mem = s.mem) ∧
        (clearing s b = true ∨ reloading s b = true → (∀ i < 8, logicalOf s (8 * b + i) < 96 → imageBad s (logicalOf s (8 * b + i)) false .clean = []) →
          ∃ t, exec (.bedReloadComplete b .clean) s = .next t ∧ bedState t b = d ∧ busy t = 0 ∧ clearing t b = false ∧
            reloading t b = false ∧ t.mem.near = s.mem.near ∧ fld t (rBED_STAT b) 31 24 = min (fld s (rBED_STAT b) 31 24 + 1) 255 ∧
            ∀ i < 8, logicalOf s (8 * b + i) < 96 → ∀ o < 2 ^ 25,
              let image := imageBase s (logicalOf s (8 * b + i))
              peek t.mem.slices (sliceBase (8 * b + i) + o) =
                if reloadReads s 1 image o then peek s.mem.near (image + o) else 0))) ∧
    (∀ forecast : List Nat, policyDue s = true → ∃ t, exec (.bedTargetPolicy forecast) s = .next t ∧
      t.mem = s.mem ∧ t.serve = s.serve ∧ ∀ b < 13, bedState t b = bedState s b ∧
        (fld s (rBED_CTL b) 4 4 = 0 → fld t (rBED_CTL b) 1 0 = bedTarget s forecast b) ∧
        (fld s (rBED_CTL b) 4 4 = 1 → rd t (rBED_CTL b) = rd s (rBED_CTL b)) ∧
        (b ∈ forecast → 2 ≤ bedState s b → moveOf s b = .still → moveOf t b = .waking 0)) ∧
    (∀ lg < 96,
      let a := physOf s lg
      fld s (rSHADOW_VALID (lg / 32)) (lg % 32) (lg % 32) = 0 → fld s (rARRAY_MAP lg) 7 7 = 1 → bedPowered s (a / 8) = true →
      stackCount s ≠ 0 → (∀ x ∈ s.mem.bad, x.1 = 3 → x.2 * 16 < sliceBase a ∨ sliceBase (a + 1) ≤ x.2 * 16) →
      ∃ t, exec (.shadowRebuild lg .clean) s = .next t ∧ fld t (rSHADOW_VALID (lg / 32)) (lg % 32) (lg % 32) = 1 ∧
        t = { s with mem := t.mem, regs := t.regs, tier := { s.tier with buckets := t.tier.buckets } } ∧
        (∀ o < 2 ^ 25, peek t.mem.near (imageBase s lg + o) = peek s.mem.slices (sliceBase a + o)) ∧
        ∀ x, x < imageBase s lg ∨ imageBase s (lg + 1) ≤ x → peek t.mem.near x = peek s.mem.near x)

/-- O55. A released task of these engines whose reads decode, whose partition has bandwidth and whose run meets no rule that
fails it ends with OK and leaves what its run writes: LOOKUP and EMBED the output rows alone, the sampler 16 bytes for each
row, the hash engine the hashes of its jobs, a single EMBED of an identifier outside its table zeros. A mover's COPY leaves in
each destination row the source row, FILL the pattern, GATHER the row an index names or zeros, COMPRESS the shorter form, and
nothing else; TRANSMIT sends the rows in order by the host port and writes nothing; those of a serving step's reply tasks went
at its gate. Values that come from memory are stated where no read of it collided. -/
def Obligations.TableSamplerHashAndMovers : Prop :=
  ∀ (s : State) (k : Nat) (sl : Slot) (i : Inst), s.tidy = true →
    let d := sl.desc
    let start := startJob s .clean true
    let good := fun (j : Job) => j.ue = none ∧ j.failed = none ∧ jobWaits s (instPart s i) true j = false
    let ended := fun (t : State) (j : Job) => t.mem = j.mem ∧ look t.disp.window k = some { sl with result := some stOK } ∧
      (∀ m, m ≠ k → look t.disp.window m = look s.disp.window m) ∧ t.disp.insts = s.disp.insts ∧ t.serve = s.serve ∧ t.arr = s.arr ∧
      t.models = s.models ∧ t.blocks = s.blocks
    let only := fun (t : State) (rows : Nat) (at_ len : Nat → Nat) => t.mem.near = s.mem.near ∧ t.mem.far = s.mem.far ∧
      t.mem.slices = s.mem.slices ∧
      ∀ x, (∀ r < rows, x < at_ r ∨ at_ r + len r ≤ x) → peek t.mem.commons x = peek s.mem.commons x
    (released s k 4 (fun d => tOP d == 0) = some (sl, i) → good (runLookup s d start) → ∃ t, exec (.lookup k .clean) s = .next t ∧
      ended t (runLookup s d start) ∧ only t (tTOKENS d) (fun r => tOUT d + r * tOS d) fun _ => tCC d * elemSize (tFMT d)) ∧
    (released s k 4 (fun d => tOP d == 1) = some (sl, i) → good (runEmbed s d start) → ∃ t, exec (.embed k .clean) s = .next t ∧
      ended t (runEmbed s d start) ∧
      (s.ras.collided = [] → only t (tTOKENS d) (fun r => tOUT d + r * tOS d) (fun _ => ldN s (tSp d) (tIMG d + 8) 4 * elemSize (tFMT d))) ∧
      (s.ras.collided = [] → tTOKENS d = 1 → ldN s (tSp d) (tIMG d + 4) 4 ≤ ldN s 0 (tACT d) 4 →
        let n := ldN s (tSp d) (tIMG d + 8) 4 * elemSize (tFMT d)
        ld t 0 (tOUT d) n = zeros n)) ∧
    (released s k 6 (fun _ => true) = some (sl, i) → good (runSampler s d start) → ∃ t, exec (.samplerTask k .clean) s = .next t ∧
      ended t (runSampler s d start) ∧ only t (sROWS d) (fun r => sOUT d + 16 * r) fun _ => 16) ∧
    (released s k 7 (fun _ => true) = some (sl, i) → good (runHash s d start) → ∃ t, exec (.hashTask k .clean) s = .next t ∧
      ended t (runHash s d start) ∧ only t (hCOUNT d) (fun r => hJOB d + 32 * r + 24) (fun _ => 8) ∧
      (let f := fun (o n : Nat) => ldN s 0 (hJOB d + o) n
       s.ras.collided = [] → hCOUNT d = 1 → bit 0 (f 20 1) = false → f 16 4 % 4 = 0 → f 16 4 + 128 ≤ 2 ^ 28 →
        ldN t 0 (hJOB d + 24) 8 = blockHash (f 0 8) (f 8 4) (f 12 4) (ld s 0 (f 16 4) 128))) ∧
    (let run := runMover s d start
     let dst := fun (r : Nat) => mDA d + r * mDS d
     let src := fun (r : Nat) => ld s (mSRC d) (mSA d + r * mSS d) (mRB d)
     let kept := fun (t : State) (len : Nat → Nat) => (∀ q < 4, q ≠ mDST d → memOf t.mem q = memOf s.mem q) ∧
       ∀ x, (∀ r < mROWS d, x < dst r ∨ dst r + len r ≤ x) → peek (memOf t.mem (mDST d)) x = peek (memOf s.mem (mDST d)) x
     good run → moverCheck s d = true → moverClash d = false →
      (released s k 8 (fun d => mOP d == 0 && mDST d != 3) = some (sl, i) → mRB d ≤ mDS d → ∃ t, exec (.moverCopy k .clean) s = .next t ∧
        ended t run ∧ kept t (fun _ => mRB d) ∧ (s.ras.collided = [] → ∀ r < mROWS d, ld t (mDST d) (dst r) (mRB d) = src r)) ∧
      (released s k 8 (fun d => mOP d == 1 && mDST d != 3) = some (sl, i) → mRB d ≤ mDS d → ∃ t, exec (.moverFill k .clean) s = .next t ∧
        ended t run ∧ kept t (fun _ => mRB d) ∧ ∀ r < mROWS d, ld t (mDST d) (dst r) (mRB d) = fillRow d) ∧
      (released s k 8 (fun d => mOP d == 2 && mDST d != 3) = some (sl, i) → ∃ t, exec (.moverGather k .clean) s = .next t ∧
        ended t run ∧ kept t (fun _ => mRB d) ∧ (s.ras.collided = [] → mRB d ≤ mDS d → mDST d ≠ 0 → ∀ r < mROWS d,
          let ix := ldN s 0 (mIX d + 4 * r) 4
          ld t (mDST d) (dst r) (mRB d) = if mARG d ≤ ix then zeros (mRB d) else src ix)) ∧
      (released s k 8 (fun d => mOP d == 3 && mDST d != 3) = some (sl, i) → mRB d ≠ 0 → ∃ t, exec (.moverCompress k .clean) s = .next t ∧
        ended t run ∧ (s.ras.collided = [] → kept t (fun r => (compressRow d (src r)).1.length) ∧ ∀ r < mROWS d,
          ld t (mDST d) (dst r) (compressRow d (src r)).1.length = (compressRow d (src r)).1)) ∧
      (released s k 8 (fun d => mDST d == 3) = some (sl, i) → mRB d ≠ 0 → portUp s = true → hasAddr s = true → paused s = false →
        ∃ t, exec (.moverTransmit k .clean) s = .next t ∧ ended t run ∧ t.mem = s.mem ∧ (i.step ≠ none → t.kct = s.kct) ∧
          (s.ras.collided = [] → i.step = none → mOP d = 0 → t.kct.sent = ((List.range (mROWS d)).map fun r => Out.raw (src r)).reverse ++ s.kct.sent)))

/-- O56. A released task of the sparse merge engine whose reads decode, whose partition has bandwidth and whose run meets no
rule that fails it ends with OK and leaves exactly what its run writes: of a merge, a gather or a delta the destination
elements. A QUANT of the vector engine whose reads decode and whose block codes are activation formats does so too, and writes
the scales and the blocks alone. The tiers and the slices stay. -/
def Obligations.SparseMergeAndVector : Prop :=
  ∀ (s : State) (k : Nat) (sl : Slot) (i : Inst), s.tidy = true →
    let d := sl.desc
    let start := startJob s .clean true
    let ended := fun (t : State) (j : Job) => t.mem = j.mem ∧ look t.disp.window k = some { sl with result := some stOK } ∧
      (∀ m, m ≠ k → look t.disp.window m = look s.disp.window m) ∧ t.disp.insts = s.disp.insts ∧ t.serve = s.serve ∧ t.arr = s.arr ∧
      t.mem.near = s.mem.near ∧ t.mem.far = s.mem.far ∧ t.mem.slices = s.mem.slices
    let j := runSpm s d start
    let at_ := fun (op : Nat) => released s k 5 (fun d => pOP d == op) = some (sl, i)
    let good := spmCheck s d = true ∧ j.ue = none ∧ j.failed = none ∧ jobWaits s (instPart s i) true j = false
    let elems := fun (t : State) => ∀ x, (∀ r < pON d, ∀ c < pLEN d,
      let a := pOA d + r * pOS d + c * pOE d
      x < a ∨ a + elemSize (pOF d) ≤ x) → peek t.mem.commons x = peek s.mem.commons x
    (at_ 0 → good → ∃ t, exec (.spmMerge k .clean) s = .next t ∧ ended t j ∧ elems t) ∧
    (at_ 1 → good → ∃ t, exec (.spmGather k .clean) s = .next t ∧ ended t j ∧ elems t) ∧
    (at_ 2 → good → ∃ t, exec (.delta k .clean) s = .next t ∧ ended t j ∧ elems t) ∧
    (let q := runQuant s d (startJob s .clean false)
     released s k 3 (fun d => vOP d == 0x20) = some (sl, i) → q.ue = none → q.failed = none →
      ∃ t, exec (.quant k .clean) s = .next t ∧ ended t q ∧
        ∀ x, (x < vS1 d ∨ vS1 d + 4 * vROWS d ≤ x) →
          (∀ b < ceilDiv (vCOLS d) 512, x < vD d + b * vP d 2 ∨ vD d + b * vP d 2 + 64 + 512 * vROWS d ≤ x) →
          peek t.mem.commons x = peek s.mem.commons x)

/-- O57. A released attention task whose reads decode, whose partition has bandwidth and whose run fails no rule ends with OK
and leaves what its run writes: ATTEND and MERGE write the commons alone, as does a task whose residue mismatches, which is
suspected besides. An APPEND of one record to a page writes its rows and makes COMMIT cover them, unless TENTATIVE, and STEP
the step counter; to the sink it writes nothing. A DEMOTE of a page that is not full changes nothing; of both, where no read
of the record collided. Firmware, when a page is due, writes the demotion graph of the one written longest ago and enters it
as an instance of context 0. -/
def Obligations.AttentionAndPages : Prop :=
  ∀ (s : State) (k : Nat) (sl : Slot) (i : Inst), s.tidy = true →
    let d := sl.desc
    let start := startJob s .clean true
    let good := fun (j : Job) => j.ue = none ∧ j.failed = none ∧ jobWaits s (instPart s i) true j = false
    let ended := fun (t : State) (j : Job) => t.mem = j.mem ∧ look t.disp.window k = some { sl with result := some stOK } ∧
      (∀ m, m ≠ k → look t.disp.window m = look s.disp.window m) ∧ t.disp.insts = s.disp.insts ∧ t.serve = s.serve ∧ t.arr = s.arr ∧
      t.mem.slices = s.mem.slices
    (let j := attnRun attendRow s i d start
     released s k 2 (fun d => kOP d == 0) = some (sl, i) → good j →
      (∃ t, exec (.attend k .clean true) s = .next t ∧ ended t j ∧ t.mem.near = s.mem.near ∧ t.mem.far = s.mem.far) ∧
      (∃ t, exec (.attend k .clean false) s = .next t ∧ t.mem = j.mem ∧ look t.disp.window k = some { sl with result := some stOK })) ∧
    (let j := attnRun (fun s _ => mergeRow s.fresh) s i d start
     released s k 2 (fun d => kOP d == 1) = some (sl, i) → good j → ∃ t, exec (.attnMerge k .clean) s = .next t ∧ ended t j ∧
      t.mem.near = s.mem.near ∧ t.mem.far = s.mem.far) ∧
    (let j := pageRun appendRow s i d start
     let f := fun (o n : Nat) => ldN s 0 (kREC d + o) n
     released s k 2 (fun d => kOP d == 2) = some (sl, i) → good j → ∃ t, exec (.append k .clean) s = .next t ∧ ended t j ∧
      (s.ras.collided = [] → kROWS d = 1 → locOf s (f 0 4) = .sink → t.mem = s.mem) ∧
      (∀ sp base, s.ras.collided = [] → kROWS d = 1 → locOf s (f 0 4) = .page sp base →
        let c := pgCommit (ld s sp base 128)
        pgCommit (ld t sp base 128) = (if kTENT d then c else max c (f 4 1 + f 5 1)) ∧ pgStep (ld t sp base 128) = stepCount s % 2 ^ 32 ∧
        pgKey (ld t sp base 128) = pgKey (ld s sp base 128) ∧
        (∀ x, x < base ∨ base + 65536 ≤ x → peek (memOf t.mem sp) x = peek (memOf s.mem sp) x) ∧
        ∀ q < 4, q ≠ sp → memOf t.mem q = memOf s.mem q)) ∧
    (let j := pageRun demoteRow s i d start
     released s k 2 (fun d => kOP d == 3) = some (sl, i) → good j → ∃ t, exec (.demote k .clean) s = .next t ∧ ended t j ∧
      (∀ sp base, s.ras.collided = [] → kROWS d = 1 → locOf s (ldN s 0 (kREC d) 4) = .page sp base → pgCommit (ld s sp base 128) ≠ 32 → t.mem = s.mem)) ∧
    (let due := s.serve.pages.filterMap fun p => (demoteAge s p.2).map fun a => (a, p.2)
     fld s rKV_DEMOTE 23 0 ≠ 0 → s.power.dev = .active → (∀ j ∈ s.disp.insts, j.tier = 0 → j.addr ≠ demoteBlk) →
      s.disp.insts.length < 1024 → moduleFailed s = false → maintHolds s = false → ∀ a p,
      (sortBy (fun x => 2 ^ 32 - x.1) due).head? = some (a, p) → ∃ t j, exec .demoteSchedule s = .next t ∧
        t.disp.insts = s.disp.insts ++ [j] ∧ j.num = s.disp.nextNum ∧ j.ctx = 0 ∧ j.tier = 0 ∧ j.addr = demoteBlk ∧ j.admitted = 0 ∧
        ldN t 0 (demoteBlk + 1024) 4 = (p.space * 2 ^ 30 + p.addr / 65536) % 2 ^ 32 ∧ kOP (ld t 0 (demoteBlk + 64) 64) = 3 ∧
        t = { s with mem := t.mem, disp := { s.disp with insts := t.disp.insts, nextNum := s.disp.nextNum + 1 } } ∧
        ∀ x, x < demoteBlk ∨ demoteBlk + 65536 ≤ x → peek t.mem.commons x = peek s.mem.commons x)

/-- O58. A released collective task whose collective is open, whose members can be reached and whose reads decode takes the
collective's next invocation, and is under way from then on or has ended with OK. One not complete in its time ends with
LINK_DOWN and is counted. A data packet for this module is noted once: one already seen is counted and dropped; one of no open
collective is counted as a mismatch; one whose task has not started is kept; one that agrees with its task is among what the
task has got, unless the task has ended. A packet for another module that has made five hops is dropped and counted. An abort
ends its task with LINK_DOWN and is counted. -/
def Obligations.CollectiveTasksAndPackets : Prop :=
  ∀ s : State, s.tidy = true →
    (∀ k sl i c, released s k 9 (fun _ => true) = some (sl, i) →
      let id := num sl.desc 16 2
      collOf s id = some c → (∀ r ∈ s.coll.runs, r.slot ≠ k) → (∀ m < c.memb.length, sendCount s c sl.desc m ≤ dCOUNT sl.desc) →
      unreachable s c = false → collUe s c sl.desc = none → (∀ p ∈ s.coll.staged, p.collId ≠ id) → (∀ h ∈ s.coll.held, h.1.collId ≠ id) →
      (∀ r ∈ s.coll.runs, r.id = id → r.inst % 2 ^ 32 ≠ c.next % 2 ^ 32) → ∃ t, exec (.collectiveTask k .clean) s = .next t ∧
        look t.coll.open_ id = some { c with next := c.next + 1 } ∧
        ((∃ r ∈ t.coll.runs, r.slot = k ∧ r.id = id ∧ r.inst = c.next ∧ r.start = s.time ∧ r.desc = sl.desc) ∨
          look t.disp.window k = some { sl with begun := true, result := some stOK })) ∧
    (∀ k r, (s.coll.runs.find? fun r => r.slot == k) = some r →
      (r.start + collLimit s r.desc ≤ s.time → ∃ t, exec (.collectiveTimeout k) s = .next t ∧ r ∉ t.coll.runs ∧ t.mem = s.mem ∧
        (∀ sl, look s.disp.window k = some sl → look t.disp.window k = some { sl with result := some stLink }) ∧
        fld t rCOLL_STAT 31 24 = min (fld s rCOLL_STAT 31 24 + 1) 255) ∧
      (s.time < r.start + collLimit s r.desc → exec (.collectiveTimeout k) s = .next s)) ∧
    (∀ (n : Nat) (p : CollPkt), linkOk s n = true →
      (p.dst ≠ myCode s → 6 ≤ p.hops + 1 → ∃ t, exec (.collDataReceive n p) s = .next t ∧ t.mem = s.mem ∧ t.coll = s.coll ∧
        fld t rCOLL_STAT 7 0 = min (fld s rCOLL_STAT 7 0 + 1) 255) ∧
      (p.dst = myCode s → notePkt s p.src p.pktSeq = none → ∃ t, exec (.collDataReceive n p) s = .next t ∧ t.mem = s.mem ∧
        t.coll = s.coll ∧ rd64 t (rCOLL_PERF + 8) = (rd64 s (rCOLL_PERF + 8) + 1) % 2 ^ 64) ∧
      (p.dst = myCode s → (notePkt s p.src p.pktSeq).isSome = true →
        (collOf s p.collId = none → ∃ t, exec (.collDataReceive n p) s = .next t ∧ t.mem = s.mem ∧ t.coll = s.coll ∧
          fld t rCOLL_STAT 15 8 = min (fld s rCOLL_STAT 15 8 + 1) 255) ∧
        (∀ c, collOf s p.collId = some c →
          (findRun' s p.collId p.inst = none → (p.inst + 2 ^ 32 - c.next % 2 ^ 32) % 2 ^ 32 < 2 ^ 31 →
            stagedBytes s + p.data.length ≤ stagingBytes → ∃ t, exec (.collDataReceive n p) s = .next t ∧ t.mem = s.mem ∧
              t.coll = { s.coll with staged := s.coll.staged ++ [{ p with kind := 0 }] }) ∧
          (∀ r, findRun' s p.collId p.inst = some r →
            (pktAgrees s c r { p with kind := 0 } = true → p.poison % 2 ^ ceilDiv p.length 16 = 0 →
              ∃ t, exec (.collDataReceive n p) s = .next t ∧ ((∀ x ∈ t.coll.runs, sameRun x r = false) ∨
                ∃ x ∈ t.coll.runs, sameRun r x = true ∧ (c.memb.idxOf p.src, p.phase, p.offset, p.data) ∈ x.got)) ∧
            (∃ t, exec (.collAbortReceive n p) s = .next t ∧ r ∉ t.coll.runs ∧ t.mem = s.mem ∧
              (∀ sl, look s.disp.window r.slot = some sl → look t.disp.window r.slot = some { sl with result := some stLink }) ∧
              fld t rCOLL_STAT 23 16 = min (fld s rCOLL_STAT 23 16 + 1) 255)))))

/-- O59. A step in flight whose gate may pass has passed it at this time; a row's token that is neither the last nor late is
on its way to its request, with STATUS OK. At a boundary the register settings take effect; the step in flight ends, and the
one formed is in flight with its rows or waits for the records of other modules; with an activation pending the hand-over
starts instead, M2 extended and counted. A step is formed on demand only where a row is there. Without a step, a missed final
deadline is found every millisecond. An exchange that does not come in 100 µs, or that no link can carry, fails and is tried
again every millisecond until it succeeds. Below SPILL_LOW pages of parked or scavenging requests are marked for spilling. -/
def Obligations.GateBoundaryAndIdleWork : Prop :=
  ∀ s : State, s.tidy = true →
    (∀ st rs ctr, s.serve.cur = some st → gateReady s st = true → s.trust.handover = none →
      (st.failed = none → resultsFit st rs = true) → ∃ t c, exec (.replyGate rs ctr) s = .next t ∧ t.serve.cur = some c ∧ c.gated = true ∧
        c.gateTime = s.time ∧ c.rows = st.rows ∧
        (∀ r q tok lp, st.failed = none → st.rows = [r] → r.dead = false → r.sample = true → r.drafts = [] → r.req < 32768 →
          rs = [{ status := 0, tokens := [tok], logprobs := [lp] }] → rowReqOf s r = some q → q.ending = none → tokenEnd q tok = none →
          isPast (tokenDue q q.out.length) s.time = false →
          ∃ q', reqAt t r.req = some q' ∧ q'.gate = [(tok, lp)] ∧ q'.lastStatus = stOK ∧ q'.tokens = q.tokens ∧ q'.out = q.out)) ∧
    (∀ peers, firmwareRuns s = true → s.serve.awaited = [] → boundaryDue s = true → s.power.bindOff = none →
      (s.trust.pending = none → ∃ t, exec (.stepBoundary peers) s = .next t ∧ t.trust = s.trust ∧
        t.serve.retryDis = (fld s rCOMMONS_CTL 0 0 == 1) ∧ t.serve.pfxEn = (fld s rPFX_CTL 0 0 == 1) ∧
        t.serve.pfxScope = (fld s rPFX_CTL 1 1 == 1) ∧ (s.tier.maintWant ≠ [] → t.tier.maint = true) ∧
        (peers = [] → s.serve.next = none → t.serve.cur = none) ∧
        (∀ st, peers = [] → s.serve.next = some st → t.serve.awaited ≠ [] ∨
          (t.serve.next = none ∧ ∃ c, t.serve.cur = some c ∧ c.gated = st.gated ∧ c.rows.map (·.req) = st.rows.map (·.req)))) ∧
      (∀ i, s.trust.pending = some i → ∃ t, exec (.stepBoundary peers) s = .next t ∧ t.trust.handover = some s.time ∧
        t.trust.m2 = sha256 (s.trust.m2 ++ i.digest) ∧ t.serve = s.serve ∧ t.mem = s.mem ∧
        fld t rSEC_HANDOVERS 31 0 = min (fld s rSEC_HANDOVERS 31 0 + 1) (2 ^ 32 - 1))) ∧
    (firmwareRuns s = true → idleServe s = true → s.trust.pending = none →
      let u := formStep (toItem15 [] s s.time) s.time
      (u.serve.next = none → exec .stepFormOnDemand s = .next s) ∧
      (∀ st, u.serve.next = some st → ∃ t, exec .stepFormOnDemand s = .next t ∧ (t.serve.awaited ≠ [] ∨
        (t.serve.next = none ∧ ∃ c, t.serve.cur = some c ∧ c.rows.map (·.req) = st.rows.map (·.req))))) ∧
    (s.trust.pending ≠ none → exec .stepFormOnDemand s = .next s) ∧
    (firmwareRuns s = true → idleServe s = true →
      (s.serve.lastScan + 25000 ≤ s.time → ∃ t, exec .idleDeadlineScan s = .next t ∧ t.serve.lastScan = s.time ∧ t.serve.cur = none ∧
        ∀ k q, k < 32768 → reqAt s k = some q → q.ending = none → q.dlPrune = false → q.state ≠ 5 → q.state ≠ 7 → q.missedEnd = false →
          (∀ r ∈ s.serve.reqs, r.1 = k → r.2 = q) → isPast q.completeDl s.time = true → ∃ q', reqAt t k = some q' ∧ q'.missedEnd = true) ∧
      (s.time < s.serve.lastScan + 25000 → exec .idleDeadlineScan s = .next s)) ∧
    (∀ n x, (s.serve.awaited.find? fun y => y.1 == n) = some x →
      (x.2 + 2500 ≤ s.time ∨ exchangeBroken s n = true → ∃ t, exec (.boundaryExchangeTimeout n) s = .next t ∧ (n, s.time) ∈ t.serve.exchange ∧
        t.serve.awaited = s.serve.awaited.filter fun y => y.1 != n) ∧
      (s.time < x.2 + 2500 → exchangeBroken s n = false → exec (.boundaryExchangeTimeout n) s = .next s)) ∧
    (∀ n x peers, (s.serve.exchange.find? fun y => y.1 == n) = some x →
      let others := s.serve.exchange.filter fun y => y.1 != n
      (x.2 + 25000 ≤ s.time → exchangeDone s peers n = true → ∃ t, exec (.boundaryExchangeRetry n peers true) s = .next t ∧
        t.serve.exchange = others ∧ t.mem = s.mem) ∧
      (x.2 + 25000 ≤ s.time → exec (.boundaryExchangeRetry n peers false) s =
        .next { s with serve := { s.serve with exchange := (n, s.time) :: others } }) ∧
      (s.time < x.2 + 25000 → ∀ ok, exec (.boundaryExchangeRetry n peers ok) s = .next s)) ∧
    (let low := fld s rPAGE_WATER 23 0
     let marked := (s.serve.pages.filter fun p => p.2.spill).length
     let cold := (coldPages s 0 fun _ q => q.state == 6 || q.cls == 2).take (low - freePages s 1 - marked)
     (firmwareRuns s = true → capOf s 2 ≠ 0 → freePages s 1 + marked < low → ∃ t, exec .backgroundSpill s = .next t ∧
        t = { s with serve := { s.serve with pages := t.serve.pages } } ∧
        ∀ x ∈ cold, ∃ p, pageAt s x.2 = some p ∧ pageAt t x.2 = some { p with spill := true }) ∧
     (low ≤ freePages s 1 + marked → exec .backgroundSpill s = .next s))

/-- O60. A released task of the vector engine whose reads decode ends with OK, whatever its operation but QUANT, and leaves
exactly what its run writes: the rows of DST; the tiers and the slices stay. Where source and destination do not overlap other
than identically and no read collided, CONVERT leaves in each row the source elements converted, ADD and MUL the sums and
products, ACT the function's values, each rounded once to the destination's format: by RMODE where that narrows or makes an
integer, else to nearest. -/
def Obligations.VectorTasksComplete : Prop :=
  ∀ (s : State) (k : Nat) (sl : Slot) (i : Inst), s.tidy = true →
    let d := sl.desc
    let start := startJob s .clean false
    let ended := fun (t : State) (j : Job) => t.mem = j.mem ∧ look t.disp.window k = some { sl with result := some stOK } ∧
      (∀ m, m ≠ k → look t.disp.window m = look s.disp.window m) ∧ t.disp.insts = s.disp.insts ∧ t.serve = s.serve ∧ t.arr = s.arr ∧
      t.mem.near = s.mem.near ∧ t.mem.far = s.mem.far ∧ t.mem.slices = s.mem.slices
    let at_ := fun (op : Nat) (run : State → Bytes → Job → Job) =>
      released s k 3 (fun d => vOP d == op) = some (sl, i) ∧ (run s d start).ue = none ∧ (run s d start).failed = none
    let left := fun (t : State) (run : State → Bytes → Job → Job) => ended t (run s d start) ∧
      ∀ x, (∀ r < vROWS d, x < vD d + r * vDS d ∨ vD d + r * vDS d + vOut d * elemSize (vDST d) ≤ x) →
        peek t.mem.commons x = peek s.mem.commons x
    let elem := fun (a : Nat) => (elems (vSRC d) (ld s 0 a (elemBytes (vSRC d) (vCOLS d))) (vCOLS d)).map (elemVal (vSRC d))
    let x0 := fun (r : Nat) => elem (vS0 d + r * vSS d)
    let x1 := fun (r : Nat) => elem (vS1 d + (if vOPT d then 0 else r) * vSS d)
    let rows := fun (t : State) (src : Nat) (vals : Nat → List Val) =>
      s.ras.collided = [] → vectorCheck d = true → vClash d = false → vRM d < 2 → vCOLS d ≠ 0 →
      vCOLS d * elemSize (vDST d) ≤ vDS d → ∀ r < vROWS d,
        ld t 0 (vD d + r * vDS d) (vCOLS d * elemSize (vDST d)) =
          (outRow (vDST d) (fun _ => if narrows src (vDST d) then rmodeOf (vRM d) 0 0 0 else .nearest)
            (vSAT d && narrows src (vDST d)) (vals r)).bytes
    (at_ 0x01 runConvert → ∃ t, exec (.vectorConvert k .clean) s = .next t ∧ left t runConvert ∧ rows t (vSRC d) x0) ∧
    (at_ 0x02 (runBinary Val.add) → ∃ t, exec (.vectorAdd k .clean) s = .next t ∧ left t (runBinary Val.add) ∧
      rows t (vSRC d) fun r => ((x0 r).zip (x1 r)).map fun p => p.1.add p.2) ∧
    (at_ 0x03 (runBinary Val.mul) → ∃ t, exec (.vectorMul k .clean) s = .next t ∧ left t (runBinary Val.mul) ∧
      rows t (vSRC d) fun r => ((x0 r).zip (x1 r)).map fun p => p.1.mul p.2) ∧
    (at_ 0x10 runRmsnorm → ∃ t, exec (.rmsnorm k .clean) s = .next t ∧ left t runRmsnorm) ∧
    (at_ 0x11 runLayernorm → ∃ t, exec (.layernorm k .clean) s = .next t ∧ left t runLayernorm) ∧
    (at_ 0x12 runRope → ∃ t, exec (.rope k .clean) s = .next t ∧ left t runRope) ∧
    (at_ 0x13 runAct → ∃ t, exec (.vectorAct k .clean) s = .next t ∧ left t runAct ∧
      rows t 0x80 fun r => (x0 r).map fun v => decode f32 (actFn s.fresh (vP d 0) (rne f32 v))) ∧
    (at_ 0x14 runGated → ∃ t, exec (.gated k .clean) s = .next t ∧ left t runGated) ∧
    (at_ 0x15 runSoftmax → ∃ t, exec (.softmax k .clean) s = .next t ∧ left t runSoftmax) ∧
    (at_ 0x16 runReduce → ∃ t, exec (.vectorReduce k .clean) s = .next t ∧ left t runReduce) ∧
    (at_ 0x30 runGraft → ∃ t, exec (.vectorGraft k .clean) s = .next t ∧ left t runGraft) ∧
    (at_ 0x40 runGemm → ∃ t, exec (.gemm k .clean) s = .next t ∧ left t runGemm)
end

