-- ==== Sys2Proof/Laws/Crc.lean ====
section
/-! SUPPORT. Laws of little-endian numbers and of the cyclic redundancy checks (R10, R352, R393). -/

namespace Sys2Proof.Machine

/-- A number that fits its bytes is read back as written. -/
theorem ofLE_toLE (n : Nat) : ∀ v, v < 256 ^ n → ofLE (toLE n v) = v := by
  induction n with
  | zero => intro v h; simp at h; simp [toLE, ofLE, h]
  | succ n ih =>
    intro v h
    have h2 : v / 256 < 256 ^ n := Nat.div_lt_of_lt_mul (by rw [Nat.pow_succ, Nat.mul_comm] at h; exact h)
    simp only [toLE, ofLE, BitVec.toNat_ofNat, ih _ h2]
    omega

@[simp] theorem toLE_length (n v : Nat) : (toLE n v).length = n := by
  induction n generalizing v with
  | zero => rfl
  | succ n ih => simp [toLE, ih]

theorem crcBits_lt {poly : Nat} (hp : poly < 2 ^ 32) (n : Nat) : ∀ c, c < 2 ^ 32 → crcBits poly n c < 2 ^ 32 := by
  induction n with
  | zero => intro c h; exact h
  | succ n ih =>
    intro c h
    unfold crcBits
    apply ih
    have h2 : c / 2 < 2 ^ 32 := by omega
    split
    · exact Nat.xor_lt_two_pow h2 hp
    · exact h2

theorem crcRun_lt {poly : Nat} (hp : poly < 2 ^ 32) (bs : Bytes) : ∀ c, c < 2 ^ 32 → crcRun poly c bs < 2 ^ 32 := by
  induction bs with
  | nil => intro c h; exact h
  | cons b bs ih =>
    intro c h
    exact ih _ (crcBits_lt hp 8 _ (Nat.xor_lt_two_pow h (by have := b.isLt; omega)))

/-- A CRC of two parts runs over the one and then over the other. -/
theorem crcRun_append (poly c : Nat) (a b : Bytes) : crcRun poly c (a ++ b) = crcRun poly (crcRun poly c a) b := List.foldl_append

theorem crc32c_lt (bs : Bytes) : crc32c bs < 2 ^ 32 :=
  Nat.xor_lt_two_pow (crcRun_lt (by decide) bs _ (by decide)) (by decide)

theorem crc32_lt (bs : Bytes) : crc32 bs < 2 ^ 32 :=
  Nat.xor_lt_two_pow (crcRun_lt (by decide) bs _ (by decide)) (by decide)

/-- The check value of the covered set is a word. -/
theorem checkValue_lt (s : State) : checkValue s < 2 ^ 32 := crc32c_lt _

end Sys2Proof.Machine
end

