-- ==== Sys2Proof/Laws/Tables.lean ====
section
/-! SUPPORT. Laws of the sorted tables: what a store, a removal and a clearing leave under every key, and that each keeps the
canonical form. -/

namespace Sys2Proof.Machine

/-! ### Keys -/

theorem keysAbove_none_of_some {α : Type} {b : Nat} {m : List (Nat × α)} (h : keysAbove (some b) m = true) :
    keysAbove none m = true := by
  cases m with
  | nil => rfl
  | cons c m => simp only [keysAbove, Bool.and_eq_true] at h; exact h.2

theorem keysAbove_mono {α : Type} {b c : Nat} (hbc : c ≤ b) {m : List (Nat × α)} (h : keysAbove (some b) m = true) :
    keysAbove (some c) m = true := by
  cases m with
  | nil => rfl
  | cons x m =>
    simp only [keysAbove, Bool.and_eq_true, decide_eq_true_eq] at h ⊢
    exact ⟨by omega, h.2⟩

theorem look_none_of_keysAbove {α : Type} {m : List (Nat × α)} : ∀ {b a : Nat}, keysAbove (some b) m = true → a ≤ b → look m a = none := by
  induction m with
  | nil => intros; rfl
  | cons c m ih =>
    intro b a h hab
    simp only [keysAbove, Bool.and_eq_true, decide_eq_true_eq] at h
    have h1 : a ≠ c.1 := by omega
    have h2 : a < c.1 := by omega
    simp [look, h1, h2]

/-- A key's value after a store under it. -/
@[simp] theorem look_put_self {α : Type} (m : List (Nat × α)) (i : Nat) (x : α) : look (put m i x) i = some x := by
  induction m with
  | nil => simp [put, look]
  | cons c m ih =>
    simp only [put]
    split
    · rename_i h1; simp [look, h1]
    · split
      · simp [look]
      · rename_i h1 h2; simp [look, h1, h2, ih]

/-- Every other key keeps its value through a store. -/
theorem look_put_ne {α : Type} (m : List (Nat × α)) {i j : Nat} (x : α) (h : j ≠ i) : look (put m i x) j = look m j := by
  induction m with
  | nil => simp [put, look, h]
  | cons c m ih =>
    simp only [put]
    split
    · rename_i h1; subst h1; simp [look, h]
    · split
      · rename_i h1 h2
        by_cases hj : j < i
        · have : j ≠ c.1 := by omega
          have h3 : j < c.1 := by omega
          simp [look, h, hj, this, h3]
        · simp [look, h, hj]
      · simp only [look, ih]

theorem look_put {α : Type} (m : List (Nat × α)) (i j : Nat) (x : α) :
    look (put m i x) j = if j = i then some x else look m j := by
  by_cases h : j = i
  · subst h; simp
  · simp [h, look_put_ne m x h]

/-- A key is absent after its removal. -/
theorem look_del_self {α : Type} {m : List (Nat × α)} (hm : keysAbove none m = true) (i : Nat) : look (del m i) i = none := by
  induction m with
  | nil => rfl
  | cons c m ih =>
    simp only [keysAbove] at hm
    simp only [del]
    split
    · rename_i h1; subst h1; exact look_none_of_keysAbove hm (Nat.le_refl _)
    · split
      · rename_i h1 h2; simp [look, h1, h2]
      · rename_i h1 h2; simp [look, h1, h2, ih (keysAbove_none_of_some hm)]

/-- Every other key keeps its value through a removal. -/
theorem look_del_ne {α : Type} {m : List (Nat × α)} (hm : keysAbove none m = true) {i j : Nat} (h : j ≠ i) :
    look (del m i) j = look m j := by
  induction m with
  | nil => rfl
  | cons c m ih =>
    simp only [keysAbove] at hm
    simp only [del]
    split
    · rename_i h1; subst h1
      by_cases hj : j < c.1
      · simp [look, h, hj, look_none_of_keysAbove hm (Nat.le_of_lt hj)]
      · simp [look, h, hj]
    · split
      · rfl
      · simp only [look, ih (keysAbove_none_of_some hm)]

theorem keysAbove_put {α : Type} {m : List (Nat × α)} : ∀ {b : Option Nat} {i : Nat} {x : α}, keysAbove b m = true →
    (∀ c, b = some c → c < i) → keysAbove b (put m i x) = true := by
  induction m with
  | nil => intro b i x _ hb; cases b with
    | none => rfl
    | some c => simpa [put, keysAbove] using hb c rfl
  | cons c m ih =>
    intro b i x h hb
    have hm : keysAbove (some c.1) m = true := by
      cases b with
      | none => simpa [keysAbove] using h
      | some d => simp only [keysAbove, Bool.and_eq_true] at h; exact h.2
    simp only [put]
    split
    · rename_i h1; subst h1
      cases b with
      | none => simpa [keysAbove] using h
      | some d => simpa [keysAbove] using h
    · split
      · rename_i h1 h2
        cases b with
        | none => simp [keysAbove, h2, hm]
        | some d => simp [keysAbove, h2, hm, hb d rfl]
      · rename_i h1 h2
        have hr := ih (b := some c.1) (i := i) (x := x) hm (by intro d hd; cases hd; omega)
        cases b with
        | none => simpa [keysAbove] using hr
        | some d =>
          simp only [keysAbove, Bool.and_eq_true] at h
          simp [keysAbove, hr, h.1]

theorem keysAbove_del {α : Type} {m : List (Nat × α)} : ∀ {b : Option Nat} {i : Nat}, keysAbove b m = true →
    keysAbove b (del m i) = true := by
  induction m with
  | nil => intro b i h; exact h
  | cons c m ih =>
    intro b i h
    have hm : keysAbove (some c.1) m = true := by
      cases b with
      | none => simpa [keysAbove] using h
      | some d => simp only [keysAbove, Bool.and_eq_true] at h; exact h.2
    simp only [del]
    split
    · cases b with
      | none => exact keysAbove_none_of_some hm
      | some d =>
        simp only [keysAbove, Bool.and_eq_true, decide_eq_true_eq] at h
        exact keysAbove_mono (Nat.le_of_lt h.1) hm
    · split
      · exact h
      · have hr := ih (b := some c.1) (i := i) hm
        cases b with
        | none => simpa [keysAbove] using hr
        | some d =>
          simp only [keysAbove, Bool.and_eq_true] at h
          simp [keysAbove, hr, h.1]

theorem keysAbove_filter {α : Type} {m : List (Nat × α)} (p : Nat × α → Bool) : ∀ {b : Option Nat}, keysAbove b m = true →
    keysAbove b (m.filter p) = true := by
  induction m with
  | nil => intro b h; exact h
  | cons c m ih =>
    intro b h
    have hm : keysAbove (some c.1) m = true := by
      cases b with
      | none => simpa [keysAbove] using h
      | some d => simp only [keysAbove, Bool.and_eq_true] at h; exact h.2
    simp only [List.filter]
    split
    · cases b with
      | none => simpa [keysAbove] using ih hm
      | some d =>
        simp only [keysAbove, Bool.and_eq_true] at h
        simp [keysAbove, ih hm, h.1]
    · cases b with
      | none => exact ih (keysAbove_none_of_some hm)
      | some d =>
        simp only [keysAbove, Bool.and_eq_true, decide_eq_true_eq] at h
        exact ih (keysAbove_mono (Nat.le_of_lt h.1) hm)

theorem all_put {α : Type} {m : List (Nat × α)} {p : Nat × α → Bool} {i : Nat} {x : α} (h : m.all p = true) (hx : p (i, x) = true) :
    (put m i x).all p = true := by
  induction m with
  | nil => simp [put, hx]
  | cons c m ih =>
    simp only [List.all_cons, Bool.and_eq_true] at h
    simp only [put]
    split
    · rename_i h1; subst h1; simp [hx, h.2]
    · split
      · simp [hx, h.1, h.2]
      · simp [h.1, ih h.2]

theorem all_del {α : Type} {m : List (Nat × α)} {p : Nat × α → Bool} {i : Nat} (h : m.all p = true) : (del m i).all p = true := by
  induction m with
  | nil => rfl
  | cons c m ih =>
    simp only [List.all_cons, Bool.and_eq_true] at h
    simp only [del]
    split
    · exact h.2
    · split
      · simp [h.1, h.2]
      · simp [h.1, ih h.2]

theorem all_filter {α : Type} {m : List α} {p q : α → Bool} (h : m.all p = true) : (m.filter q).all p = true := by
  simp only [List.all_eq_true, List.mem_filter] at h ⊢
  exact fun x hx => h x hx.1

/-! ### Memories: every operation keeps the canonical form -/

theorem cellsWf_keys {m : Memory} (h : cellsWf m = true) : keysAbove none m = true := by
  simp only [cellsWf, Bool.and_eq_true] at h; exact h.1

theorem cellsWf_nil : cellsWf [] = true := rfl

theorem cellsWf_poke {m : Memory} (h : cellsWf m = true) (a : Nat) (b : Byte) : cellsWf (poke m a b) = true := by
  simp only [cellsWf, Bool.and_eq_true] at h
  simp only [poke, cellsWf, Bool.and_eq_true]
  split
  · exact ⟨keysAbove_del h.1, all_del h.2⟩
  · rename_i hb
    exact ⟨keysAbove_put h.1 (by intro c hc; cases hc), all_put h.2 (by simpa using hb)⟩

theorem cellsWf_pokes {bs : Bytes} : ∀ {m : Memory}, cellsWf m = true → ∀ a, cellsWf (pokes m a bs) = true := by
  induction bs with
  | nil => intro m h a; exact h
  | cons b bs ih => intro m h a; exact ih (cellsWf_poke h a b) (a + 1)

theorem cellsWf_filter {m : Memory} (h : cellsWf m = true) (p : Host.Cell → Bool) : cellsWf (m.filter p) = true := by
  simp only [cellsWf, Bool.and_eq_true] at h ⊢
  exact ⟨keysAbove_filter p h.1, all_filter h.2⟩

theorem cellsWf_wipe {m : Memory} (h : cellsWf m = true) (a n : Nat) : cellsWf (wipe m a n) = true := cellsWf_filter h _

theorem cellsWf_pokeAll {l : List Host.Cell} (f : Host.Cell → Nat) (g : Host.Cell → Byte) : ∀ {m : Memory}, cellsWf m = true →
    cellsWf (l.foldl (fun m c => poke m (f c) (g c)) m) = true := by
  induction l with
  | nil => intro m h; exact h
  | cons c l ih => intro m h; exact ih (cellsWf_poke h _ _)

/-! ### Memories: what a byte reads as -/

theorem peek_poke {m : Memory} (h : cellsWf m = true) (a i : Nat) (b : Byte) :
    peek (poke m a b) i = if i = a then b else peek m i := by
  simp only [peek, poke]
  split
  · rename_i hb; subst hb
    by_cases hi : i = a
    · subst hi; simp [look_del_self (cellsWf_keys h)]
    · simp [hi, look_del_ne (cellsWf_keys h) hi]
  · by_cases hi : i = a
    · subst hi; simp
    · simp [hi, look_put_ne m b hi]

theorem peek_pokes {bs : Bytes} : ∀ {m : Memory}, cellsWf m = true → ∀ a i,
    peek (pokes m a bs) i = if a ≤ i ∧ i < a + bs.length then bs.getD (i - a) 0 else peek m i := by
  induction bs with
  | nil => intro m h a i; rw [pokes, if_neg (by rw [List.length_nil]; omega)]
  | cons b bs ih =>
    intro m h a i
    rw [pokes, ih (cellsWf_poke h a b) (a + 1) i, peek_poke h]
    by_cases h1 : i = a
    · subst h1
      have : ¬(i + 1 ≤ i ∧ i < i + 1 + bs.length) := by omega
      simp [this]
    · by_cases h2 : a + 1 ≤ i ∧ i < a + 1 + bs.length
      · have h3 : a ≤ i ∧ i < a + (b :: bs).length := by simp only [List.length_cons]; omega
        have h4 : i - a = (i - (a + 1)) + 1 := by omega
        simp only [h2, h3, and_self, if_true, h4]
        simp
      · have h3 : ¬(a ≤ i ∧ i < a + (b :: bs).length) := by simp only [List.length_cons]; omega
        rw [if_neg h2, if_neg h3, if_neg h1]

/-- What was written is what is read. -/
theorem peeks_pokes_self {m : Memory} (h : cellsWf m = true) (a : Nat) (bs : Bytes) : peeks (pokes m a bs) a bs.length = bs := by
  have gen : ∀ n (m : Memory) (a : Nat), (∀ i, i < n → True) → (peeks m a n).length = n := by
    intro n; induction n with
    | zero => intros; rfl
    | succ n ih => intro m a _; simp [peeks, ih m (a + 1) (fun _ _ => trivial)]
  have get : ∀ n (m : Memory) (a i : Nat), i < n → (peeks m a n)[i]? = some (peek m (a + i)) := by
    intro n; induction n with
    | zero => intro m a i hi; omega
    | succ n ih =>
      intro m a i hi
      cases i with
      | zero => simp [peeks]
      | succ i => simp [peeks, ih m (a + 1) i (by omega)]; congr 1; omega
  apply List.ext_getElem?
  intro i
  by_cases hi : i < bs.length
  · rw [get _ _ _ _ hi, peek_pokes h]
    have : a ≤ a + i ∧ a + i < a + bs.length := by omega
    simp [this, hi]
  · rw [List.getElem?_eq_none (by rw [gen _ _ _ (fun _ _ => trivial)]; omega), List.getElem?_eq_none (by omega)]

theorem look_filter {α : Type} (p : Nat × α → Bool) {m : List (Nat × α)} (hm : keysAbove none m = true) (i : Nat) :
    look (m.filter p) i = (look m i).bind fun v => if p (i, v) then some v else none := by
  induction m with
  | nil => rfl
  | cons c m ih =>
    simp only [keysAbove] at hm
    have ih' := ih (keysAbove_none_of_some hm)
    simp only [List.filter, look]
    by_cases h1 : i = c.1
    · subst h1
      have hn : look m c.1 = none := look_none_of_keysAbove hm (Nat.le_refl _)
      split
      · rename_i hp; simp [look, hp]
      · rename_i hp; simp [ih', hn, hp]
    · by_cases h2 : i < c.1
      · have hn : look m i = none := look_none_of_keysAbove hm (Nat.le_of_lt h2)
        split
        · simp [look, h1, h2]
        · simp [ih', hn, h1, h2]
      · split
        · simp [look, h1, h2, ih']
        · simp [ih', h1, h2]

theorem peek_wipe {m : Memory} (h : cellsWf m = true) (a n i : Nat) :
    peek (wipe m a n) i = if a ≤ i ∧ i < a + n then 0 else peek m i := by
  simp only [peek, wipe, look_filter _ (cellsWf_keys h)]
  by_cases hi : a ≤ i ∧ i < a + n
  · cases look m i <;> simp [hi]
  · have : ¬((decide (a ≤ i) && decide (i < a + n)) = true) := by simpa using hi
    cases look m i <;> simp [hi, this]

/-! ### Register files -/

theorem regsWf_keys {m : List (Nat × W32)} (h : regsWf m = true) : keysAbove none m = true := by
  simp only [regsWf, Bool.and_eq_true] at h; exact h.1

theorem regsWf_pokeReg {m : List (Nat × W32)} (h : regsWf m = true) (a v : Nat) : regsWf (pokeReg m a v) = true := by
  simp only [regsWf, Bool.and_eq_true] at h
  simp only [pokeReg, regsWf, Bool.and_eq_true]
  split
  · exact ⟨keysAbove_del h.1, all_del h.2⟩
  · rename_i hb
    exact ⟨keysAbove_put h.1 (by intro c hc; cases hc), all_put h.2 (by simpa using hb)⟩

theorem regsWf_foldl {l : List (Nat × Nat)} : ∀ {m : List (Nat × W32)}, regsWf m = true →
    regsWf (l.foldl (fun m w => pokeReg m w.1 w.2) m) = true := by
  induction l with
  | nil => intro m h; exact h
  | cons c l ih => intro m h; exact ih (regsWf_pokeReg h _ _)

/-- A register word after a store to it, and every other word after it. -/
theorem peekReg_pokeReg {m : List (Nat × W32)} (h : regsWf m = true) (a v i : Nat) :
    peekReg (pokeReg m a v) i = if i = a then v % 2 ^ 32 else peekReg m i := by
  simp only [peekReg, pokeReg]
  split
  · rename_i hb
    by_cases hi : i = a
    · subst hi
      have : v % 2 ^ 32 = 0 := by
        have := congrArg BitVec.toNat hb
        simpa using this
      rw [if_pos rfl, this, look_del_self (regsWf_keys h)]
      rfl
    · simp [hi, look_del_ne (regsWf_keys h) hi]
  · by_cases hi : i = a
    · subst hi; simp
    · simp [hi, look_put_ne m _ hi]

theorem peekReg_lt (m : List (Nat × W32)) (a : Nat) : peekReg m a < 2 ^ 32 := ((look m a).getD 0).isLt

end Sys2Proof.Machine
end

