-- ==== Sys2Proof/Laws/KeepsBase.lean ====
section
/-! SUPPORT. The canonical form of the memories and the register file (`State.tidy`) as a property of five fields, and the rules by
which it is shown of a function. -/

namespace Sys2Proof.Machine

/-- The five fields in canonical form. -/
structure Kept (c n f sl : Memory) (r : List (Nat × W32)) : Prop where
  commons : cellsWf c = true
  near    : cellsWf n = true
  far     : cellsWf f = true
  slices  : cellsWf sl = true
  regs    : regsWf r = true

theorem tidy_iff {s : State} : s.tidy = true ↔ Kept s.mem.commons s.mem.near s.mem.far s.mem.slices s.regs := by
  constructor
  · intro h
    simp only [State.tidy, Memory.wf, Bool.and_eq_true] at h
    obtain ⟨⟨⟨⟨h1, h2⟩, h3⟩, h4⟩, h5⟩ := h
    exact ⟨h1, h2, h3, h4, h5⟩
  · intro h
    simp only [State.tidy, Memory.wf, h.commons, h.near, h.far, h.slices, h.regs, Bool.and_self]

theorem kept_of {s : State} (h : s.tidy = true) : Kept s.mem.commons s.mem.near s.mem.far s.mem.slices s.regs := tidy_iff.mp h
theorem wf_commons {s : State} (h : s.tidy = true) : cellsWf s.mem.commons = true := (tidy_iff.mp h).commons
theorem wf_near {s : State} (h : s.tidy = true) : cellsWf s.mem.near = true := (tidy_iff.mp h).near
theorem wf_far {s : State} (h : s.tidy = true) : cellsWf s.mem.far = true := (tidy_iff.mp h).far
theorem wf_slices {s : State} (h : s.tidy = true) : cellsWf s.mem.slices = true := (tidy_iff.mp h).slices
theorem wf_regs {s : State} (h : s.tidy = true) : regsWf s.regs = true := (tidy_iff.mp h).regs

/-- The canonical form of the two fields of a state that have one. -/
def tidyParts (m : Mems) (r : List (Nat × W32)) : Bool :=
  cellsWf m.commons && cellsWf m.near && cellsWf m.far && cellsWf m.slices && regsWf r

theorem tidy_mk {pending : List Instr} {time fresh : Nat} {fuses : Fuses} {regs : List (Nat × W32)} {mem : Mems}
    {blocks : List (Nat × Block)} {kct : Kct} {arr : Arrays} {disp : Disp} {models : List (Nat × Model)}
    {graphs : List (Nat × InstGraph)} {serve : Serve} {graft : Grafts} {tier : Tiers} {power : Power} {link : Links} {coll : Colls}
    {trust : Trust} {ras : Ras} {pins : Pins} :
    State.tidy { pending := pending, time := time, fresh := fresh, fuses := fuses, regs := regs, mem := mem, blocks := blocks,
                 kct := kct, arr := arr, disp := disp, models := models, graphs := graphs, serve := serve, graft := graft,
                 tier := tier, power := power, link := link, coll := coll, trust := trust, ras := ras, pins := pins }
      = tidyParts mem regs := rfl

theorem parts_of {s : State} (h : s.tidy = true) : tidyParts s.mem s.regs = true := h

theorem parts_mk {c n f sl : Memory} {bad : List (Nat × Nat)} {r : List (Nat × W32)} (h : Kept c n f sl r) :
    tidyParts { commons := c, near := n, far := f, slices := sl, bad := bad } r = true := by
  simp only [tidyParts, h.commons, h.near, h.far, h.slices, h.regs, Bool.and_self]

theorem parts_regs {s : State} (h : s.tidy = true) {r : List (Nat × W32)} (hr : regsWf r = true) : tidyParts s.mem r = true := by
  have k := kept_of h
  simp only [tidyParts, k.commons, k.near, k.far, k.slices, hr, Bool.and_self]

/-- A state whose memories and registers are those of a tidy one. -/
theorem tidy_of_eq {s t : State} (h : s.tidy = true) (hm : t.mem = s.mem) (hr : t.regs = s.regs) : t.tidy = true := by
  rw [tidy_iff] at h ⊢; rw [hm, hr]; exact h

theorem tidy_foldl {α : Type} {f : State → α → State} {l : List α} (hf : ∀ s x, s.tidy = true → (f s x).tidy = true) :
    ∀ {s : State}, s.tidy = true → (l.foldl f s).tidy = true := by
  induction l with
  | nil => intro s h; exact h
  | cons a l ih => intro s h; exact ih (hf s a h)

theorem tidy_foldl_snd {α β : Type} {f : β × State → α → β × State} {l : List α}
    (hf : ∀ s x, s.2.tidy = true → (f s x).2.tidy = true) : ∀ {s : β × State}, s.2.tidy = true → (l.foldl f s).2.tidy = true := by
  induction l with
  | nil => intro s h; exact h
  | cons a l ih => intro s h; exact ih (hf s a h)

theorem tidy_foldl_fst {α β : Type} {f : State × β → α → State × β} {l : List α}
    (hf : ∀ s x, s.1.tidy = true → (f s x).1.tidy = true) : ∀ {s : State × β}, s.1.tidy = true → (l.foldl f s).1.tidy = true := by
  induction l with
  | nil => intro s h; exact h
  | cons a l ih => intro s h; exact ih (hf s a h)

theorem tidy_ite {c : Prop} [Decidable c] {a b : State} (ha : c → a.tidy = true) (hb : ¬c → b.tidy = true) :
    (if c then a else b).tidy = true := by
  split
  · exact ha ‹_›
  · exact hb ‹_›

/-- The memory of a space in canonical form. -/
theorem wf_memOf {s : State} (h : s.tidy = true) (sp : Nat) : cellsWf (memOf s.mem sp) = true := by
  unfold memOf
  split
  · exact wf_commons h
  · exact wf_near h
  · exact wf_far h
  · exact wf_slices h

/-- A state with the memory of a space replaced by one in canonical form. -/
theorem tidy_setMem {s : State} (h : s.tidy = true) (sp : Nat) {x : Memory} (hx : cellsWf x = true) (bad : List (Nat × Nat)) :
    ({ s with mem := { setMem s.mem sp x with bad := bad } } : State).tidy = true := by
  rw [tidy_iff]
  have k := kept_of h
  unfold setMem
  split
  · exact ⟨hx, k.near, k.far, k.slices, k.regs⟩
  · exact ⟨k.commons, hx, k.far, k.slices, k.regs⟩
  · exact ⟨k.commons, k.near, hx, k.slices, k.regs⟩
  · exact ⟨k.commons, k.near, k.far, hx, k.regs⟩

/-! ### Jobs -/

/-- The memories a job works on are in canonical form. -/
def Job.tidy (j : Job) : Bool := tidyParts j.mem []

theorem job_mk {m : Mems} {v : Ecc} {ue : Option (Nat × Nat)} {ce tr : List (Nat × Nat)} {sat nan rescue : Nat}
    {cs : List (Nat × Nat × Nat × Nat)} {f : Option JobFail} {outs : List Bytes} {g : List (Nat × Nat)} :
    Job.tidy { mem := m, verdict := v, ue := ue, ce := ce, traffic := tr, sat := sat, nan := nan, rescue := rescue, counts := cs,
               failed := f, outs := outs, ghosts := g } = tidyParts m [] := rfl

theorem job_parts {j : Job} (h : j.tidy = true) : tidyParts j.mem [] = true := h

theorem job_start {s : State} (h : s.tidy = true) (e : Ecc) : (Job.start s.mem e).tidy = true := by
  have k := kept_of h
  simp only [Job.start, Job.tidy, tidyParts, k.commons, k.near, k.far, k.slices, Bool.and_self, Bool.true_and]
  rfl

/-- A job's memories put into a tidy state. -/
theorem parts_job {s : State} {j : Job} (hj : j.tidy = true) (h : s.tidy = true) : tidyParts j.mem s.regs = true := by
  have k := kept_of h
  simp only [Job.tidy, tidyParts, Bool.and_eq_true] at hj ⊢
  exact ⟨hj.1, k.regs⟩

theorem job_foldl {α : Type} {f : Job → α → Job} {l : List α} (hf : ∀ j x, j.tidy = true → (f j x).tidy = true) :
    ∀ {j : Job}, j.tidy = true → (l.foldl f j).tidy = true := by
  induction l with
  | nil => intro j h; exact h
  | cons a l ih => intro j h; exact ih (hf j a h)

theorem job_foldl_snd {α β : Type} {f : β × Job → α → β × Job} {l : List α}
    (hf : ∀ j x, j.2.tidy = true → (f j x).2.tidy = true) : ∀ {j : β × Job}, j.2.tidy = true → (l.foldl f j).2.tidy = true := by
  induction l with
  | nil => intro j h; exact h
  | cons a l ih => intro j h; exact ih (hf j a h)

theorem job_foldl_fst {α β : Type} {f : Job × β → α → Job × β} {l : List α}
    (hf : ∀ j x, j.1.tidy = true → (f j x).1.tidy = true) : ∀ {j : Job × β}, j.1.tidy = true → (l.foldl f j).1.tidy = true := by
  induction l with
  | nil => intro j h; exact h
  | cons a l ih => intro j h; exact ih (hf j a h)

theorem Job.wr_tidy {j : Job} (h : j.tidy = true) (sp a : Nat) (bs : Bytes) : (j.wr sp a bs).tidy = true := by
  unfold Job.wr
  split
  · exact h
  · simp only [Job.tidy, tidyParts, Bool.and_eq_true] at h ⊢
    obtain ⟨⟨⟨⟨h1, h2⟩, h3⟩, h4⟩, h5⟩ := h
    simp only [setMem, memOf]
    split <;> simp only [h1, h2, h3, h4, h5, cellsWf_pokes, and_self]

theorem Job.rd_tidy {j : Job} (h : j.tidy = true) (sp a n : Nat) : (j.rd sp a n).2.tidy = true := by
  unfold Job.rd
  split
  · exact h
  · split
    · exact h
    · dsimp only
      split <;> exact h

theorem Job.tally_tidy {j : Job} (h : j.tidy = true) (r hi lo n : Nat) : (j.tally r hi lo n).tidy = true := by
  unfold Job.tally; split <;> exact h
theorem Job.conv_tidy {j : Job} (h : j.tidy = true) (a b : Nat) : (j.conv a b).tidy = true := by
  unfold Job.conv; split <;> exact h
theorem Job.rescued_tidy {j : Job} (h : j.tidy = true) (n : Nat) : (j.rescued n).tidy = true := by
  unfold Job.rescued; split <;> exact h
theorem Job.out_tidy {j : Job} (h : j.tidy = true) (b : Bytes) : (j.out b).tidy = true := by
  unfold Job.out; split <;> exact h
theorem Job.putRow_tidy {j : Job} (h : j.tidy = true) (sp a : Nat) (o : OutElem) : (j.putRow sp a o).tidy = true :=
  Job.conv_tidy (Job.wr_tidy h _ _ _) _ _
theorem Job.rows_tidy {j : Job} {l : List Nat} {f : Job → Nat → Job} (hf : ∀ j r, j.tidy = true → (f j r).tidy = true)
    (h : j.tidy = true) : (j.rows l f).tidy = true :=
  job_foldl (fun j r hj => by split; exact hj; exact hf j r hj) h

end Sys2Proof.Machine
end

