-- ==== Sys2Proof/Laws/KeepsOps.lean ====
section
/-! SUPPORT. Ops: every function keeps the canonical form of the memories and the registers. -/

namespace Sys2Proof.Machine

theorem wr_tidy {s : State} (a v : Nat) (hs : s.tidy = true) :
    (wr s a v).tidy = true := by
  unfold wr
  try dsimp only
  repeat' first
    | with_reducible assumption | (simp only [tidy_mk]) | (with_reducible apply parts_of) | (with_reducible apply parts_regs)
    | (with_reducible apply regsWf_pokeReg) | (with_reducible apply wf_regs) | intro _ | split

theorem setFld_tidy {s : State} (a hi lo x : Nat) (hs : s.tidy = true) :
    (setFld s a hi lo x).tidy = true := by
  unfold setFld
  try dsimp only
  repeat' first
    | with_reducible assumption | (with_reducible apply wr_tidy) | intro _ | split

theorem bump_tidy {s : State} (a hi lo n : Nat) (hs : s.tidy = true) :
    (bump s a hi lo n).tidy = true := by
  unfold bump
  try dsimp only
  repeat' first
    | with_reducible assumption | (with_reducible apply setFld_tidy) | intro _ | split

theorem wr64_tidy {s : State} (a v : Nat) (hs : s.tidy = true) :
    (wr64 s a v).tidy = true := by
  unfold wr64
  try dsimp only
  repeat' first
    | with_reducible assumption | (with_reducible apply wr_tidy) | intro _ | split

theorem bump64_tidy {s : State} (a n : Nat) (hs : s.tidy = true) :
    (bump64 s a n).tidy = true := by
  unfold bump64
  try dsimp only
  repeat' first
    | with_reducible assumption | (with_reducible apply wr64_tidy) | (with_reducible apply tidy_ite) | intro _ | split

theorem st_tidy {s : State} (h : s.tidy = true) (sp a : Nat) (bs : Bytes) : (st s sp a bs).tidy = true :=
  tidy_setMem h sp (cellsWf_pokes (wf_memOf h sp) a) _

theorem wipeRange_tidy {s : State} (h : s.tidy = true) (sp a n : Nat) : (wipeRange s sp a n).tidy = true :=
  tidy_setMem h sp (cellsWf_wipe (wf_memOf h sp) a n) _

theorem markBad_tidy {s : State} (sp word : Nat) (hs : s.tidy = true) :
    (markBad s sp word).tidy = true := by
  unfold markBad
  try dsimp only
  repeat' first
    | with_reducible assumption | (with_reducible apply tidy_ite) | (simp only [tidy_mk]) | (with_reducible apply parts_of)
    | (with_reducible apply parts_mk) | (with_reducible refine Kept.mk ?_ ?_ ?_ ?_ ?_) | (with_reducible apply wf_commons)
    | (with_reducible apply wf_near) | (with_reducible apply wf_far) | (with_reducible apply wf_slices)
    | (with_reducible apply wf_regs) | (with_reducible exact cellsWf_nil) | (with_reducible apply cellsWf_filter)
    | (with_reducible apply cellsWf_pokeAll) | intro _ | split

theorem copyMarks_tidy {s : State} (bad : List (Nat × Nat)) (sp a n dsp d : Nat) (hs : s.tidy = true) :
    (copyMarks s bad sp a n dsp d).tidy = true := by
  unfold copyMarks
  try dsimp only
  repeat' first
    | with_reducible assumption | (with_reducible apply markBad_tidy) | (with_reducible apply tidy_foldl)
    | (with_reducible apply tidy_ite) | intro _ | split

theorem copyRange_tidy {s : State} (sp a n dsp d : Nat) (h : s.tidy = true) : (copyRange s sp a n dsp d).tidy = true := by
  have hw : (wipeRange s dsp d n).tidy = true := wipeRange_tidy h dsp d n
  have hx := cellsWf_pokeAll (l := ((memOf s.mem sp).filter fun c => a ≤ c.1 && c.1 < a + n).map fun c => (c.1 - a + d, c.2))
    (fun c => c.1) (fun c => c.2) (wf_memOf hw dsp)
  exact copyMarks_tidy _ _ _ _ _ _ (tidy_setMem hw dsp hx _)

theorem putBlock_tidy {s : State} (sp b : Nat) (x : Block) (hs : s.tidy = true) :
    (putBlock s sp b x).tidy = true := by
  unfold putBlock
  try dsimp only
  repeat' first
    | with_reducible assumption | (with_reducible apply tidy_ite) | (simp only [tidy_mk]) | (with_reducible apply parts_of)
    | intro _ | split

theorem charge_tidy {s : State} (res p b : Nat) (hs : s.tidy = true) :
    (charge s res p b).tidy = true := by
  unfold charge
  try dsimp only
  repeat' first
    | with_reducible assumption | (with_reducible apply tidy_ite) | (simp only [tidy_mk]) | (with_reducible apply parts_of)
    | intro _ | split

theorem refill_tidy {s : State} (res p : Nat) (hs : s.tidy = true) :
    (refill s res p).tidy = true := by
  unfold refill
  try dsimp only
  repeat' first
    | with_reducible assumption | (with_reducible apply tidy_ite) | (simp only [tidy_mk]) | (with_reducible apply parts_of)
    | intro _ | split

theorem zeroBlock_tidy {s : State} (sp b : Nat) (hs : s.tidy = true) :
    (zeroBlock s sp b).tidy = true := by
  unfold zeroBlock
  try dsimp only
  repeat' first
    | with_reducible assumption | (with_reducible apply wipeRange_tidy) | (with_reducible apply charge_tidy)
    | (with_reducible apply tidy_ite) | intro _ | split

theorem grantBlock_tidy {s : State} (c sp b : Nat) (hs : s.tidy = true) :
    (grantBlock s c sp b).tidy = true := by
  unfold grantBlock
  try dsimp only
  repeat' first
    | with_reducible assumption | (with_reducible apply putBlock_tidy) | (with_reducible apply zeroBlock_tidy)
    | (with_reducible apply tidy_ite) | (simp only [tidy_mk]) | (with_reducible apply parts_of) | intro _ | split

theorem grantRun_tidy : ∀ (n_ : Nat) {s : State} (c sp b : Nat), s.tidy = true →
    (grantRun s c sp b n_).tidy = true := by
  intro n_
  induction n_ with
  | zero => intros; unfold grantRun; assumption
  | succ n_ ih =>
  intros
  unfold grantRun
  try dsimp only
  repeat' first
    | with_reducible assumption | (with_reducible apply ih) | (with_reducible apply grantBlock_tidy)
    | (with_reducible apply grantRun_tidy) | intro _ | split

theorem freeNow_tidy {s : State} (sp b : Nat) (hs : s.tidy = true) :
    (freeNow s sp b).tidy = true := by
  unfold freeNow
  try dsimp only
  repeat' first
    | with_reducible assumption | (with_reducible apply putBlock_tidy) | (with_reducible apply zeroBlock_tidy)
    | (with_reducible apply tidy_ite) | (simp only [tidy_mk]) | (with_reducible apply parts_of) | intro _ | split

theorem freeBlock_tidy {s : State} (sp b : Nat) (hs : s.tidy = true) :
    (freeBlock s sp b).tidy = true := by
  unfold freeBlock
  try dsimp only
  repeat' first
    | with_reducible assumption | (with_reducible apply freeNow_tidy) | (with_reducible apply tidy_ite)
    | (simp only [tidy_mk]) | (with_reducible apply parts_of) | intro _ | split

theorem freeRunOf_tidy : ∀ (n_ : Nat) {s : State} (sp b : Nat), s.tidy = true →
    (freeRunOf s sp b n_).tidy = true := by
  intro n_
  induction n_ with
  | zero => intros; unfold freeRunOf; assumption
  | succ n_ ih =>
  intros
  unfold freeRunOf
  try dsimp only
  repeat' first
    | with_reducible assumption | (with_reducible apply ih) | (with_reducible apply freeBlock_tidy)
    | (with_reducible apply freeRunOf_tidy) | intro _ | split

theorem takeRun_tidy {s : State} {sp n b : Nat} {t : State} (e : takeRun s sp n = some (b, t)) (h : s.tidy = true) : t.tidy = true := by
  unfold takeRun at e
  cases hf : findRun s 0 sp n with
  | none => rw [hf] at e; cases e
  | some c =>
    rw [hf] at e
    simp only [Option.map_some, Option.some.injEq, Prod.mk.injEq] at e
    rw [← e.2]
    exact grantRun_tidy _ _ _ _ (tidy_of_eq h rfl rfl)

theorem setCtx_tidy {s : State} (c : Nat) (x : Ctx) (hs : s.tidy = true) :
    (setCtx s c x).tidy = true := by
  unfold setCtx
  try dsimp only
  repeat' first
    | with_reducible assumption | (simp only [tidy_mk]) | (with_reducible apply parts_of) | intro _ | split

theorem modCtx_tidy {s : State} (c : Nat) (f : Ctx → Ctx) (hs : s.tidy = true) :
    (modCtx s c f).tidy = true := by
  unfold modCtx
  try dsimp only
  repeat' first
    | with_reducible assumption | (simp only [tidy_mk]) | (with_reducible apply parts_of) | intro _ | split

theorem put1_tidy {s : State} (o : Out) (hs : s.tidy = true) :
    (put1 s o).tidy = true := by
  unfold put1
  try dsimp only
  repeat' first
    | with_reducible assumption | (simp only [tidy_mk]) | (with_reducible apply parts_of) | intro _ | split

theorem setLink_tidy {s : State} (n : Nat) (l : Link) (hs : s.tidy = true) :
    (setLink s n l).tidy = true := by
  unfold setLink
  try dsimp only
  repeat' first
    | with_reducible assumption | (simp only [tidy_mk]) | (with_reducible apply parts_of) | intro _ | split

theorem modLink_tidy {s : State} (n : Nat) (f : Link → Link) (hs : s.tidy = true) :
    (modLink s n f).tidy = true := by
  unfold modLink
  try dsimp only
  repeat' first
    | with_reducible assumption | (with_reducible apply setLink_tidy) | intro _ | split

theorem sendFlit_tidy {s : State} (n : Nat) (l : Link) (j : FlitJob) (hs : s.tidy = true) :
    (sendFlit s n l j).tidy = true := by
  unfold sendFlit
  try dsimp only
  repeat' first
    | with_reducible assumption | (with_reducible apply bump64_tidy) | (with_reducible apply charge_tidy)
    | (with_reducible apply put1_tidy) | (with_reducible apply setLink_tidy) | (with_reducible apply tidy_ite)
    | (simp only [tidy_mk]) | (with_reducible apply parts_of) | intro _ | split

theorem startRetrain_tidy {s : State} (n : Nat) (hs : s.tidy = true) :
    (startRetrain s n).tidy = true := by
  unfold startRetrain
  try dsimp only
  repeat' first
    | with_reducible assumption | (with_reducible apply bump_tidy) | (with_reducible apply modLink_tidy)
    | (with_reducible apply tidy_ite) | (simp only [tidy_mk]) | (with_reducible apply parts_of) | intro _ | split

theorem sendAgain_tidy {s : State} (n : Nat) (l : Link) (hs : s.tidy = true) :
    (sendAgain s n l).tidy = true := by
  unfold sendAgain
  try dsimp only
  repeat' first
    | with_reducible assumption | (with_reducible apply bump64_tidy) | (with_reducible apply charge_tidy)
    | (with_reducible apply put1_tidy) | (with_reducible apply setLink_tidy) | (with_reducible apply startRetrain_tidy)
    | (with_reducible apply tidy_ite) | (simp only [tidy_mk]) | (with_reducible apply parts_of) | intro _ | split

theorem pumpLink_tidy : ∀ (n_ : Nat) {s : State} (n : Nat), s.tidy = true →
    (pumpLink s n n_).tidy = true := by
  intro n_
  induction n_ with
  | zero => intros; unfold pumpLink; assumption
  | succ n_ ih =>
  intros
  unfold pumpLink
  try dsimp only
  repeat' first
    | with_reducible assumption | (with_reducible apply ih) | (with_reducible apply sendFlit_tidy)
    | (with_reducible apply sendAgain_tidy) | (with_reducible apply pumpLink_tidy) | (with_reducible apply tidy_ite)
    | (simp only [tidy_mk]) | (with_reducible apply parts_of) | intro _ | split

theorem queueOn_tidy {s : State} (n : Nat) (j : FlitJob) (hs : s.tidy = true) :
    (queueOn s n j).tidy = true := by
  unfold queueOn
  try dsimp only
  repeat' first
    | with_reducible assumption | (with_reducible apply modLink_tidy) | (with_reducible apply pumpLink_tidy)
    | (simp only [tidy_mk]) | (with_reducible apply parts_of) | intro _ | split

theorem takePktSeq_tidy {s : State} (dst : Nat) (hs : s.tidy = true) :
    (takePktSeq s dst).2.tidy = true := by
  unfold takePktSeq
  try dsimp only
  repeat' first
    | with_reducible assumption | (simp only [tidy_mk]) | (with_reducible apply parts_of) | intro _ | split
theorem takePktSeq_tidy_eq {s : State} {dst : Nat} {x : Nat} {t : State} (e : takePktSeq s dst = (x, t)) (hs : s.tidy = true) :
    t.tidy = true := by
  have := takePktSeq_tidy dst hs; rw [e] at this; exact this

theorem sendKctOn_tidy {s : State} (n : Nat) (h : Hdr) (payload : Bytes) (hs : s.tidy = true) :
    (sendKctOn s n h payload).tidy = true := by
  unfold sendKctOn
  try dsimp only
  repeat' first
    | with_reducible assumption | (with_reducible apply queueOn_tidy) | (with_reducible apply takePktSeq_tidy)
    | (with_reducible refine takePktSeq_tidy_eq (by with_reducible assumption) ?_) | intro _ | split

theorem wire_tidy {s : State} (o : Out) (hs : s.tidy = true) :
    (wire s o).tidy = true := by
  unfold wire
  try dsimp only
  repeat' first
    | with_reducible assumption | (with_reducible apply put1_tidy) | (simp only [tidy_mk]) | (with_reducible apply parts_of)
    | intro _ | split

theorem hostSend_tidy {s : State} (o : Out) (hs : s.tidy = true) :
    (hostSend s o).tidy = true := by
  unfold hostSend
  try dsimp only
  repeat' first
    | with_reducible assumption | (with_reducible apply bump64_tidy) | (with_reducible apply wire_tidy)
    | (with_reducible apply tidy_ite) | (simp only [tidy_mk]) | (with_reducible apply parts_of) | intro _ | split

theorem emit_tidy {s : State} (p : OutPkt) (hs : s.tidy = true) :
    (emit s p).tidy = true := by
  unfold emit
  try dsimp only
  repeat' first
    | with_reducible assumption | (with_reducible apply sendKctOn_tidy) | (with_reducible apply hostSend_tidy)
    | (simp only [tidy_mk]) | (with_reducible apply parts_of) | intro _ | split

theorem takeEce_tidy {s : State} (dst : Endpoint) (hs : s.tidy = true) :
    (takeEce s dst).2.tidy = true := by
  unfold takeEce
  try dsimp only
  repeat' first
    | with_reducible assumption | (simp only [tidy_mk]) | (with_reducible apply parts_of) | intro _ | split
theorem takeEce_tidy_eq {s : State} {dst : Endpoint} {x : Bool} {t : State} (e : takeEce s dst = (x, t)) (hs : s.tidy = true) :
    t.tidy = true := by
  have := takeEce_tidy dst hs; rw [e] at this; exact this

theorem bareReply_tidy {s : State} (r : Req) (status detail : Nat) (hs : s.tidy = true) :
    (bareReply s r status detail).tidy = true := by
  unfold bareReply
  try dsimp only
  repeat' first
    | with_reducible assumption | (with_reducible apply emit_tidy) | (with_reducible apply takeEce_tidy)
    | (with_reducible refine takeEce_tidy_eq (by with_reducible assumption) ?_) | (simp only [tidy_mk])
    | (with_reducible apply parts_of) | intro _ | split

theorem sendSegment_tidy {s : State} (x : OutXfer) (i : Nat) (hs : s.tidy = true) :
    (sendSegment s x i).tidy = true := by
  unfold sendSegment
  try dsimp only
  repeat' first
    | with_reducible assumption | (with_reducible apply emit_tidy) | (with_reducible apply takeEce_tidy)
    | (with_reducible refine takeEce_tidy_eq (by with_reducible assumption) ?_) | (simp only [tidy_mk])
    | (with_reducible apply parts_of) | intro _ | split

theorem pump_tidy : ∀ (n : Nat) {s : State} (x : OutXfer), s.tidy = true → (pump s x n).1.tidy = true := by
  intro n
  induction n with
  | zero => intro s x h; exact h
  | succ n ih =>
    intro s x h
    unfold pump
    split
    · exact ih _ (sendSegment_tidy _ _ h)
    · exact h

theorem beginXfer_tidy {s : State} (via : Option Nat) (dst : Endpoint) (h : Hdr) (data : Bytes) (hs : s.tidy = true) :
    (beginXfer s via dst h data).tidy = true := by
  unfold beginXfer
  try dsimp only
  repeat' first
    | with_reducible assumption | (with_reducible apply pump_tidy) | (simp only [tidy_mk]) | (with_reducible apply parts_of)
    | intro _ | split

theorem replyTo_tidy {s : State} (r : Req) (status detail : Nat) (payload : Bytes) (hs : s.tidy = true) :
    (replyTo s r status detail payload).tidy = true := by
  unfold replyTo
  try dsimp only
  repeat' first
    | with_reducible assumption | (with_reducible apply modCtx_tidy) | (with_reducible apply emit_tidy)
    | (with_reducible apply takeEce_tidy) | (with_reducible refine takeEce_tidy_eq (by with_reducible assumption) ?_)
    | (with_reducible apply beginXfer_tidy) | (with_reducible apply tidy_ite) | (simp only [tidy_mk])
    | (with_reducible apply parts_of) | intro _ | split

theorem fail_tidy {s : State} (r : Req) (status : Nat) (detail : Nat) (hs : s.tidy = true) :
    (fail s r status detail).tidy = true := by
  unfold fail
  try dsimp only
  repeat' first
    | with_reducible assumption | (with_reducible apply replyTo_tidy) | intro _ | split

theorem sendEvent_tidy {s : State} (c : Nat) (via : Option Nat) (b : Sub) (e : EventMsg) (hs : s.tidy = true) :
    (sendEvent s c via b e).tidy = true := by
  unfold sendEvent
  try dsimp only
  repeat' first
    | with_reducible assumption | (with_reducible apply modCtx_tidy) | (with_reducible apply emit_tidy)
    | (simp only [tidy_mk]) | (with_reducible apply parts_of) | intro _ | split

theorem flushSub_tidy : ∀ (n_ : Nat) {s : State} (c : Nat), s.tidy = true →
    (flushSub s c n_).tidy = true := by
  intro n_
  induction n_ with
  | zero => intros; unfold flushSub; assumption
  | succ n_ ih =>
  intros
  unfold flushSub
  try dsimp only
  repeat' first
    | with_reducible assumption | (with_reducible apply ih) | (with_reducible apply sendEvent_tidy)
    | (with_reducible apply flushSub_tidy) | (simp only [tidy_mk]) | (with_reducible apply parts_of) | intro _ | split

theorem notify_tidy {s : State} (c code : Nat) (tag : W32) (sev : Nat) (body : Bytes) (detail : Nat) (hs : s.tidy = true) :
    (notify s c code tag sev body detail).tidy = true := by
  unfold notify
  try dsimp only
  repeat' first
    | with_reducible assumption | (with_reducible apply setCtx_tidy) | (with_reducible apply flushSub_tidy)
    | (with_reducible apply tidy_ite) | (simp only [tidy_mk]) | (with_reducible apply parts_of) | intro _ | split

theorem notifyAll_tidy {s : State} (code sev : Nat) (body : Bytes) (hs : s.tidy = true) :
    (notifyAll s code sev body).tidy = true := by
  unfold notifyAll
  try dsimp only
  repeat' first
    | with_reducible assumption | (with_reducible apply notify_tidy) | (with_reducible apply tidy_foldl) | intro _ | split

theorem pushRecord_tidy {s : State} (b : Bytes) (hs : s.tidy = true) :
    (pushRecord s b).tidy = true := by
  unfold pushRecord
  try dsimp only
  repeat' first
    | with_reducible assumption | (with_reducible apply tidy_ite) | (simp only [tidy_mk]) | (with_reducible apply parts_of)
    | intro _ | split

theorem record_tidy {s : State} (f : FaultRec) (hs : s.tidy = true) :
    (record s f).tidy = true := by
  unfold record
  try dsimp only
  repeat' first
    | with_reducible assumption | (with_reducible apply bump_tidy) | (with_reducible apply notify_tidy)
    | (with_reducible apply pushRecord_tidy) | (with_reducible apply tidy_ite) | (simp only [tidy_mk])
    | (with_reducible apply parts_of) | intro _ | split

theorem corrected_tidy {s : State} (unit n : Nat) (hs : s.tidy = true) :
    (corrected s unit n).tidy = true := by
  unfold corrected
  try dsimp only
  repeat' first
    | with_reducible assumption | (with_reducible apply bump_tidy) | intro _ | split

theorem whenOn_tidy {s : State} (f : State → State) (hs : s.tidy = true) (hf : ∀ s, s.tidy = true → (f s).tidy = true) :
    (whenOn s f).tidy = true := by
  unfold whenOn
  try dsimp only
  repeat' first
    | with_reducible assumption | (with_reducible apply hf) | (with_reducible apply tidy_ite) | intro _ | split

theorem takeFree_tidy {s : State} (hs : s.tidy = true) :
    (takeFree s).2.tidy = true := by
  unfold takeFree
  try dsimp only
  repeat' first
    | with_reducible assumption | (simp only [tidy_mk]) | (with_reducible apply parts_of) | intro _ | split
theorem takeFree_tidy_eq {s : State} {x : Nat} {t : State} (e : takeFree s = (x, t)) (hs : s.tidy = true) :
    t.tidy = true := by
  have := takeFree_tidy  hs; rw [e] at this; exact this

theorem failModule_tidy {s : State} (unit : Nat) (hs : s.tidy = true) :
    (failModule s unit).tidy = true := by
  unfold failModule
  try dsimp only
  repeat' first
    | with_reducible assumption | (with_reducible apply notifyAll_tidy) | (with_reducible apply record_tidy)
    | (with_reducible apply takeFree_tidy) | (with_reducible refine takeFree_tidy_eq (by with_reducible assumption) ?_)
    | (with_reducible apply tidy_ite) | (simp only [tidy_mk]) | (with_reducible apply parts_of) | intro _ | split

end Sys2Proof.Machine
end

