-- ==== Sys2Proof/Laws/KeepsRegs.lean ====
section
/-! SUPPORT. Regs: every function keeps the canonical form of the memories and the registers. -/

namespace Sys2Proof.Machine

theorem readReg_tidy {s : State} (clear : Bool) (a : Nat) (h : s.tidy = true) : (readReg s clear a).2.tidy = true := by
  unfold readReg
  split
  · exact h
  · dsimp only
    repeat' first
      | with_reducible assumption | (with_reducible apply wr_tidy) | (with_reducible apply tidy_ite) | intro _ | split

theorem readRegs_tidy (l : List Nat) : ∀ {s : State} (clear : Bool), s.tidy = true → (readRegs s clear l).2.tidy = true := by
  induction l with
  | nil => intro s c h; exact h
  | cons a l ih => intro s c h; exact ih c (readReg_tidy c a h)

theorem keepLevels_tidy {s : State} (a : Nat) (hs : s.tidy = true) :
    (keepLevels s a).tidy = true := by
  unfold keepLevels
  try dsimp only
  repeat' first
    | with_reducible assumption | (with_reducible apply tidy_foldl) | (simp only [tidy_mk]) | (with_reducible apply parts_of)
    | intro _ | split

theorem startHold_tidy {s : State} (hs : s.tidy = true) :
    (startHold s).tidy = true := by
  unfold startHold
  try dsimp only
  repeat' first
    | with_reducible assumption | (with_reducible apply setFld_tidy) | (with_reducible apply tidy_ite) | (simp only [tidy_mk])
    | (with_reducible apply parts_of) | intro _ | split

theorem storeReg_tidy {s t : State} {a v w x : Nat} (e : storeReg s a v = some (t, w, x)) (h : s.tidy = true) : t.tidy = true := by
  have gen : ∀ {c : Bool} {o : State × Nat × Nat}, (if c = true then none else some o) = some (t, w, x) → o.1 = t := by
    intro c o e
    cases c
    · simp only [Bool.false_eq_true, if_false, Option.some.injEq] at e; rw [e]
    · cases e
  unfold storeReg at e
  split at e
  · cases e
  · have e' := gen e
    rw [← e']
    dsimp only
    repeat' first
      | with_reducible assumption | (with_reducible apply wr_tidy) | (with_reducible apply keepLevels_tidy)
      | (with_reducible apply startHold_tidy) | (with_reducible apply tidy_ite) | intro _ | split

theorem commitCfg_tidy {s : State} (hs : s.tidy = true) :
    (commitCfg s).tidy = true := by
  unfold commitCfg
  try dsimp only
  repeat' first
    | with_reducible assumption | (with_reducible apply wr_tidy) | (with_reducible apply setFld_tidy) | (simp only [tidy_mk])
    | (with_reducible apply parts_of) | intro _ | split

theorem deviceCommit_tidy {s : State} (hs : s.tidy = true) :
    (deviceCommit s).tidy = true := by
  unfold deviceCommit
  try dsimp only
  repeat' first
    | with_reducible assumption | (with_reducible apply commitCfg_tidy) | (with_reducible apply tidy_ite) | intro _ | split

end Sys2Proof.Machine
end

