-- ==== Sys2Proof/Laws/KeepsKct.lean ====
section
/-! SUPPORT. Kct: every function keeps the canonical form of the memories and the registers. -/

namespace Sys2Proof.Machine

theorem setRate_tidy {s : State} (x : Rate) (hs : s.tidy = true) :
    (setRate s x).tidy = true := by
  unfold setRate
  try dsimp only
  repeat' first
    | with_reducible assumption | (simp only [tidy_mk]) | (with_reducible apply parts_of) | intro _ | split

theorem halveRate_tidy {s : State} (d : Endpoint) (hs : s.tidy = true) :
    (halveRate s d).tidy = true := by
  unfold halveRate
  try dsimp only
  repeat' first
    | with_reducible assumption | (with_reducible apply setRate_tidy) | (with_reducible apply tidy_ite)
    | (simp only [tidy_mk]) | (with_reducible apply parts_of) | intro _ | split

theorem wakeDevice_tidy {s : State} (hs : s.tidy = true) :
    (wakeDevice s).tidy = true := by
  unfold wakeDevice
  try dsimp only
  repeat' first
    | with_reducible assumption | (with_reducible apply tidy_ite) | (simp only [tidy_mk]) | (with_reducible apply parts_of)
    | intro _ | split

theorem fecCount_tidy {s : State} (p : Pkt) (hs : s.tidy = true) :
    (fecCount s p).tidy = true := by
  unfold fecCount
  try dsimp only
  repeat' first
    | with_reducible assumption | (with_reducible apply bump64_tidy) | (with_reducible apply tidy_ite) | intro _ | split

theorem arrived_tidy {s : State} (r : Req) (hs : s.tidy = true) :
    (arrived s r).tidy = true := by
  unfold arrived
  try dsimp only
  repeat' first
    | with_reducible assumption | (with_reducible apply bump64_tidy) | (with_reducible apply halveRate_tidy)
    | (with_reducible apply wakeDevice_tidy) | (with_reducible apply fecCount_tidy) | (with_reducible apply tidy_ite)
    | (simp only [tidy_mk]) | (with_reducible apply parts_of) | intro _ | split

theorem accepted_tidy {s : State} (r : Req) (hs : s.tidy = true) :
    (accepted s r).tidy = true := by
  unfold accepted
  try dsimp only
  repeat' first
    | with_reducible assumption | (with_reducible apply modCtx_tidy) | (with_reducible apply arrived_tidy)
    | (simp only [tidy_mk]) | (with_reducible apply parts_of) | intro _ | split

theorem resend_tidy {s : State} (r : Req) (o : OutPkt) (hs : s.tidy = true) :
    (resend s r o).tidy = true := by
  unfold resend
  try dsimp only
  repeat' first
    | with_reducible assumption | (with_reducible apply emit_tidy) | (with_reducible apply takeEce_tidy)
    | (with_reducible refine takeEce_tidy_eq (by with_reducible assumption) ?_) | (with_reducible apply tidy_ite)
    | (simp only [tidy_mk]) | (with_reducible apply parts_of) | intro _ | split

theorem forwardPkt_tidy {s : State} (r : Req) (hs : s.tidy = true) :
    (forwardPkt s r).tidy = true := by
  unfold forwardPkt
  try dsimp only
  repeat' first
    | with_reducible assumption | (with_reducible apply sendKctOn_tidy) | (with_reducible apply bareReply_tidy)
    | (with_reducible apply tidy_ite) | (simp only [tidy_mk]) | (with_reducible apply parts_of) | intro _ | split

theorem rejected_tidy {s : State} (r : Req) (v : Verdict) (h : s.tidy = true) : (rejected s r v).tidy = true := by
  unfold rejected
  split <;> try dsimp only
  all_goals repeat' first
    | with_reducible assumption | (with_reducible apply bump_tidy) | (with_reducible apply st_tidy)
    | (with_reducible apply modCtx_tidy) | (with_reducible apply emit_tidy) | (with_reducible apply takeEce_tidy)
    | (with_reducible refine takeEce_tidy_eq (by with_reducible assumption) ?_) | (with_reducible apply bareReply_tidy)
    | (with_reducible apply replyTo_tidy) | (with_reducible apply fecCount_tidy) | (with_reducible apply arrived_tidy)
    | (with_reducible apply accepted_tidy) | (with_reducible apply resend_tidy) | (with_reducible apply forwardPkt_tidy)
    | (simp only [tidy_mk]) | (with_reducible apply parts_of) | intro _ | split

theorem sendAck_tidy {s : State} (x : InXfer) (hs : s.tidy = true) :
    (sendAck s x).tidy = true := by
  unfold sendAck
  try dsimp only
  repeat' first
    | with_reducible assumption | (with_reducible apply emit_tidy) | (with_reducible apply takeEce_tidy)
    | (with_reducible refine takeEce_tidy_eq (by with_reducible assumption) ?_) | (simp only [tidy_mk])
    | (with_reducible apply parts_of) | intro _ | split

theorem dropIn_tidy {s : State} (c : Nat) (q : W32) (hs : s.tidy = true) :
    (dropIn s c q).tidy = true := by
  unfold dropIn
  try dsimp only
  repeat' first
    | with_reducible assumption | (simp only [tidy_mk]) | (with_reducible apply parts_of) | intro _ | split

theorem putIn_tidy {s : State} (x : InXfer) (hs : s.tidy = true) :
    (putIn s x).tidy = true := by
  unfold putIn
  try dsimp only
  repeat' first
    | with_reducible assumption | (with_reducible apply tidy_ite) | (simp only [tidy_mk]) | (with_reducible apply parts_of)
    | intro _ | split

theorem endIn_tidy {s : State} (x : InXfer) (hs : s.tidy = true) :
    (endIn s x).tidy = true := by
  unfold endIn
  try dsimp only
  repeat' first
    | with_reducible assumption | (with_reducible apply freeRunOf_tidy) | (with_reducible apply dropIn_tidy)
    | (simp only [tidy_mk]) | (with_reducible apply parts_of) | intro _ | split

theorem beginIn_tidy {s : State} (r : Req) (op : Nat) (first : State → Except Nat State) (h : s.tidy = true)
    (hfirst : ∀ s t, first s = .ok t → s.tidy = true → t.tidy = true) : (beginIn s r op first).tidy = true := by
  unfold beginIn
  dsimp only
  repeat' first
    | with_reducible assumption | (refine hfirst _ _ (by assumption) ?_) | (with_reducible apply st_tidy)
    | (with_reducible refine takeRun_tidy (by with_reducible assumption) ?_) | (with_reducible apply fail_tidy)
    | (with_reducible apply arrived_tidy) | (with_reducible apply tidy_ite) | (simp only [tidy_mk])
    | (with_reducible apply parts_of) | intro _ | split

theorem bufferPkt_tidy {s : State} (r : Req) (hs : s.tidy = true) :
    (bufferPkt s r).tidy = true := by
  unfold bufferPkt
  try dsimp only
  repeat' first
    | with_reducible assumption | (with_reducible apply bump64_tidy) | (with_reducible apply put1_tidy)
    | (with_reducible apply tidy_ite) | (simp only [tidy_mk]) | (with_reducible apply parts_of) | intro _ | split

theorem bufferTaken_tidy {s : State} (hs : s.tidy = true) :
    (bufferTaken s).tidy = true := by
  unfold bufferTaken
  try dsimp only
  repeat' first
    | with_reducible assumption | (with_reducible apply put1_tidy) | (with_reducible apply tidy_ite) | (simp only [tidy_mk])
    | (with_reducible apply parts_of) | intro _ | split

theorem drainWaiting_tidy (n : Nat) : ∀ {s : State}, s.tidy = true → (drainWaiting s n).tidy = true := by
  induction n with
  | zero => intro s h; exact h
  | succ n ih =>
    intro s h
    unfold drainWaiting
    try dsimp only
    repeat' first
      | with_reducible assumption | (with_reducible apply ih) | (with_reducible apply hostSend_tidy)
      | (with_reducible apply tidy_ite) | (simp only [tidy_mk]) | (with_reducible apply parts_of) | intro _ | split

theorem portResumes_tidy {s : State} (hs : s.tidy = true) :
    (portResumes s).tidy = true := by
  unfold portResumes
  try dsimp only
  repeat' first
    | with_reducible assumption | (with_reducible apply flushSub_tidy) | (with_reducible apply drainWaiting_tidy)
    | (with_reducible apply tidy_foldl) | (with_reducible apply tidy_ite) | intro _ | split

theorem receiveWith_tidy {s : State} (op : Nat) (r : Req) (run : State → Req → State) (first : State → Except Nat State) (h : s.tidy = true)
    (hrun : ∀ s r, s.tidy = true → (run s r).tidy = true)
    (hfirst : ∀ s t, first s = .ok t → s.tidy = true → t.tidy = true) : (receiveWith s op r run first).tidy = true := by
  unfold receiveWith
  dsimp only
  repeat' first
    | with_reducible assumption | (with_reducible apply hrun) | (with_reducible apply fail_tidy)
    | (with_reducible apply accepted_tidy) | (with_reducible apply rejected_tidy) | (with_reducible apply beginIn_tidy)
    | (with_reducible apply bufferPkt_tidy) | (with_reducible apply tidy_ite) | (simp only [tidy_mk])
    | (with_reducible apply parts_of) | intro _ | split

theorem receive_tidy {s : State} (op : Nat) (p : Pkt) (run : State → Req → State) (h : s.tidy = true)
    (hrun : ∀ s r, s.tidy = true → (run s r).tidy = true) : (receive s op p run).tidy = true :=
  receiveWith_tidy _ _ _ _ h hrun fun _ _ e h => by cases e; exact h

end Sys2Proof.Machine
end

