-- ==== Sys2Proof/Laws/KeepsTierOps.lean ====
section
/-! SUPPORT. TierOps: every function keeps the canonical form of the memories and the registers. -/

namespace Sys2Proof.Machine

theorem softRepair_tidy {s : State} (p : Place) (addr : Nat) (hs : s.tidy = true) :
    (softRepair s p addr).tidy = true := by
  unfold softRepair
  try dsimp only
  repeat' first
    | with_reducible assumption | (with_reducible apply record_tidy) | (simp only [tidy_mk]) | (with_reducible apply parts_of)
    | intro _ | split

theorem withdrawBlock_tidy {s : State} (sp b : Nat) (p : Place) (addr : Nat) (hs : s.tidy = true) :
    (withdrawBlock s sp b p addr).tidy = true := by
  unfold withdrawBlock
  try dsimp only
  repeat' first
    | with_reducible assumption | (with_reducible apply putBlock_tidy) | (with_reducible apply record_tidy)
    | (with_reducible apply tidy_ite) | (simp only [tidy_mk]) | (with_reducible apply parts_of) | intro _ | split

theorem withdraw_tidy {s : State} (sp addr : Nat) (hs : s.tidy = true) :
    (withdraw s sp addr).tidy = true := by
  unfold withdraw
  try dsimp only
  repeat' first
    | with_reducible assumption | (with_reducible apply putBlock_tidy) | (with_reducible apply freeBlock_tidy)
    | (with_reducible apply softRepair_tidy) | (with_reducible apply withdrawBlock_tidy) | (with_reducible apply tidy_ite)
    | (simp only [tidy_mk]) | (with_reducible apply parts_of) | intro _ | split

theorem tierCe_tidy {s : State} (sp addr : Nat) (hs : s.tidy = true) :
    (tierCe s sp addr).tidy = true := by
  unfold tierCe
  try dsimp only
  repeat' first
    | with_reducible assumption | (with_reducible apply bump_tidy) | (with_reducible apply corrected_tidy)
    | (with_reducible apply softRepair_tidy) | (with_reducible apply tidy_ite) | (simp only [tidy_mk])
    | (with_reducible apply parts_of) | intro _ | split

theorem notePin_tidy {s : State} (p : Place) (addr : Nat) (hs : s.tidy = true) :
    (notePin s p addr).tidy = true := by
  unfold notePin
  try dsimp only
  repeat' first
    | with_reducible assumption | (with_reducible apply takeFree_tidy)
    | (with_reducible refine takeFree_tidy_eq (by with_reducible assumption) ?_) | (simp only [tidy_mk])
    | (with_reducible apply parts_of) | intro _ | split

theorem readUeAs_tidy {s : State} (sp addr : Nat) (b : Blame) (as : Option (Nat × Nat)) (hs : s.tidy = true) :
    (readUeAs s sp addr b as).tidy = true := by
  unfold readUeAs
  try dsimp only
  repeat' first
    | with_reducible assumption | (with_reducible apply bump_tidy) | (with_reducible apply record_tidy)
    | (with_reducible apply withdraw_tidy) | (with_reducible apply notePin_tidy) | (with_reducible apply tidy_ite)
    | (simp only [tidy_mk]) | (with_reducible apply parts_of) | intro _ | split

theorem readUe_tidy {s : State} (sp addr : Nat) (b : Blame) (hs : s.tidy = true) :
    (readUe s sp addr b).tidy = true := by
  unfold readUe
  try dsimp only
  repeat' first
    | with_reducible assumption | (with_reducible apply readUeAs_tidy) | intro _ | split

theorem readCe_tidy {s : State} (sp addr : Nat) (hs : s.tidy = true) :
    (readCe s sp addr).tidy = true := by
  unfold readCe
  try dsimp only
  repeat' first
    | with_reducible assumption | (with_reducible apply corrected_tidy) | (with_reducible apply tierCe_tidy)
    | (with_reducible apply tidy_ite) | intro _ | split

theorem firmCopy_tidy {s : State} (sp a n dsp d : Nat) (hs : s.tidy = true) :
    (firmCopy s sp a n dsp d).tidy = true := by
  unfold firmCopy
  try dsimp only
  repeat' first
    | with_reducible assumption | (with_reducible apply copyRange_tidy) | (with_reducible apply readUe_tidy)
    | (simp only [tidy_mk]) | (with_reducible apply parts_of) | intro _ | split

theorem cmdUe_tidy {s : State} (r : Req) (sp addr : Nat) (hs : s.tidy = true) :
    (cmdUe s r sp addr).tidy = true := by
  unfold cmdUe
  try dsimp only
  repeat' first
    | with_reducible assumption | (with_reducible apply fail_tidy) | (with_reducible apply readUe_tidy) | intro _ | split

end Sys2Proof.Machine
end

