-- ==== Sys2Proof/Laws/KeepsHostCmds.lean ====
section
/-! SUPPORT. HostCmds: every function keeps the canonical form of the memories and the registers. -/

namespace Sys2Proof.Machine

theorem writeData_tidy {s : State} (c sp a : Nat) (d : Bytes) (hs : s.tidy = true) :
    (writeData s c sp a d).tidy = true := by
  unfold writeData
  try dsimp only
  repeat' first
    | with_reducible assumption | (with_reducible apply st_tidy) | (with_reducible apply charge_tidy) | intro _ | split

theorem writeMem_tidy {s : State} (r : Req) (hs : s.tidy = true) :
    (writeMem s r).tidy = true := by
  unfold writeMem
  try dsimp only
  repeat' first
    | with_reducible assumption | (with_reducible apply fail_tidy) | (with_reducible apply writeData_tidy)
    | (simp only [tidy_mk]) | (with_reducible apply parts_of) | intro _ | split

theorem writeFirst_tidy {s t : State} {r : Req} (e : writeFirst r s = .ok t) (h : s.tidy = true) : t.tidy = true := by
  unfold writeFirst at e
  dsimp only at e
  repeat' split at e
  all_goals (first | (cases e; done) | (simp only [Except.ok.injEq] at e; subst e))
  repeat' first
    | with_reducible assumption | (with_reducible apply writeData_tidy) | (with_reducible apply tidy_ite)
    | (simp only [tidy_mk]) | (with_reducible apply parts_of) | intro _ | split

theorem readMem_tidy {s : State} (r : Req) (hs : s.tidy = true) :
    (readMem s r).tidy = true := by
  unfold readMem
  try dsimp only
  repeat' first
    | with_reducible assumption | (with_reducible apply st_tidy) | (with_reducible apply charge_tidy)
    | (with_reducible apply replyTo_tidy) | (with_reducible apply fail_tidy) | (with_reducible apply cmdUe_tidy)
    | (with_reducible apply tidy_ite) | (simp only [tidy_mk]) | (with_reducible apply parts_of) | intro _ | split

theorem memGrant_tidy {s : State} (r : Req) (hs : s.tidy = true) :
    (memGrant s r).tidy = true := by
  unfold memGrant
  try dsimp only
  repeat' first
    | with_reducible assumption | (with_reducible apply st_tidy) | (with_reducible apply grantRun_tidy)
    | (with_reducible apply replyTo_tidy) | (with_reducible apply fail_tidy) | (with_reducible apply tidy_ite)
    | (simp only [tidy_mk]) | (with_reducible apply parts_of) | intro _ | split

theorem memFree_tidy {s : State} (r : Req) (hs : s.tidy = true) :
    (memFree s r).tidy = true := by
  unfold memFree
  try dsimp only
  repeat' first
    | with_reducible assumption | (with_reducible apply st_tidy) | (with_reducible apply freeRunOf_tidy)
    | (with_reducible apply replyTo_tidy) | (with_reducible apply fail_tidy) | (with_reducible apply tidy_ite)
    | (simp only [tidy_mk]) | (with_reducible apply parts_of) | intro _ | split

theorem queryCaps_tidy {s : State} (r : Req) (hs : s.tidy = true) :
    (queryCaps s r).tidy = true := by
  unfold queryCaps
  try dsimp only
  repeat' first
    | with_reducible assumption | (with_reducible apply replyTo_tidy) | intro _ | split

theorem timeRead_tidy {s : State} (r : Req) (hs : s.tidy = true) :
    (timeRead s r).tidy = true := by
  unfold timeRead
  try dsimp only
  repeat' first
    | with_reducible assumption | (with_reducible apply replyTo_tidy) | intro _ | split

theorem eventSubscribe_tidy {s : State} (r : Req) (hs : s.tidy = true) :
    (eventSubscribe s r).tidy = true := by
  unfold eventSubscribe
  try dsimp only
  repeat' first
    | with_reducible assumption | (with_reducible apply modCtx_tidy) | (with_reducible apply fail_tidy)
    | (with_reducible apply tidy_ite) | (simp only [tidy_mk]) | (with_reducible apply parts_of) | intro _ | split

theorem eventUnsubscribe_tidy {s : State} (r : Req) (hs : s.tidy = true) :
    (eventUnsubscribe s r).tidy = true := by
  unfold eventUnsubscribe
  try dsimp only
  repeat' first
    | with_reducible assumption | (with_reducible apply modCtx_tidy) | (with_reducible apply fail_tidy)
    | (simp only [tidy_mk]) | (with_reducible apply parts_of) | intro _ | split

theorem regRead_tidy {s : State} (r : Req) (hs : s.tidy = true) :
    (regRead s r).tidy = true := by
  unfold regRead
  try dsimp only
  repeat' first
    | with_reducible assumption | (with_reducible apply replyTo_tidy) | (with_reducible apply fail_tidy)
    | (with_reducible apply readRegs_tidy) | (with_reducible apply tidy_ite) | intro _ | split

end Sys2Proof.Machine
end

