-- ==== Sys2Proof/Laws/KeepsOperands.lean ====
section
/-! SUPPORT. Operands: every function keeps the canonical form of the memories and the registers. -/

namespace Sys2Proof.Machine

theorem delivered_tidy {s : State} (sideB : Bool) (a n : Nat) (hs : s.tidy = true) :
    (delivered s sideB a n).tidy = true := by
  unfold delivered
  try dsimp only
  repeat' first
    | with_reducible assumption | (simp only [tidy_mk]) | (with_reducible apply parts_of) | intro _ | split

theorem startJob_tidy {s : State} (e : Ecc) (sideB : Bool) (h : s.tidy = true) : (startJob s e sideB).tidy = true :=
  job_start h e

theorem endTask_tidy {s : State} (slot st : Nat) (hs : s.tidy = true) :
    (endTask s slot st).tidy = true := by
  unfold endTask
  try dsimp only
  repeat' first
    | with_reducible assumption | (with_reducible apply st_tidy) | (simp only [tidy_mk]) | (with_reducible apply parts_of)
    | intro _ | split

theorem addCounts_tidy {s : State} (j : Job) (hs : s.tidy = true) :
    (addCounts s j).tidy = true := by
  unfold addCounts
  try dsimp only
  repeat' first
    | with_reducible assumption | (with_reducible apply bump_tidy) | (with_reducible apply tidy_foldl)
    | (with_reducible apply tidy_ite) | intro _ | split

theorem chargeJob_tidy {s : State} (part : Nat) (sideB : Bool) (j : Job) (hs : s.tidy = true) :
    (chargeJob s part sideB j).tidy = true := by
  unfold chargeJob
  try dsimp only
  repeat' first
    | with_reducible assumption | (with_reducible apply charge_tidy) | (with_reducible apply tidy_foldl)
    | (with_reducible apply tidy_ite) | intro _ | split

theorem keepGhosts_tidy {s : State} (sideB : Bool) (j : Job) (hs : s.tidy = true) :
    (keepGhosts s sideB j).tidy = true := by
  unfold keepGhosts
  try dsimp only
  repeat' first
    | with_reducible assumption | (simp only [tidy_mk]) | (with_reducible apply parts_of) | intro _ | split

theorem finishJob_tidy {s : State} {j : Job} (slot : Nat) (sl : Slot) (i : Inst) (sideB : Bool) (as : Option (Nat × Nat)) (hs : s.tidy = true)
    (hj : j.tidy = true) : (finishJob s slot sl i sideB as j).tidy = true := by
  unfold finishJob
  try dsimp only
  repeat' first
    | with_reducible assumption | (with_reducible apply markBad_tidy) | (with_reducible apply hostSend_tidy)
    | (with_reducible apply record_tidy) | (with_reducible apply readUeAs_tidy) | (with_reducible apply readCe_tidy)
    | (with_reducible apply endTask_tidy) | (with_reducible apply addCounts_tidy) | (with_reducible apply chargeJob_tidy)
    | (with_reducible apply keepGhosts_tidy) | (with_reducible apply tidy_foldl) | (with_reducible apply tidy_ite)
    | (simp only [tidy_mk]) | (with_reducible apply parts_of) | (with_reducible apply parts_job)
    | (with_reducible apply parts_mk) | (with_reducible refine Kept.mk ?_ ?_ ?_ ?_ ?_) | (with_reducible apply wf_commons)
    | (with_reducible apply wf_near) | (with_reducible apply wf_far) | (with_reducible apply wf_slices)
    | (with_reducible apply wf_regs) | (with_reducible exact cellsWf_nil) | (with_reducible apply cellsWf_filter)
    | (with_reducible apply cellsWf_pokeAll) | intro _ | split

theorem beginTask_tidy {s : State} (slot : Nat) (hs : s.tidy = true) :
    (beginTask s slot).tidy = true := by
  unfold beginTask
  try dsimp only
  repeat' first
    | with_reducible assumption | (simp only [tidy_mk]) | (with_reducible apply parts_of) | intro _ | split

theorem engineTask_tidy {s : State} (slot : Nat) (e : Ecc) (eng : Nat) (sideB : Bool) (as : Option (Nat × Nat)) (sel : Bytes → Bool)
    (run : State → Bytes → Job → Job) (hs : s.tidy = true) (hrun : ∀ s d j, j.tidy = true → (run s d j).tidy = true) :
    (engineTask s slot e eng sideB as sel run).tidy = true := by
  unfold engineTask
  split
  · exact hs
  · exact finishJob_tidy _ _ _ _ _ hs (hrun _ _ _ (startJob_tidy e sideB hs))

end Sys2Proof.Machine
end

