-- ==== Sys2Proof/Laws/KeepsVector.lean ====
section
/-! SUPPORT. Vector: every function keeps the canonical form of the memories and the registers. -/

namespace Sys2Proof.Machine

theorem vRow_tidy (d : Bytes) {j : Job} (r : Nat) (hj : j.tidy = true) :
    (vRow d j r).2.tidy = true := by
  unfold vRow
  try dsimp only
  repeat' first
    | with_reducible assumption | (with_reducible apply Job.rd_tidy) | intro _ | split

theorem vRow1_tidy (d : Bytes) {j : Job} (r : Nat) (hj : j.tidy = true) :
    (vRow1 d j r).2.tidy = true := by
  unfold vRow1
  try dsimp only
  repeat' first
    | with_reducible assumption | (with_reducible apply Job.rd_tidy) | intro _ | split

theorem floats_tidy {j : Job} (a n : Nat) (hj : j.tidy = true) :
    (floats j a n).2.tidy = true := by
  unfold floats
  try dsimp only
  repeat' first
    | with_reducible assumption | (with_reducible apply Job.rd_tidy) | intro _ | split

theorem vModes_tidy (d : Bytes) {j : Job} (r : Nat) (hj : j.tidy = true) :
    (vModes d j r).2.tidy = true := by
  unfold vModes
  try dsimp only
  repeat' first
    | with_reducible assumption | (with_reducible apply Job.rd_tidy) | intro _ | split

theorem vPut_tidy (d : Bytes) (src : Nat) {j : Job} (r : Nat) (vs : List Val) (hj : j.tidy = true) :
    (vPut d src j r vs).tidy = true := by
  unfold vPut
  try dsimp only
  repeat' first
    | with_reducible assumption | (with_reducible apply vModes_tidy) | (with_reducible apply Job.putRow_tidy) | intro _
    | split

theorem vPut32_tidy (d : Bytes) {j : Job} (r : Nat) (xs : List Nat) (hj : j.tidy = true) :
    (vPut32 d j r xs).tidy = true := by
  unfold vPut32
  try dsimp only
  repeat' first
    | with_reducible assumption | (with_reducible apply vPut_tidy) | intro _ | split

theorem vRows_tidy (s : State) (d : Bytes) {j : Job} (f : Job → Nat → Job) (hj : j.tidy = true) (hf : ∀ v0 v1, v0.tidy = true → (f v0 v1).tidy = true) :
    (vRows s d j f).tidy = true := by
  unfold vRows
  try dsimp only
  repeat' first
    | with_reducible assumption | (with_reducible apply hf) | (with_reducible apply Job.rows_tidy) | intro _ | split

theorem runConvert_tidy (s : State) (d : Bytes) {j : Job} (hj : j.tidy = true) :
    (runConvert s d j).tidy = true := by
  unfold runConvert
  try dsimp only
  repeat' first
    | with_reducible assumption | (with_reducible apply vRow_tidy) | (with_reducible apply vPut_tidy)
    | (with_reducible apply vRows_tidy) | intro _ | split

theorem runBinary_tidy (f : Val → Val → Val) (s : State) (d : Bytes) {j : Job} (hj : j.tidy = true) :
    (runBinary f s d j).tidy = true := by
  unfold runBinary
  try dsimp only
  repeat' first
    | with_reducible assumption | (with_reducible apply vRow_tidy) | (with_reducible apply vRow1_tidy)
    | (with_reducible apply vPut_tidy) | (with_reducible apply vRows_tidy) | intro _ | split

theorem rowMoments_tidy (s : State) (d : Bytes) {j : Job} (r : Nat) (x : List Nat) (wantSum : Bool) (hj : j.tidy = true) :
    (rowMoments s d j r x wantSum).2.2.tidy = true := by
  unfold rowMoments
  try dsimp only
  repeat' first
    | with_reducible assumption | (with_reducible apply Job.rd_tidy) | (with_reducible apply Job.rescued_tidy)
    | (with_reducible apply job_foldl) | (with_reducible apply job_foldl_snd) | (with_reducible apply job_foldl_fst) | intro _
    | split

theorem runRmsnorm_tidy (s : State) (d : Bytes) {j : Job} (hj : j.tidy = true) :
    (runRmsnorm s d j).tidy = true := by
  unfold runRmsnorm
  try dsimp only
  repeat' first
    | with_reducible assumption | (with_reducible apply vRow_tidy) | (with_reducible apply floats_tidy)
    | (with_reducible apply vPut32_tidy) | (with_reducible apply vRows_tidy) | (with_reducible apply rowMoments_tidy)
    | intro _ | split

theorem runLayernorm_tidy (s : State) (d : Bytes) {j : Job} (hj : j.tidy = true) :
    (runLayernorm s d j).tidy = true := by
  unfold runLayernorm
  try dsimp only
  repeat' first
    | with_reducible assumption | (with_reducible apply vRow_tidy) | (with_reducible apply floats_tidy)
    | (with_reducible apply vPut32_tidy) | (with_reducible apply vRows_tidy) | (with_reducible apply rowMoments_tidy)
    | intro _ | split

theorem runRope_tidy (s : State) (d : Bytes) {j : Job} (hj : j.tidy = true) :
    (runRope s d j).tidy = true := by
  unfold runRope
  try dsimp only
  repeat' first
    | with_reducible assumption | (with_reducible apply vRow_tidy) | (with_reducible apply floats_tidy)
    | (with_reducible apply vPut_tidy) | (with_reducible apply vPut32_tidy) | (with_reducible apply vRows_tidy)
    | (with_reducible apply Job.rd_tidy) | (with_reducible apply Job.tally_tidy) | intro _ | split

theorem runAct_tidy (s : State) (d : Bytes) {j : Job} (hj : j.tidy = true) :
    (runAct s d j).tidy = true := by
  unfold runAct
  try dsimp only
  repeat' first
    | with_reducible assumption | (with_reducible apply vRow_tidy) | (with_reducible apply vPut32_tidy)
    | (with_reducible apply vRows_tidy) | intro _ | split

theorem runGated_tidy (s : State) (d : Bytes) {j : Job} (hj : j.tidy = true) :
    (runGated s d j).tidy = true := by
  unfold runGated
  try dsimp only
  repeat' first
    | with_reducible assumption | (with_reducible apply vRow_tidy) | (with_reducible apply vRow1_tidy)
    | (with_reducible apply vPut32_tidy) | (with_reducible apply vRows_tidy) | intro _ | split

theorem runSoftmax_tidy (s : State) (d : Bytes) {j : Job} (hj : j.tidy = true) :
    (runSoftmax s d j).tidy = true := by
  unfold runSoftmax
  try dsimp only
  repeat' first
    | with_reducible assumption | (with_reducible apply vRow_tidy) | (with_reducible apply vPut32_tidy)
    | (with_reducible apply vRows_tidy) | (with_reducible apply Job.rescued_tidy) | intro _ | split

theorem runReduce_tidy (s : State) (d : Bytes) {j : Job} (hj : j.tidy = true) :
    (runReduce s d j).tidy = true := by
  unfold runReduce
  try dsimp only
  repeat' first
    | with_reducible assumption | (with_reducible apply vRow_tidy) | (with_reducible apply vPut32_tidy)
    | (with_reducible apply vRows_tidy) | (with_reducible apply Job.rescued_tidy) | intro _ | split

theorem quantTokens_tidy (d : Bytes) (codes : List Nat) (q : Nat) {j : Job} (hj : j.tidy = true) :
    (quantTokens d codes q j).tidy = true := by
  unfold quantTokens
  try dsimp only
  repeat' first
    | with_reducible assumption | (with_reducible apply vRow_tidy) | (with_reducible apply vModes_tidy)
    | (with_reducible apply Job.wr_tidy) | (with_reducible apply Job.conv_tidy) | (with_reducible apply job_foldl)
    | (with_reducible apply job_foldl_snd) | (with_reducible apply job_foldl_fst) | intro _ | split

theorem runQuant_tidy (_s : State) (d : Bytes) {j : Job} (hj : j.tidy = true) :
    (runQuant _s d j).tidy = true := by
  unfold runQuant
  try dsimp only
  repeat' first
    | with_reducible assumption | (with_reducible apply quantTokens_tidy) | (with_reducible apply Job.rd_tidy)
    | (with_reducible apply Job.tally_tidy) | (with_reducible apply job_foldl) | (with_reducible apply job_foldl_snd)
    | (with_reducible apply job_foldl_fst) | (simp only [job_mk]) | (with_reducible apply job_parts) | intro _ | split

theorem runGraft_tidy (s : State) (d : Bytes) {j : Job} (hj : j.tidy = true) :
    (runGraft s d j).tidy = true := by
  unfold runGraft
  try dsimp only
  repeat' first
    | with_reducible assumption | (with_reducible apply vRow_tidy) | (with_reducible apply vPut_tidy)
    | (with_reducible apply vRows_tidy) | (with_reducible apply Job.rd_tidy) | (with_reducible apply Job.tally_tidy) | intro _
    | split

theorem gemmRow_tidy (d : Bytes) {j : Job} (k : Nat) (hj : j.tidy = true) :
    (gemmRow d j k).2.tidy = true := by
  unfold gemmRow
  try dsimp only
  repeat' first
    | with_reducible assumption | (with_reducible apply Job.rd_tidy) | intro _ | split

theorem gemmW_tidy (d : Bytes) {j : Job} (hj : j.tidy = true) :
    (gemmW d j).2.tidy = true := by
  unfold gemmW
  try dsimp only
  repeat' first
    | with_reducible assumption | (with_reducible apply gemmRow_tidy) | (with_reducible apply job_foldl)
    | (with_reducible apply job_foldl_snd) | (with_reducible apply job_foldl_fst) | intro _ | split

theorem runGemm_tidy (s : State) (d : Bytes) {j : Job} (hj : j.tidy = true) :
    (runGemm s d j).tidy = true := by
  unfold runGemm
  try dsimp only
  repeat' first
    | with_reducible assumption | (with_reducible apply vRow_tidy) | (with_reducible apply vPut32_tidy)
    | (with_reducible apply vRows_tidy) | (with_reducible apply gemmW_tidy) | (with_reducible apply Job.rd_tidy)
    | (with_reducible apply Job.rescued_tidy) | intro _ | split

theorem vectorTask_tidy (op : Nat) (run : State → Bytes → Job → Job) (slot : Nat) (e : Ecc) {s : State} (hs : s.tidy = true)
    (hrun : ∀ s d j, j.tidy = true → (run s d j).tidy = true) : (vectorTask op run slot e s).tidy = true := by
  unfold vectorTask
  try dsimp only
  repeat' first
    | with_reducible assumption | (with_reducible apply hrun) | (with_reducible apply engineTask_tidy) | intro _ | split

end Sys2Proof.Machine
end

