-- ==== Sys2Proof/Laws/KeepsMinor.lean ====
section
/-! SUPPORT. Minor: every function keeps the canonical form of the memories and the registers. -/

namespace Sys2Proof.Machine

theorem tableBad_tidy {j : Job} (hj : j.tidy = true) :
    (tableBad j).tidy = true := by
  unfold tableBad
  try dsimp only
  repeat' first
    | with_reducible assumption | (with_reducible apply Job.tally_tidy) | (simp only [job_mk])
    | (with_reducible apply job_parts) | intro _ | split

theorem lookupBlocks_tidy (d : Bytes) (n : Nat) {j : Job} (hj : j.tidy = true) :
    (lookupBlocks d n j).2.tidy = true := by
  unfold lookupBlocks
  try dsimp only
  repeat' first
    | with_reducible assumption | (with_reducible apply Job.rd_tidy) | (with_reducible apply job_foldl)
    | (with_reducible apply job_foldl_snd) | (with_reducible apply job_foldl_fst) | (simp only [job_mk])
    | (with_reducible apply job_parts) | intro _ | split

theorem lookupImage_tidy (d h : Bytes) {j : Job} (hj : j.tidy = true) :
    (lookupImage d h j).2.2.tidy = true := by
  unfold lookupImage
  try dsimp only
  repeat' first
    | with_reducible assumption | (with_reducible apply Job.rd_tidy) | (with_reducible apply job_foldl)
    | (with_reducible apply job_foldl_snd) | (with_reducible apply job_foldl_fst) | intro _ | split

theorem lookupRow_tidy (d : Bytes) (ents : List Bytes) (scs : Bytes) (codes : List Nat) {j : Job} (t : Nat) (hj : j.tidy = true) :
    (lookupRow d ents scs codes j t).tidy = true := by
  unfold lookupRow
  try dsimp only
  repeat' first
    | with_reducible assumption | (with_reducible apply st_tidy) | (with_reducible apply Job.rd_tidy)
    | (with_reducible apply Job.putRow_tidy) | (with_reducible apply job_foldl) | (with_reducible apply job_foldl_snd)
    | (with_reducible apply job_foldl_fst) | intro _ | split

theorem runLookup_tidy (s : State) (d : Bytes) {j : Job} (hj : j.tidy = true) :
    (runLookup s d j).tidy = true := by
  unfold runLookup
  try dsimp only
  repeat' first
    | with_reducible assumption | (with_reducible apply tableBad_tidy) | (with_reducible apply lookupBlocks_tidy)
    | (with_reducible apply lookupImage_tidy) | (with_reducible apply lookupRow_tidy) | (with_reducible apply Job.rd_tidy)
    | (with_reducible apply Job.rows_tidy) | (simp only [job_mk]) | (with_reducible apply job_parts) | intro _ | split

theorem embedRow_tidy (d : Bytes) (h : Bytes) {j : Job} (i : Nat) (hj : j.tidy = true) :
    (embedRow d h j i).tidy = true := by
  unfold embedRow
  try dsimp only
  repeat' first
    | with_reducible assumption | (with_reducible apply Job.wr_tidy) | (with_reducible apply Job.rd_tidy)
    | (with_reducible apply Job.tally_tidy) | (with_reducible apply Job.putRow_tidy) | intro _ | split

theorem runEmbed_tidy (s : State) (d : Bytes) {j : Job} (hj : j.tidy = true) :
    (runEmbed s d j).tidy = true := by
  unfold runEmbed
  try dsimp only
  repeat' first
    | with_reducible assumption | (with_reducible apply tableBad_tidy) | (with_reducible apply embedRow_tidy)
    | (with_reducible apply Job.rd_tidy) | (with_reducible apply Job.rows_tidy) | intro _ | split

theorem samplerRow_tidy (s : State) (d : Bytes) {j : Job} (r : Nat) (hj : j.tidy = true) :
    (samplerRow s d j r).tidy = true := by
  unfold samplerRow
  try dsimp only
  repeat' first
    | with_reducible assumption | (with_reducible apply Job.wr_tidy) | (with_reducible apply Job.rd_tidy)
    | (with_reducible apply Job.tally_tidy) | intro _ | split

theorem runSampler_tidy (s : State) (d : Bytes) {j : Job} (hj : j.tidy = true) :
    (runSampler s d j).tidy = true := by
  unfold runSampler
  try dsimp only
  repeat' first
    | with_reducible assumption | (with_reducible apply samplerRow_tidy) | (with_reducible apply Job.rows_tidy) | intro _
    | split

theorem hashJob_tidy (d : Bytes) (acc : Job × Nat) (i : Nat) (hacc : acc.1.tidy = true) :
    (hashJob d acc i).1.tidy = true := by
  unfold hashJob
  try dsimp only
  repeat' first
    | with_reducible assumption | (with_reducible apply Job.wr_tidy) | (with_reducible apply Job.rd_tidy) | intro _ | split

theorem runHash_tidy (_s : State) (d : Bytes) {j : Job} (hj : j.tidy = true) :
    (runHash _s d j).tidy = true := by
  unfold runHash
  try dsimp only
  repeat' first
    | with_reducible assumption | (with_reducible apply hashJob_tidy) | (with_reducible apply job_foldl)
    | (with_reducible apply job_foldl_snd) | (with_reducible apply job_foldl_fst) | intro _ | split

theorem moverRow_tidy (d : Bytes) {j : Job} (r : Nat) (hj : j.tidy = true) :
    (moverRow d j r).tidy = true := by
  unfold moverRow
  try dsimp only
  repeat' first
    | with_reducible assumption | (with_reducible apply Job.wr_tidy) | (with_reducible apply Job.rd_tidy)
    | (with_reducible apply Job.tally_tidy) | (with_reducible apply Job.out_tidy) | intro _ | split

theorem runMover_tidy (s : State) (d : Bytes) {j : Job} (hj : j.tidy = true) :
    (runMover s d j).tidy = true := by
  unfold runMover
  try dsimp only
  repeat' first
    | with_reducible assumption | (with_reducible apply moverRow_tidy) | (with_reducible apply Job.rows_tidy) | intro _
    | split

theorem moverTask_tidy (sel : Bytes → Bool) (slot : Nat) (e : Ecc) {s : State} (hs : s.tidy = true) :
    (moverTask sel slot e s).tidy = true := by
  unfold moverTask
  try dsimp only
  repeat' first
    | with_reducible assumption | (with_reducible apply engineTask_tidy) | (with_reducible apply runMover_tidy) | intro _
    | split

end Sys2Proof.Machine
end

