-- ==== Sys2Proof/Laws/KeepsSpm.lean ====
section
/-! SUPPORT. Spm: every function keeps the canonical form of the memories and the registers. -/

namespace Sys2Proof.Machine

theorem readList_tidy (s : State) (d h : Bytes) {j : Job} (hj : j.tidy = true) :
    (readList s d h j).2.tidy = true := by
  unfold readList
  try dsimp only
  repeat' first
    | with_reducible assumption | (with_reducible apply Job.rd_tidy) | intro _ | split

theorem readDelta_tidy (s : State) (d h : Bytes) {j : Job} (hj : j.tidy = true) :
    (readDelta s d h j).2.tidy = true := by
  unfold readDelta
  try dsimp only
  repeat' first
    | with_reducible assumption | (with_reducible apply Job.rd_tidy) | intro _ | split

theorem partnerElem_tidy (d buf : Bytes) {j : Job} (i jx : Nat) (hj : j.tidy = true) :
    (partnerElem d buf j i jx).2.tidy = true := by
  unfold partnerElem
  try dsimp only
  repeat' first
    | with_reducible assumption | (with_reducible apply Job.rd_tidy) | intro _ | split

theorem addProducts_tidy (d buf : Bytes) (acc : Job × List (Nat × List Nat)) (e : Entry) (hacc : acc.1.tidy = true) :
    (addProducts d buf acc e).1.tidy = true := by
  unfold addProducts
  try dsimp only
  repeat' first
    | with_reducible assumption | (with_reducible apply partnerElem_tidy) | (with_reducible apply job_foldl)
    | (with_reducible apply job_foldl_snd) | (with_reducible apply job_foldl_fst) | intro _ | split

theorem putTotal_tidy (fresh : Nat) (d : Bytes) {j : Job} (k : Nat × List Nat) (hj : j.tidy = true) :
    (putTotal fresh d j k).tidy = true := by
  unfold putTotal
  try dsimp only
  repeat' first
    | with_reducible assumption | (with_reducible apply Job.wr_tidy) | (with_reducible apply Job.rd_tidy) | intro _ | split

theorem runSpm_tidy (s : State) (d : Bytes) {j : Job} (hj : j.tidy = true) :
    (runSpm s d j).tidy = true := by
  unfold runSpm
  try dsimp only
  repeat' first
    | with_reducible assumption | (with_reducible apply readList_tidy) | (with_reducible apply readDelta_tidy)
    | (with_reducible apply addProducts_tidy) | (with_reducible apply putTotal_tidy) | (with_reducible apply Job.rd_tidy)
    | (with_reducible apply Job.tally_tidy) | (with_reducible apply job_foldl) | (with_reducible apply job_foldl_snd)
    | (with_reducible apply job_foldl_fst) | (simp only [job_mk]) | (with_reducible apply job_parts) | intro _ | split

theorem spmTask_tidy (op slot : Nat) (e : Ecc) {s : State} (hs : s.tidy = true) :
    (spmTask op slot e s).tidy = true := by
  unfold spmTask
  try dsimp only
  repeat' first
    | with_reducible assumption | (with_reducible apply engineTask_tidy) | (with_reducible apply runSpm_tidy) | intro _
    | split

end Sys2Proof.Machine
end

