-- ==== Sys2Proof/Laws/KeepsGraphOps.lean ====
section
/-! SUPPORT. GraphOps: every function keeps the canonical form of the memories and the registers. -/

namespace Sys2Proof.Machine

theorem putCtr_tidy {s : State} (c v : Nat) (hs : s.tidy = true) :
    (putCtr s c v).tidy = true := by
  unfold putCtr
  try dsimp only
  repeat' first
    | with_reducible assumption | (with_reducible apply tidy_ite) | (simp only [tidy_mk]) | (with_reducible apply parts_of)
    | intro _ | split

theorem refreshReady_tidy {s : State} (hs : s.tidy = true) :
    (refreshReady s).tidy = true := by
  unfold refreshReady
  try dsimp only
  repeat' first
    | with_reducible assumption | (simp only [tidy_mk]) | (with_reducible apply parts_of) | intro _ | split

theorem answerWaits_tidy {s : State} (c : Nat) (hs : s.tidy = true) :
    (answerWaits s c).tidy = true := by
  unfold answerWaits
  try dsimp only
  repeat' first
    | with_reducible assumption | (with_reducible apply replyTo_tidy) | (with_reducible apply tidy_foldl)
    | (simp only [tidy_mk]) | (with_reducible apply parts_of) | intro _ | split

theorem setCtr_tidy {s : State} (c v : Nat) (hs : s.tidy = true) :
    (setCtr s c v).tidy = true := by
  unfold setCtr
  try dsimp only
  repeat' first
    | with_reducible assumption | (with_reducible apply putCtr_tidy) | (with_reducible apply refreshReady_tidy)
    | (with_reducible apply answerWaits_tidy) | intro _ | split

theorem signalCtr_tidy {s : State} (c : Nat) (hs : s.tidy = true) :
    (signalCtr s c).tidy = true := by
  unfold signalCtr
  try dsimp only
  repeat' first
    | with_reducible assumption | (with_reducible apply bump_tidy) | (with_reducible apply setCtr_tidy)
    | (with_reducible apply tidy_ite) | intro _ | split

theorem signalTask_tidy {s : State} (i : Inst) (d : Bytes) (hs : s.tidy = true) :
    (signalTask s i d).tidy = true := by
  unfold signalTask
  try dsimp only
  repeat' first
    | with_reducible assumption | (with_reducible apply signalCtr_tidy) | (with_reducible apply tidy_foldl) | intro _ | split

theorem signalUnread_tidy {s : State} (i : Inst) (k : Nat) (hs : s.tidy = true) :
    (signalUnread s i k).tidy = true := by
  unfold signalUnread
  try dsimp only
  repeat' first
    | with_reducible assumption | (with_reducible apply signalCtr_tidy) | (with_reducible apply tidy_foldl)
    | (with_reducible apply tidy_ite) | intro _ | split

theorem modInst_tidy {s : State} (n : Nat) (f : Inst → Inst) (hs : s.tidy = true) :
    (modInst s n f).tidy = true := by
  unfold modInst
  try dsimp only
  repeat' first
    | with_reducible assumption | (with_reducible apply tidy_ite) | (simp only [tidy_mk]) | (with_reducible apply parts_of)
    | intro _ | split

theorem modStepOf_tidy {s : State} (inst : Nat) (f : Step → Step) (hs : s.tidy = true) :
    (modStepOf s inst f).tidy = true := by
  unfold modStepOf
  try dsimp only
  repeat' first
    | with_reducible assumption | (with_reducible apply st_tidy) | (with_reducible apply tidy_ite) | (simp only [tidy_mk])
    | (with_reducible apply parts_of) | intro _ | split

theorem voidRest_tidy {s : State} (n : Nat) (hs : s.tidy = true) :
    (voidRest s n).tidy = true := by
  unfold voidRest
  try dsimp only
  repeat' first
    | with_reducible assumption | (with_reducible apply bump64_tidy) | (with_reducible apply signalTask_tidy)
    | (with_reducible apply signalUnread_tidy) | (with_reducible apply modInst_tidy) | (with_reducible apply tidy_foldl)
    | (simp only [tidy_mk]) | (with_reducible apply parts_of) | intro _ | split

theorem failInst_tidy {s : State} (n status task : Nat) (hs : s.tidy = true) :
    (failInst s n status task).tidy = true := by
  unfold failInst
  try dsimp only
  repeat' first
    | with_reducible assumption | (with_reducible apply st_tidy) | (with_reducible apply modInst_tidy)
    | (with_reducible apply modStepOf_tidy) | (with_reducible apply voidRest_tidy) | (with_reducible apply tidy_ite)
    | (simp only [tidy_mk]) | (with_reducible apply parts_of) | intro _ | split

theorem chargeNear_tidy {s : State} (sp part n : Nat) (hs : s.tidy = true) :
    (chargeNear s sp part n).tidy = true := by
  unfold chargeNear
  try dsimp only
  repeat' first
    | with_reducible assumption | (with_reducible apply charge_tidy) | (with_reducible apply tidy_ite) | intro _ | split

theorem answerMaint_tidy {s : State} (hs : s.tidy = true) :
    (answerMaint s).tidy = true := by
  unfold answerMaint
  try dsimp only
  repeat' first
    | with_reducible assumption | (with_reducible apply fail_tidy) | (with_reducible apply tidy_foldl)
    | (with_reducible apply tidy_ite) | (simp only [tidy_mk]) | (with_reducible apply parts_of) | intro _ | split

theorem completeInst_tidy {s : State} (i : Inst) (hs : s.tidy = true) :
    (completeInst s i).tidy = true := by
  unfold completeInst
  try dsimp only
  repeat' first
    | with_reducible assumption | (with_reducible apply st_tidy) | (with_reducible apply notify_tidy)
    | (with_reducible apply signalCtr_tidy) | (with_reducible apply chargeNear_tidy) | (with_reducible apply answerMaint_tidy)
    | (with_reducible apply tidy_ite) | (simp only [tidy_mk]) | (with_reducible apply parts_of) | intro _ | split

theorem tryComplete_tidy {s : State} (n : Nat) (hs : s.tidy = true) :
    (tryComplete s n).tidy = true := by
  unfold tryComplete
  try dsimp only
  repeat' first
    | with_reducible assumption | (with_reducible apply completeInst_tidy) | (with_reducible apply tidy_ite)
    | (simp only [tidy_mk]) | (with_reducible apply parts_of) | intro _ | split

theorem failNow_tidy {s : State} (n status task : Nat) (hs : s.tidy = true) :
    (failNow s n status task).tidy = true := by
  unfold failNow
  try dsimp only
  repeat' first
    | with_reducible assumption | (with_reducible apply failInst_tidy) | (with_reducible apply tryComplete_tidy) | intro _
    | split

theorem suspectInst_tidy {s : State} (n task : Nat) (hs : s.tidy = true) :
    (suspectInst s n task).tidy = true := by
  unfold suspectInst
  try dsimp only
  repeat' first
    | with_reducible assumption | (with_reducible apply st_tidy) | (with_reducible apply modInst_tidy)
    | (with_reducible apply modStepOf_tidy) | (with_reducible apply tidy_ite) | (simp only [tidy_mk])
    | (with_reducible apply parts_of) | intro _ | split

theorem retireTask_tidy {s : State} (slot : Nat) (sl : Slot) (i : Inst) (status : Nat) (hs : s.tidy = true) :
    (retireTask s slot sl i status).tidy = true := by
  unfold retireTask
  try dsimp only
  repeat' first
    | with_reducible assumption | (with_reducible apply signalTask_tidy) | (with_reducible apply modInst_tidy)
    | (with_reducible apply failInst_tidy) | (with_reducible apply tryComplete_tidy) | (with_reducible apply tidy_ite)
    | (simp only [tidy_mk]) | (with_reducible apply parts_of) | intro _ | split

end Sys2Proof.Machine
end

