-- ==== Sys2Proof/Laws/KeepsBeds.lean ====
section
/-! SUPPORT. Beds: every function keeps the canonical form of the memories and the registers. -/

namespace Sys2Proof.Machine

theorem setArr_tidy {s : State} (n : Nat) (a : Arr) (hs : s.tidy = true) :
    (setArr s n a).tidy = true := by
  unfold setArr
  try dsimp only
  repeat' first
    | with_reducible assumption | (with_reducible apply tidy_ite) | (simp only [tidy_mk]) | (with_reducible apply parts_of)
    | intro _ | split

theorem dropSliceWb_tidy {s : State} (a n : Nat) (hs : s.tidy = true) :
    (dropSliceWb s a n).tidy = true := by
  unfold dropSliceWb
  try dsimp only
  repeat' first
    | with_reducible assumption | (simp only [tidy_mk]) | (with_reducible apply parts_of) | intro _ | split

theorem stSlice_tidy {s : State} (a : Nat) (bs : Bytes) (hs : s.tidy = true) :
    (stSlice s a bs).tidy = true := by
  unfold stSlice
  try dsimp only
  repeat' first
    | with_reducible assumption | (with_reducible apply st_tidy) | (with_reducible apply dropSliceWb_tidy) | intro _ | split

theorem wipeSlice_tidy {s : State} (a n : Nat) (hs : s.tidy = true) :
    (wipeSlice s a n).tidy = true := by
  unfold wipeSlice
  try dsimp only
  repeat' first
    | with_reducible assumption | (with_reducible apply wipeRange_tidy) | (with_reducible apply dropSliceWb_tidy) | intro _
    | split

theorem sliceCe_tidy {s : State} (a x : Nat) (hs : s.tidy = true) :
    (sliceCe s a x).tidy = true := by
  unfold sliceCe
  try dsimp only
  repeat' first
    | with_reducible assumption | (with_reducible apply setFld_tidy) | (with_reducible apply corrected_tidy)
    | (with_reducible apply tidy_ite) | (simp only [tidy_mk]) | (with_reducible apply parts_of) | intro _ | split

theorem setMove_tidy {s : State} (b : Nat) (m : BedMove) (hs : s.tidy = true) :
    (setMove s b m).tidy = true := by
  unfold setMove
  try dsimp only
  repeat' first
    | with_reducible assumption | (with_reducible apply setFld_tidy) | (with_reducible apply tidy_ite) | (simp only [tidy_mk])
    | (with_reducible apply parts_of) | intro _ | split

theorem arrLost_tidy {s : State} (a : Nat) (hs : s.tidy = true) :
    (arrLost s a).tidy = true := by
  unfold arrLost
  try dsimp only
  repeat' first
    | with_reducible assumption | (with_reducible apply setArr_tidy) | (simp only [tidy_mk]) | (with_reducible apply parts_of)
    | intro _ | split

theorem bedLost_tidy {s : State} (b : Nat) (hs : s.tidy = true) :
    (bedLost s b).tidy = true := by
  unfold bedLost
  try dsimp only
  repeat' first
    | with_reducible assumption | (with_reducible apply arrLost_tidy) | (with_reducible apply tidy_foldl) | intro _ | split

theorem bedEnter_tidy {s : State} (b st : Nat) (hs : s.tidy = true) :
    (bedEnter s b st).tidy = true := by
  unfold bedEnter
  try dsimp only
  repeat' first
    | with_reducible assumption | (with_reducible apply setFld_tidy) | (with_reducible apply st_tidy)
    | (with_reducible apply setMove_tidy) | intro _ | split

theorem wantRun_tidy {s : State} (b : Nat) (hs : s.tidy = true) :
    (wantRun s b).tidy = true := by
  unfold wantRun
  try dsimp only
  repeat' first
    | with_reducible assumption | (with_reducible apply tidy_ite) | (simp only [tidy_mk]) | (with_reducible apply parts_of)
    | intro _ | split

theorem wantIdle_tidy {s : State} (b : Nat) (hs : s.tidy = true) :
    (wantIdle s b).tidy = true := by
  unfold wantIdle
  try dsimp only
  repeat' first
    | with_reducible assumption | (with_reducible apply tidy_ite) | (simp only [tidy_mk]) | (with_reducible apply parts_of)
    | intro _ | split

theorem raiseBed_tidy {s : State} (b : Nat) (hs : s.tidy = true) :
    (raiseBed s b).tidy = true := by
  unfold raiseBed
  try dsimp only
  repeat' first
    | with_reducible assumption | (with_reducible apply setMove_tidy) | (with_reducible apply wantRun_tidy)
    | (with_reducible apply tidy_ite) | (simp only [tidy_mk]) | (with_reducible apply parts_of) | intro _ | split

theorem bedToIdle_tidy {s : State} (b : Nat) (hs : s.tidy = true) :
    (bedToIdle s b).tidy = true := by
  unfold bedToIdle
  try dsimp only
  repeat' first
    | with_reducible assumption | (with_reducible apply bump_tidy) | (with_reducible apply setMove_tidy)
    | (with_reducible apply bedLost_tidy) | (with_reducible apply bedEnter_tidy) | (with_reducible apply wantIdle_tidy)
    | (with_reducible apply tidy_ite) | (simp only [tidy_mk]) | (with_reducible apply parts_of) | intro _ | split

theorem bedIdleEntry_tidy {s : State} (b : Nat) (hs : s.tidy = true) :
    (bedIdleEntry s b).tidy = true := by
  unfold bedIdleEntry
  try dsimp only
  repeat' first
    | with_reducible assumption | (with_reducible apply setMove_tidy) | (with_reducible apply bedEnter_tidy)
    | (with_reducible apply tidy_ite) | intro _ | split

theorem bedEntryComplete_tidy {s : State} (b : Nat) (hs : s.tidy = true) :
    (bedEntryComplete s b).tidy = true := by
  unfold bedEntryComplete
  try dsimp only
  repeat' first
    | with_reducible assumption | (with_reducible apply setMove_tidy) | (with_reducible apply bedLost_tidy)
    | (with_reducible apply bedEnter_tidy) | (with_reducible apply tidy_ite) | (simp only [tidy_mk])
    | (with_reducible apply parts_of) | intro _ | split

theorem setWs_tidy {s : State} (b : Nat) (clr rel : Bool) (hs : s.tidy = true) :
    (setWs s b clr rel).tidy = true := by
  unfold setWs
  try dsimp only
  repeat' first
    | with_reducible assumption | (with_reducible apply setFld_tidy) | intro _ | split

theorem wipeSlices_tidy {s : State} (b : Nat) (hs : s.tidy = true) :
    (wipeSlices s b).tidy = true := by
  unfold wipeSlices
  try dsimp only
  repeat' first
    | with_reducible assumption | (with_reducible apply wipeSlice_tidy) | (with_reducible apply tidy_foldl) | intro _ | split

theorem bedWake_tidy {s : State} (b : Nat) (hs : s.tidy = true) :
    (bedWake s b).tidy = true := by
  unfold bedWake
  try dsimp only
  repeat' first
    | with_reducible assumption | (with_reducible apply bump_tidy) | (with_reducible apply bedLost_tidy)
    | (with_reducible apply bedEnter_tidy) | (with_reducible apply setWs_tidy) | (with_reducible apply wipeSlices_tidy)
    | (with_reducible apply tidy_ite) | (simp only [tidy_mk]) | (with_reducible apply parts_of) | intro _ | split

theorem shadowBit_tidy {s : State} (lg addr : Nat) (hs : s.tidy = true) :
    (shadowBit s lg addr).tidy = true := by
  unfold shadowBit
  try dsimp only
  repeat' first
    | with_reducible assumption | (with_reducible apply setFld_tidy) | (with_reducible apply record_tidy)
    | (with_reducible apply tidy_ite) | intro _ | split

theorem shadowInvalid_tidy {s : State} (lg addr : Nat) (hs : s.tidy = true) :
    (shadowInvalid s lg addr).tidy = true := by
  unfold shadowInvalid
  try dsimp only
  repeat' first
    | with_reducible assumption | (with_reducible apply bump_tidy) | (with_reducible apply withdraw_tidy)
    | (with_reducible apply shadowBit_tidy) | (simp only [tidy_mk]) | (with_reducible apply parts_of) | intro _ | split

theorem loadSlice_tidy {s : State} (a lg : Nat) (all : Bool) (e : Ecc) (hs : s.tidy = true) :
    (loadSlice s a lg all e).tidy = true := by
  unfold loadSlice
  try dsimp only
  repeat' first
    | with_reducible assumption | (with_reducible apply markBad_tidy) | (with_reducible apply charge_tidy)
    | (with_reducible apply readCe_tidy) | (with_reducible apply wipeSlice_tidy) | (with_reducible apply shadowInvalid_tidy)
    | (with_reducible apply tidy_foldl) | (with_reducible apply tidy_ite) | (simp only [tidy_mk])
    | (with_reducible apply parts_of) | (with_reducible apply parts_mk) | (with_reducible refine Kept.mk ?_ ?_ ?_ ?_ ?_)
    | (with_reducible apply wf_commons) | (with_reducible apply wf_near) | (with_reducible apply wf_far)
    | (with_reducible apply wf_slices) | (with_reducible apply wf_regs) | (with_reducible exact cellsWf_nil)
    | (with_reducible apply cellsWf_filter) | (with_reducible apply cellsWf_pokeAll) | intro _ | split

theorem bedReloadComplete_tidy {s : State} (b : Nat) (e : Ecc) (hs : s.tidy = true) :
    (bedReloadComplete s b e).tidy = true := by
  unfold bedReloadComplete
  try dsimp only
  repeat' first
    | with_reducible assumption | (with_reducible apply bump_tidy) | (with_reducible apply bedEnter_tidy)
    | (with_reducible apply setWs_tidy) | (with_reducible apply loadSlice_tidy) | (with_reducible apply tidy_foldl)
    | (with_reducible apply tidy_ite) | (simp only [tidy_mk]) | (with_reducible apply parts_of) | intro _ | split

theorem bedPolicy_tidy {s : State} (forecast : List Nat) (hs : s.tidy = true) :
    (bedPolicy s forecast).tidy = true := by
  unfold bedPolicy
  try dsimp only
  repeat' first
    | with_reducible assumption | (with_reducible apply setFld_tidy) | (with_reducible apply raiseBed_tidy)
    | (with_reducible apply tidy_foldl) | (with_reducible apply tidy_ite) | intro _ | split

theorem shadowRebuild_tidy {s : State} (lg : Nat) (e : Ecc) (hs : s.tidy = true) :
    (shadowRebuild s lg e).tidy = true := by
  unfold shadowRebuild
  try dsimp only
  repeat' first
    | with_reducible assumption | (with_reducible apply setFld_tidy) | (with_reducible apply wipeRange_tidy)
    | (with_reducible apply markBad_tidy) | (with_reducible apply copyRange_tidy) | (with_reducible apply charge_tidy)
    | (with_reducible apply record_tidy) | (with_reducible apply sliceCe_tidy) | (with_reducible apply tidy_foldl)
    | (with_reducible apply tidy_ite) | (simp only [tidy_mk]) | (with_reducible apply parts_of)
    | (with_reducible apply parts_mk) | (with_reducible refine Kept.mk ?_ ?_ ?_ ?_ ?_) | (with_reducible apply wf_commons)
    | (with_reducible apply wf_near) | (with_reducible apply wf_far) | (with_reducible apply wf_slices)
    | (with_reducible apply wf_regs) | (with_reducible exact cellsWf_nil) | (with_reducible apply cellsWf_filter)
    | (with_reducible apply cellsWf_pokeAll) | intro _ | split

end Sys2Proof.Machine
end

