-- ==== Sys2Proof/Laws/KeepsRasOps.lean ====
section
/-! SUPPORT. RasOps: every function keeps the canonical form of the memories and the registers. -/

namespace Sys2Proof.Machine

theorem setUnitState_tidy {s : State} (kind a st : Nat) (hs : s.tidy = true) :
    (setUnitState s kind a st).tidy = true := by
  unfold setUnitState
  try dsimp only
  repeat' first
    | with_reducible assumption | (with_reducible apply setFld_tidy) | (with_reducible apply st_tidy) | intro _ | split

theorem setLogical_tidy {s : State} (kind a lg : Nat) (hs : s.tidy = true) :
    (setLogical s kind a lg).tidy = true := by
  unfold setLogical
  try dsimp only
  repeat' first
    | with_reducible assumption | (with_reducible apply setFld_tidy) | (with_reducible apply tidy_ite) | intro _ | split

theorem mapUnit_tidy {s : State} (kind lg : Nat) (phys : Option Nat) (hs : s.tidy = true) :
    (mapUnit s kind lg phys).tidy = true := by
  unfold mapUnit
  try dsimp only
  repeat' first
    | with_reducible assumption | (with_reducible apply wr_tidy) | (with_reducible apply setFld_tidy) | (with_reducible apply tidy_ite)
    | (simp only [tidy_mk])
    | (with_reducible apply parts_of) | intro _ | split

theorem retireForGood_tidy {s : State} (kind a : Nat) (hs : s.tidy = true) :
    (retireForGood s kind a).tidy = true := by
  unfold retireForGood
  try dsimp only
  repeat' first
    | with_reducible assumption | (with_reducible apply setUnitState_tidy) | (with_reducible apply tidy_ite)
    | (simp only [tidy_mk]) | (with_reducible apply parts_of) | intro _ | split

theorem takeSpare_tidy {s : State} (kind : Nat) (hs : s.tidy = true) :
    (takeSpare s kind).2.tidy = true := by
  unfold takeSpare
  try dsimp only
  repeat' first
    | with_reducible assumption | (with_reducible apply bedToIdle_tidy) | (with_reducible apply setUnitState_tidy)
    | (with_reducible apply tidy_ite) | (simp only [tidy_mk]) | (with_reducible apply parts_of) | intro _ | split
theorem takeSpare_tidy_eq {s : State} {kind : Nat} {x : Option Nat} {t : State} (e : takeSpare s kind = (x, t)) (hs : s.tidy = true) :
    t.tidy = true := by
  have := takeSpare_tidy kind hs; rw [e] at this; exact this

theorem exhausted_tidy {s : State} (kind lg a : Nat) (hs : s.tidy = true) :
    (exhausted s kind lg a).tidy = true := by
  unfold exhausted
  try dsimp only
  repeat' first
    | with_reducible assumption | (with_reducible apply record_tidy) | (with_reducible apply mapUnit_tidy)
    | (with_reducible apply tidy_ite) | intro _ | split

theorem startRetire_tidy {s : State} (kind a : Nat) (definite : Bool) (cause : Nat) (hs : s.tidy = true) :
    (startRetire s kind a definite cause).tidy = true := by
  unfold startRetire
  try dsimp only
  repeat' first
    | with_reducible assumption | (with_reducible apply setUnitState_tidy) | (with_reducible apply takeSpare_tidy)
    | (with_reducible refine takeSpare_tidy_eq (by with_reducible assumption) ?_) | (with_reducible apply exhausted_tidy)
    | (with_reducible apply tidy_ite) | (simp only [tidy_mk]) | (with_reducible apply parts_of) | intro _ | split

theorem suspectTask_tidy {s : State} (i : Inst) (sl : Slot) (f : FaultRec) (hs : s.tidy = true) :
    (suspectTask s i sl f).tidy = true := by
  unfold suspectTask
  try dsimp only
  repeat' first
    | with_reducible assumption | (with_reducible apply record_tidy) | (with_reducible apply suspectInst_tidy)
    | (simp only [tidy_mk]) | (with_reducible apply parts_of) | intro _ | split

theorem setRetire_tidy {s : State} (lg : Nat) (f : Retire → Retire) (hs : s.tidy = true) :
    (setRetire s lg f).tidy = true := by
  unfold setRetire
  try dsimp only
  repeat' first
    | with_reducible assumption | (with_reducible apply tidy_ite) | (simp only [tidy_mk]) | (with_reducible apply parts_of)
    | intro _ | split

theorem repairCopyComplete_tidy {s : State} (lg : Nat) (e : Ecc) (hs : s.tidy = true) :
    (repairCopyComplete s lg e).tidy = true := by
  unfold repairCopyComplete
  try dsimp only
  repeat' first
    | with_reducible assumption | (with_reducible apply markBad_tidy) | (with_reducible apply shadowInvalid_tidy)
    | (with_reducible apply loadSlice_tidy) | (with_reducible apply retireForGood_tidy)
    | (with_reducible apply takeSpare_tidy) | (with_reducible refine takeSpare_tidy_eq (by with_reducible assumption) ?_)
    | (with_reducible apply exhausted_tidy) | (with_reducible apply setRetire_tidy) | (with_reducible apply tidy_ite)
    | (simp only [tidy_mk]) | (with_reducible apply parts_of) | intro _ | split

theorem unitRetired_tidy {s : State} (kind a : Nat) (spare : Option Nat) (lg left cause : Nat) (hs : s.tidy = true) :
    (unitRetired s kind a spare lg left cause).tidy = true := by
  unfold unitRetired
  try dsimp only
  repeat' first
    | with_reducible assumption | (with_reducible apply notify_tidy) | (with_reducible apply record_tidy)
    | (with_reducible apply tidy_ite) | intro _ | split

theorem dropInstance_tidy {s : State} (kind a cause : Nat) (hs : s.tidy = true) :
    (dropInstance s kind a cause).tidy = true := by
  unfold dropInstance
  try dsimp only
  repeat' first
    | with_reducible assumption | (with_reducible apply unitRetired_tidy) | (with_reducible apply tidy_ite)
    | (simp only [tidy_mk]) | (with_reducible apply parts_of) | intro _ | split

theorem wakeFor_tidy {s : State} (lg sp : Nat) (hs : s.tidy = true) :
    (wakeFor s lg sp).tidy = true := by
  unfold wakeFor
  try dsimp only
  repeat' first
    | with_reducible assumption | (with_reducible apply raiseBed_tidy) | (with_reducible apply tidy_ite) | intro _ | split

theorem bringIn_tidy {s : State} (r : Retire) (hs : s.tidy = true) :
    (bringIn s r).tidy = true := by
  unfold bringIn
  try dsimp only
  repeat' first
    | with_reducible assumption | (with_reducible apply setUnitState_tidy) | (with_reducible apply setLogical_tidy)
    | (with_reducible apply mapUnit_tidy) | (with_reducible apply wakeFor_tidy) | (with_reducible apply tidy_ite)
    | (simp only [tidy_mk]) | (with_reducible apply parts_of) | intro _ | split

theorem remapOne_tidy {s : State} (r : Retire) (hs : s.tidy = true) :
    (remapOne s r).tidy = true := by
  unfold remapOne
  try dsimp only
  repeat' first
    | with_reducible assumption | (with_reducible apply setUnitState_tidy) | (with_reducible apply setLogical_tidy)
    | (with_reducible apply retireForGood_tidy) | (with_reducible apply unitRetired_tidy)
    | (with_reducible apply dropInstance_tidy) | (with_reducible apply bringIn_tidy) | (with_reducible apply tidy_ite)
    | intro _ | split

theorem remapAll_tidy {s : State} (hs : s.tidy = true) :
    (remapAll s).tidy = true := by
  unfold remapAll
  try dsimp only
  repeat' first
    | with_reducible assumption | (with_reducible apply remapOne_tidy) | (with_reducible apply tidy_foldl)
    | (simp only [tidy_mk]) | (with_reducible apply parts_of) | intro _ | split

theorem bankInfo_tidy {s : State} (hs : s.tidy = true) :
    (bankInfo s).tidy = true := by
  unfold bankInfo
  try dsimp only
  repeat' first
    | with_reducible assumption | (with_reducible apply wr_tidy) | intro _ | split

theorem replaceBank_tidy {s : State} (p : Nat) (hs : s.tidy = true) :
    (replaceBank s p).tidy = true := by
  unfold replaceBank
  try dsimp only
  repeat' first
    | with_reducible assumption | (with_reducible apply bankInfo_tidy) | (with_reducible apply tidy_ite)
    | (simp only [tidy_mk]) | (with_reducible apply parts_of) | intro _ | split

end Sys2Proof.Machine
end

