-- ==== Sys2Proof/Laws/KeepsArrays.lean ====
section
/-! SUPPORT. Arrays: every function keeps the canonical form of the memories and the registers. -/

namespace Sys2Proof.Machine

theorem modArr_tidy {s : State} (a : Nat) (f : Arr → Arr) (hs : s.tidy = true) :
    (modArr s a f).tidy = true := by
  unfold modArr
  try dsimp only
  repeat' first
    | with_reducible assumption | (with_reducible apply setArr_tidy) | intro _ | split

theorem arrDone_tidy {s : State} (a : Nat) (hs : s.tidy = true) :
    (arrDone s a).tidy = true := by
  unfold arrDone
  try dsimp only
  repeat' first
    | with_reducible assumption | (with_reducible apply modArr_tidy) | (simp only [tidy_mk]) | (with_reducible apply parts_of)
    | intro _ | split

theorem arrAbort_tidy {s : State} (a slot st : Nat) (hs : s.tidy = true) :
    (arrAbort s a slot st).tidy = true := by
  unfold arrAbort
  try dsimp only
  repeat' first
    | with_reducible assumption | (with_reducible apply st_tidy) | (with_reducible apply endTask_tidy)
    | (with_reducible apply modArr_tidy) | (with_reducible apply arrDone_tidy) | (simp only [tidy_mk])
    | (with_reducible apply parts_of) | intro _ | split

theorem arrayTask_tidy {s : State} (slot : Nat) (hs : s.tidy = true) :
    (arrayTask s slot).tidy = true := by
  unfold arrayTask
  try dsimp only
  repeat' first
    | with_reducible assumption | (with_reducible apply endTask_tidy) | (with_reducible apply beginTask_tidy)
    | (with_reducible apply modArr_tidy) | (with_reducible apply tidy_ite) | (simp only [tidy_mk])
    | (with_reducible apply parts_of) | intro _ | split

theorem sliceUe_tidy {s : State} (a : Nat) (r : ArrRun) (sl : Slot) (i : Inst) (x : Nat) (hs : s.tidy = true) :
    (sliceUe s a r sl i x).tidy = true := by
  unfold sliceUe
  try dsimp only
  repeat' first
    | with_reducible assumption | (with_reducible apply markBad_tidy) | (with_reducible apply record_tidy)
    | (with_reducible apply arrAbort_tidy) | intro _ | split

theorem tileLoad_tidy {s : State} (a : Nat) (e : Ecc) (hs : s.tidy = true) :
    (tileLoad s a e).tidy = true := by
  unfold tileLoad
  try dsimp only
  repeat' first
    | with_reducible assumption | (with_reducible apply bump_tidy) | (with_reducible apply sliceCe_tidy)
    | (with_reducible apply modArr_tidy) | (with_reducible apply sliceUe_tidy) | (with_reducible apply tidy_ite)
    | (simp only [tidy_mk]) | (with_reducible apply parts_of) | intro _ | split

theorem sliceWriteback_tidy {s : State} (a line : Nat) (hs : s.tidy = true) :
    (sliceWriteback s a line).tidy = true := by
  unfold sliceWriteback
  try dsimp only
  repeat' first
    | with_reducible assumption | (simp only [tidy_mk]) | (with_reducible apply parts_of) | intro _ | split

theorem actTaken_tidy {s : State} (l : List (Nat × Nat)) (hs : s.tidy = true) :
    (actTaken s l).tidy = true := by
  unfold actTaken
  try dsimp only
  repeat' first
    | with_reducible assumption | (with_reducible apply delivered_tidy) | (with_reducible apply tidy_foldl) | intro _ | split

theorem actBlockFetch_tidy {s : State} (a : Nat) (e : Ecc) (hs : s.tidy = true) :
    (actBlockFetch s a e).tidy = true := by
  unfold actBlockFetch
  try dsimp only
  repeat' first
    | with_reducible assumption | (with_reducible apply markBad_tidy) | (with_reducible apply readUe_tidy)
    | (with_reducible apply readCe_tidy) | (with_reducible apply modArr_tidy) | (with_reducible apply arrAbort_tidy)
    | (with_reducible apply actTaken_tidy) | (with_reducible apply tidy_ite) | (simp only [tidy_mk])
    | (with_reducible apply parts_of) | intro _ | split

theorem returnRows_tidy {s : State} (a : Nat) (hs : s.tidy = true) :
    (returnRows s a).tidy = true := by
  unfold returnRows
  try dsimp only
  repeat' first
    | with_reducible assumption | (with_reducible apply modArr_tidy) | (simp only [tidy_mk]) | (with_reducible apply parts_of)
    | intro _ | split

theorem setSlot_tidy {s : State} (n : Nat) (r : Option RedSlot) (hs : s.tidy = true) :
    (setSlot s n r).tidy = true := by
  unfold setSlot
  try dsimp only
  repeat' first
    | with_reducible assumption | (simp only [tidy_mk]) | (with_reducible apply parts_of) | intro _ | split

theorem freeLatch_tidy {s : State} (a slot : Nat) (hs : s.tidy = true) :
    (freeLatch s a slot).tidy = true := by
  unfold freeLatch
  try dsimp only
  repeat' first
    | with_reducible assumption | (with_reducible apply modArr_tidy) | (simp only [tidy_mk]) | (with_reducible apply parts_of)
    | intro _ | split

theorem discardPart_tidy (slot : Nat) {s : State} (p : Part) (hs : s.tidy = true) :
    (discardPart slot s p).tidy = true := by
  unfold discardPart
  try dsimp only
  repeat' first
    | with_reducible assumption | (with_reducible apply endTask_tidy) | (with_reducible apply failNow_tidy)
    | (with_reducible apply returnRows_tidy) | (with_reducible apply freeLatch_tidy) | (with_reducible apply tidy_ite)
    | (simp only [tidy_mk]) | (with_reducible apply parts_of) | intro _ | split

theorem failPart_tidy (parts : List Part) {s : State} (p : Part) (hs : s.tidy = true) :
    (failPart parts s p).tidy = true := by
  unfold failPart
  try dsimp only
  repeat' first
    | with_reducible assumption | (with_reducible apply failInst_tidy) | (with_reducible apply tidy_foldl) | intro _ | split

theorem mismatch_tidy {s : State} (slot : Nat) (held contrib cause : Nat) (parts : List Part) (hs : s.tidy = true) :
    (mismatch s slot held contrib cause parts).tidy = true := by
  unfold mismatch
  try dsimp only
  repeat' first
    | with_reducible assumption | (with_reducible apply bump_tidy) | (with_reducible apply record_tidy)
    | (with_reducible apply setSlot_tidy) | (with_reducible apply discardPart_tidy) | (with_reducible apply failPart_tidy)
    | (with_reducible apply tidy_foldl) | (simp only [tidy_mk]) | (with_reducible apply parts_of) | intro _ | split

theorem emitPart_tidy {s : State} (d : Bytes) (p : Part) (hs : s.tidy = true) :
    (emitPart s d p).tidy = true := by
  unfold emitPart
  try dsimp only
  repeat' first
    | with_reducible assumption | (with_reducible apply endTask_tidy) | (with_reducible apply setSlot_tidy)
    | (with_reducible apply mismatch_tidy) | (with_reducible apply tidy_ite) | (simp only [tidy_mk])
    | (with_reducible apply parts_of) | intro _ | split

theorem giveRows_tidy {s : State} (a tokens : Nat) (spill : Bool) (hs : s.tidy = true) :
    (giveRows s a tokens spill).tidy = true := by
  unfold giveRows
  try dsimp only
  repeat' first
    | with_reducible assumption | (with_reducible apply modArr_tidy) | (with_reducible apply tidy_ite) | (simp only [tidy_mk])
    | (with_reducible apply parts_of) | intro _ | split

theorem dropLatch_tidy {s : State} (a : Nat) (d : Bytes) (hs : s.tidy = true) :
    (dropLatch s a d).tidy = true := by
  unfold dropLatch
  try dsimp only
  repeat' first
    | with_reducible assumption | (with_reducible apply freeLatch_tidy) | (with_reducible apply tidy_ite) | intro _ | split

theorem chainEnd_tidy {s : State} (a : Nat) (r : ArrRun) (sl : Slot) (i : Inst) (hs : s.tidy = true) :
    (chainEnd s a r sl i).tidy = true := by
  unfold chainEnd
  try dsimp only
  repeat' first
    | with_reducible assumption | (with_reducible apply bump_tidy) | (with_reducible apply st_tidy)
    | (with_reducible apply readUe_tidy) | (with_reducible apply delivered_tidy) | (with_reducible apply endTask_tidy)
    | (with_reducible apply modArr_tidy) | (with_reducible apply arrDone_tidy) | (with_reducible apply arrAbort_tidy)
    | (with_reducible apply mismatch_tidy) | (with_reducible apply emitPart_tidy) | (with_reducible apply giveRows_tidy)
    | (with_reducible apply dropLatch_tidy) | (with_reducible apply tidy_ite) | (simp only [tidy_mk])
    | (with_reducible apply parts_of) | intro _ | split

theorem badAct_tidy {s : State} (a : Nat) (r : ArrRun) (sl : Slot) (i : Inst) (hs : s.tidy = true) :
    (badAct s a r sl i).tidy = true := by
  unfold badAct
  try dsimp only
  repeat' first
    | with_reducible assumption | (with_reducible apply bump_tidy) | (with_reducible apply record_tidy)
    | (with_reducible apply tidy_ite) | intro _ | split

theorem passChecks_tidy {s : State} (a : Nat) (r : ArrRun) (sl : Slot) (i : Inst) (residueOk timingOk : Bool) (hs : s.tidy = true) :
    (passChecks s a r sl i residueOk timingOk).tidy = true := by
  unfold passChecks
  try dsimp only
  repeat' first
    | with_reducible assumption | (with_reducible apply startRetire_tidy) | (with_reducible apply suspectTask_tidy)
    | (with_reducible apply tidy_ite) | intro _ | split

theorem passEnd_tidy {s : State} (a : Nat) (residueOk timingOk : Bool) (hs : s.tidy = true) :
    (passEnd s a residueOk timingOk).tidy = true := by
  unfold passEnd
  try dsimp only
  repeat' first
    | with_reducible assumption | (with_reducible apply bump64_tidy) | (with_reducible apply modArr_tidy)
    | (with_reducible apply chainEnd_tidy) | (with_reducible apply badAct_tidy) | (with_reducible apply passChecks_tidy)
    | (with_reducible apply tidy_ite) | (simp only [tidy_mk]) | (with_reducible apply parts_of) | intro _ | split

theorem creditReturn_tidy {s : State} (a row : Nat) (hs : s.tidy = true) :
    (creditReturn s a row).tidy = true := by
  unfold creditReturn
  try dsimp only
  repeat' first
    | with_reducible assumption | (with_reducible apply modArr_tidy) | (simp only [tidy_mk]) | (with_reducible apply parts_of)
    | intro _ | split

theorem drainRows_tidy {s : State} (d : Bytes) (parts : List Part) (scales : Memory) (hs : s.tidy = true) :
    (drainRows s d parts scales).tidy = true := by
  unfold drainRows
  try dsimp only
  repeat' first
    | with_reducible assumption | (with_reducible apply bump_tidy) | (with_reducible apply st_tidy)
    | (with_reducible apply tidy_foldl) | (with_reducible apply tidy_ite) | intro _ | split

theorem slotReduce_tidy {s : State} (n : Nat) (residueOk : Bool) (hs : s.tidy = true) :
    (slotReduce s n residueOk).tidy = true := by
  unfold slotReduce
  try dsimp only
  repeat' first
    | with_reducible assumption | (with_reducible apply readUe_tidy) | (with_reducible apply endTask_tidy)
    | (with_reducible apply suspectTask_tidy) | (with_reducible apply returnRows_tidy) | (with_reducible apply setSlot_tidy)
    | (with_reducible apply freeLatch_tidy) | (with_reducible apply drainRows_tidy) | (with_reducible apply tidy_foldl)
    | (with_reducible apply tidy_ite) | (simp only [tidy_mk]) | (with_reducible apply parts_of) | intro _ | split

theorem countWait_tidy {s : State} (a : Nat) (hs : s.tidy = true) :
    (countWait s a).tidy = true := by
  unfold countWait
  try dsimp only
  repeat' first
    | with_reducible assumption | (with_reducible apply bump64_tidy) | (with_reducible apply tidy_ite) | (simp only [tidy_mk])
    | (with_reducible apply parts_of) | intro _ | split

end Sys2Proof.Machine
end

