-- ==== Sys2Proof/Laws/KeepsAttention.lean ====
section
/-! SUPPORT. Attention: every function keeps the canonical form of the memories and the registers. -/

namespace Sys2Proof.Machine

theorem Job.pageBad_tidy {j : Job} (hj : j.tidy = true) :
    (Job.pageBad j).tidy = true := by
  unfold Job.pageBad
  try dsimp only
  repeat' first
    | with_reducible assumption | (with_reducible apply Job.tally_tidy) | (simp only [job_mk])
    | (with_reducible apply job_parts) | intro _ | split

theorem Job.tag3_tidy {j : Job} (sp a : Nat) (hj : j.tidy = true) :
    (Job.tag3 j sp a).tidy = true := by
  unfold Job.tag3
  try dsimp only
  repeat' first
    | with_reducible assumption | (simp only [job_mk]) | (with_reducible apply job_parts) | intro _ | split

theorem Job.rdc_tidy {j : Job} (a n : Nat) (hj : j.tidy = true) :
    (Job.rdc j a n).2.tidy = true := by
  unfold Job.rdc
  try dsimp only
  repeat' first
    | with_reducible assumption | (with_reducible apply Job.rd_tidy) | (with_reducible apply Job.pageBad_tidy) | intro _
    | split

theorem Job.wrc_tidy {j : Job} (a : Nat) (bs : Bytes) (hj : j.tidy = true) :
    (Job.wrc j a bs).tidy = true := by
  unfold Job.wrc
  try dsimp only
  repeat' first
    | with_reducible assumption | (with_reducible apply Job.wr_tidy) | (with_reducible apply Job.pageBad_tidy) | intro _
    | split

theorem Job.steps_tidy {j : Job} (l : List Nat) (f : Job → Nat → Job) (hj : j.tidy = true) (hf : ∀ v0 v1, v0.tidy = true → (f v0 v1).tidy = true) :
    (Job.steps j l f).tidy = true := by
  unfold Job.steps
  try dsimp only
  repeat' first
    | with_reducible assumption | (with_reducible apply hf) | (with_reducible apply job_foldl)
    | (with_reducible apply job_foldl_snd) | (with_reducible apply job_foldl_fst) | intro _ | split

theorem pageHead_tidy (s : State) (i : Inst) {j : Job} (sp base : Nat) (hj : j.tidy = true) :
    (pageHead s i j sp base).2.tidy = true := by
  unfold pageHead
  try dsimp only
  repeat' first
    | with_reducible assumption | (with_reducible apply Job.rd_tidy) | (with_reducible apply Job.pageBad_tidy) | intro _
    | split

theorem appendOne_tidy (d : Bytes) (sp base pos count : Nat) (src : Bytes) {j : Job} (b : Nat) (hj : j.tidy = true) :
    (appendOne d sp base pos count src j b).tidy = true := by
  unfold appendOne
  try dsimp only
  repeat' first
    | with_reducible assumption | (with_reducible apply Job.wr_tidy) | (with_reducible apply Job.rd_tidy)
    | (with_reducible apply Job.tally_tidy) | (with_reducible apply Job.conv_tidy) | (with_reducible apply Job.tag3_tidy)
    | intro _ | split

theorem appendRow_tidy (s : State) (i : Inst) (d : Bytes) (keep : Nat → Nat → Bool) {j : Job} (r : Nat) (hj : j.tidy = true) :
    (appendRow s i d keep j r).tidy = true := by
  unfold appendRow
  try dsimp only
  repeat' first
    | with_reducible assumption | (with_reducible apply pageHead_tidy) | (with_reducible apply appendOne_tidy)
    | (with_reducible apply Job.wr_tidy) | (with_reducible apply Job.pageBad_tidy) | (with_reducible apply Job.rdc_tidy)
    | (with_reducible apply Job.steps_tidy) | (simp only [job_mk]) | (with_reducible apply job_parts) | intro _ | split

theorem putHead_tidy (d rb : Bytes) {j : Job} (h : Nat) (x : Merged) (part : Bool) (hj : j.tidy = true) :
    (putHead d rb j h x part).tidy = true := by
  unfold putHead
  try dsimp only
  repeat' first
    | with_reducible assumption | (with_reducible apply Job.wrc_tidy) | intro _ | split

theorem rowPages_tidy (s : State) (i : Inst) (d rb : Bytes) {j : Job} (ps : List Nat) (hj : j.tidy = true) :
    (rowPages s i d rb j ps).2.tidy = true := by
  unfold rowPages
  try dsimp only
  repeat' first
    | with_reducible assumption | (with_reducible apply pageHead_tidy) | (with_reducible apply Job.pageBad_tidy)
    | (with_reducible apply Job.rdc_tidy) | (with_reducible apply job_foldl) | (with_reducible apply job_foldl_snd)
    | (with_reducible apply job_foldl_fst) | (simp only [job_mk]) | (with_reducible apply job_parts) | intro _ | split

theorem headBlocks_tidy (d rb : Bytes) (g : Nat) {j : Job} (pages : List (Nat × Nat × Nat × Bytes)) (hj : j.tidy = true) :
    (headBlocks d rb g j pages).2.tidy = true := by
  unfold headBlocks
  try dsimp only
  repeat' first
    | with_reducible assumption | (with_reducible apply Job.rd_tidy) | (with_reducible apply Job.tally_tidy)
    | (with_reducible apply Job.tag3_tidy) | (with_reducible apply job_foldl) | (with_reducible apply job_foldl_snd)
    | (with_reducible apply job_foldl_fst) | intro _ | split

theorem attendRow_tidy (s : State) (i : Inst) (d : Bytes) {j : Job} (r : Nat) (hj : j.tidy = true) :
    (attendRow s i d j r).tidy = true := by
  unfold attendRow
  try dsimp only
  repeat' first
    | with_reducible assumption | (with_reducible apply putHead_tidy) | (with_reducible apply rowPages_tidy)
    | (with_reducible apply headBlocks_tidy) | (with_reducible apply Job.conv_tidy) | (with_reducible apply Job.pageBad_tidy)
    | (with_reducible apply Job.rdc_tidy) | (with_reducible apply job_foldl) | (with_reducible apply job_foldl_snd)
    | (with_reducible apply job_foldl_fst) | intro _ | split

theorem mergeRow_tidy (k : Nat) (d : Bytes) {j : Job} (r : Nat) (hj : j.tidy = true) :
    (mergeRow k d j r).tidy = true := by
  unfold mergeRow
  try dsimp only
  repeat' first
    | with_reducible assumption | (with_reducible apply putHead_tidy) | (with_reducible apply Job.pageBad_tidy)
    | (with_reducible apply Job.rdc_tidy) | (with_reducible apply job_foldl) | (with_reducible apply job_foldl_snd)
    | (with_reducible apply job_foldl_fst) | intro _ | split

theorem demoteOne_tidy (key sp base : Nat) {j : Job} (b : Nat) (hj : j.tidy = true) :
    (demoteOne key sp base j b).tidy = true := by
  unfold demoteOne
  try dsimp only
  repeat' first
    | with_reducible assumption | (with_reducible apply Job.wr_tidy) | (with_reducible apply Job.rd_tidy)
    | (with_reducible apply Job.tally_tidy) | (with_reducible apply Job.conv_tidy) | (with_reducible apply Job.tag3_tidy)
    | (simp only [job_mk]) | (with_reducible apply job_parts) | intro _ | split

theorem demoteRow_tidy (s : State) (i : Inst) (d : Bytes) (keep : Nat → Nat → Bool) {j : Job} (r : Nat) (hj : j.tidy = true) :
    (demoteRow s i d keep j r).tidy = true := by
  unfold demoteRow
  try dsimp only
  repeat' first
    | with_reducible assumption | (with_reducible apply pageHead_tidy) | (with_reducible apply demoteOne_tidy)
    | (with_reducible apply Job.pageBad_tidy) | (with_reducible apply Job.rdc_tidy) | (with_reducible apply Job.steps_tidy)
    | (simp only [job_mk]) | (with_reducible apply job_parts) | intro _ | split

theorem undefinedOut_wf (d : Bytes) (fresh : Nat) {m : Mems} (h : tidyParts m [] = true) : tidyParts (undefinedOut d fresh m) [] = true := by
  simp only [tidyParts, undefinedOut, Bool.and_eq_true] at h ⊢
  obtain ⟨⟨⟨⟨h1, h2⟩, h3⟩, h4⟩, h5⟩ := h
  have gen : ∀ (l : List (Nat × Nat)) (acc : Memory × Nat), cellsWf acc.1 = true →
      cellsWf (l.foldl (fun (acc : Memory × Nat) x => (pokes acc.1 x.1 (freeBytes acc.2 x.2), acc.2 + x.2)) acc).1 = true := by
    intro l
    induction l with
    | nil => intro acc h; exact h
    | cons a l ih => intro acc h; exact ih _ (cellsWf_pokes h _)
  exact ⟨⟨⟨⟨gen _ _ h1, h2⟩, h3⟩, h4⟩, h5⟩
theorem attnRun_tidy (row : State → Inst → Bytes → Job → Nat → Job) (s : State) (i : Inst) (d : Bytes) {j : Job} (hj : j.tidy = true)
    (hrow : ∀ s i d j r, j.tidy = true → (row s i d j r).tidy = true) : (attnRun row s i d j).tidy = true := by
  unfold attnRun
  dsimp only
  split
  · exact undefinedOut_wf _ _ hj
  · exact Job.steps_tidy _ _ hj fun _ _ h => hrow _ _ _ _ _ h

theorem pageRun_tidy (row : State → Inst → Bytes → (Nat → Nat → Bool) → Job → Nat → Job) (s : State) (i : Inst) (d : Bytes) {j : Job}
    (hj : j.tidy = true) (hrow : ∀ s i d k j r, j.tidy = true → (row s i d k j r).tidy = true) : (pageRun row s i d j).tidy = true := by
  unfold pageRun
  dsimp only
  split
  · refine job_foldl (fun w r hw => ?_) (j := { j with verdict := .clean }) hj
    try dsimp only
    split
    · exact hw
    · exact hrow _ _ _ _ _ _ hw
  · exact Job.steps_tidy _ _ hj fun _ _ h => hrow _ _ _ _ _ _ h

theorem attnTask_tidy {s : State} (slot : Nat) (e : Ecc) (op : Nat) (run : State → Inst → Bytes → Job → Job) (hs : s.tidy = true)
    (hrun : ∀ s i d j, j.tidy = true → (run s i d j).tidy = true) : (attnTask s slot e op run).tidy = true := by
  unfold attnTask
  split
  · exact hs
  · rename_i sl i _
    have hf := finishJob_tidy slot sl i true none hs (hrun s i sl.desc _ (startJob_tidy e true hs))
    dsimp only
    exact tidy_ite (fun _ => hf) (fun _ => setFld_tidy _ _ _ _ hf)

theorem attend_tidy {s : State} (slot : Nat) (e : Ecc) (residueOk : Bool) (hs : s.tidy = true) :
    (attend s slot e residueOk).tidy = true := by
  unfold attend
  try dsimp only
  repeat' first
    | with_reducible assumption | (with_reducible apply startRetire_tidy) | (with_reducible apply suspectTask_tidy)
    | (with_reducible apply attendRow_tidy) | (with_reducible apply attnRun_tidy) | (with_reducible apply attnTask_tidy)
    | (with_reducible apply tidy_ite) | (simp only [tidy_mk]) | (with_reducible apply parts_of) | intro _ | split

theorem demoteSchedule_tidy {s : State} (hs : s.tidy = true) :
    (demoteSchedule s).tidy = true := by
  unfold demoteSchedule
  try dsimp only
  repeat' first
    | with_reducible assumption | (with_reducible apply st_tidy) | (with_reducible apply tidy_ite) | (simp only [tidy_mk])
    | (with_reducible apply parts_of) | intro _ | split

end Sys2Proof.Machine
end

