-- ==== Sys2Proof/Laws/KeepsCollOps.lean ====
section
/-! SUPPORT. CollOps: every function keeps the canonical form of the memories and the registers. -/

namespace Sys2Proof.Machine

theorem routePkt_tidy {s : State} (c : CollPkt) (hs : s.tidy = true) :
    (routePkt s c).tidy = true := by
  unfold routePkt
  try dsimp only
  repeat' first
    | with_reducible assumption | (with_reducible apply setFld_tidy) | (with_reducible apply bump64_tidy)
    | (with_reducible apply queueOn_tidy) | (simp only [tidy_mk]) | (with_reducible apply parts_of) | intro _ | split

theorem originate_tidy {s : State} (c : CollPkt) (hs : s.tidy = true) :
    (originate s c).tidy = true := by
  unfold originate
  try dsimp only
  repeat' first
    | with_reducible assumption | (with_reducible apply takePktSeq_tidy)
    | (with_reducible refine takePktSeq_tidy_eq (by with_reducible assumption) ?_) | (with_reducible apply routePkt_tidy)
    | (simp only [tidy_mk]) | (with_reducible apply parts_of) | intro _ | split

theorem sendBlock_tidy {s : State} (c : Coll) (run : CollRun) (rank block phase a n : Nat) (hs : s.tidy = true) :
    (sendBlock s c run rank block phase a n).tidy = true := by
  unfold sendBlock
  try dsimp only
  repeat' first
    | with_reducible assumption | (with_reducible apply delivered_tidy) | (with_reducible apply originate_tidy)
    | (with_reducible apply tidy_foldl) | intro _ | split

theorem putRun_tidy {s : State} (r : CollRun) (hs : s.tidy = true) :
    (putRun s r).tidy = true := by
  unfold putRun
  try dsimp only
  repeat' first
    | with_reducible assumption | (with_reducible apply tidy_ite) | (simp only [tidy_mk]) | (with_reducible apply parts_of)
    | intro _ | split

theorem dropRun_tidy {s : State} (r : CollRun) (hs : s.tidy = true) :
    (dropRun s r).tidy = true := by
  unfold dropRun
  try dsimp only
  repeat' first
    | with_reducible assumption | (simp only [tidy_mk]) | (with_reducible apply parts_of) | intro _ | split

theorem endRun_tidy {s : State} (r : CollRun) (st : Nat) (hs : s.tidy = true) :
    (endRun s r st).tidy = true := by
  unfold endRun
  try dsimp only
  repeat' first
    | with_reducible assumption | (with_reducible apply st_tidy) | (with_reducible apply endTask_tidy)
    | (with_reducible apply dropRun_tidy) | intro _ | split

theorem collWrite_tidy {s : State} (r : CollRun) (a : Nat) (b : Bytes) (hs : s.tidy = true) :
    (collWrite s r a b).tidy = true := by
  unfold collWrite
  try dsimp only
  repeat' first
    | with_reducible assumption | (with_reducible apply st_tidy) | (with_reducible apply charge_tidy) | intro _ | split

theorem reduceNow_tidy {s : State} (c : Coll) (r : CollRun) (hs : s.tidy = true) :
    (reduceNow s c r).tidy = true := by
  unfold reduceNow
  try dsimp only
  repeat' first
    | with_reducible assumption | (with_reducible apply bump_tidy) | (with_reducible apply delivered_tidy)
    | (with_reducible apply sendBlock_tidy) | (with_reducible apply putRun_tidy) | (with_reducible apply collWrite_tidy)
    | (with_reducible apply tidy_foldl) | (with_reducible apply tidy_ite) | (simp only [tidy_mk])
    | (with_reducible apply parts_of) | intro _ | split

theorem progressRun_tidy {s : State} (c : Coll) (r : CollRun) (hs : s.tidy = true) :
    (progressRun s c r).tidy = true := by
  unfold progressRun
  try dsimp only
  repeat' first
    | with_reducible assumption | (with_reducible apply endRun_tidy) | (with_reducible apply collWrite_tidy)
    | (with_reducible apply reduceNow_tidy) | (with_reducible apply tidy_ite) | (simp only [tidy_mk])
    | (with_reducible apply parts_of) | intro _ | split

theorem progressAll_tidy {s : State} (hs : s.tidy = true) :
    (progressAll s).tidy = true := by
  unfold progressAll
  try dsimp only
  repeat' first
    | with_reducible assumption | (with_reducible apply progressRun_tidy) | (with_reducible apply tidy_foldl)
    | (simp only [tidy_mk]) | (with_reducible apply parts_of) | intro _ | split

theorem collMismatch_tidy {s : State} (r : CollRun) (hs : s.tidy = true) :
    (collMismatch s r).tidy = true := by
  unfold collMismatch
  try dsimp only
  repeat' first
    | with_reducible assumption | (with_reducible apply bump_tidy) | (with_reducible apply endRun_tidy) | intro _ | split

theorem markPoison_tidy {s : State} (a poison : Nat) (n : Nat) (hs : s.tidy = true) :
    (markPoison s a poison n).tidy = true := by
  unfold markPoison
  try dsimp only
  repeat' first
    | with_reducible assumption | (with_reducible apply markBad_tidy) | (with_reducible apply tidy_foldl) | intro _ | split

theorem applyPkt_tidy {s : State} (c : Coll) (r : CollRun) (p : CollPkt) (hs : s.tidy = true) :
    (applyPkt s c r p).tidy = true := by
  unfold applyPkt
  try dsimp only
  repeat' first
    | with_reducible assumption | (with_reducible apply putRun_tidy) | (with_reducible apply endRun_tidy)
    | (with_reducible apply collWrite_tidy) | (with_reducible apply progressRun_tidy)
    | (with_reducible apply collMismatch_tidy) | (with_reducible apply markPoison_tidy) | (with_reducible apply tidy_ite)
    | (simp only [tidy_mk]) | (with_reducible apply parts_of) | intro _ | split

theorem freeFlits_tidy {s : State} (n cls flits : Nat) (hs : s.tidy = true) :
    (freeFlits s n cls flits).tidy = true := by
  unfold freeFlits
  try dsimp only
  repeat' first
    | with_reducible assumption | (with_reducible apply modLink_tidy) | (with_reducible apply tidy_ite)
    | (simp only [tidy_mk]) | (with_reducible apply parts_of) | intro _ | split

theorem restage_tidy {s : State} (hs : s.tidy = true) :
    (restage s).tidy = true := by
  unfold restage
  try dsimp only
  repeat' first
    | with_reducible assumption | (with_reducible apply freeFlits_tidy) | (with_reducible apply tidy_foldl)
    | (with_reducible apply tidy_ite) | (simp only [tidy_mk]) | (with_reducible apply parts_of) | intro _ | split

theorem collAborted_tidy {s : State} (r : CollRun) (hs : s.tidy = true) :
    (collAborted s r).tidy = true := by
  unfold collAborted
  try dsimp only
  repeat' first
    | with_reducible assumption | (with_reducible apply bump_tidy) | (with_reducible apply endRun_tidy) | intro _ | split

theorem collTake_tidy {s : State} (n flits : Nat) (p : CollPkt) (hs : s.tidy = true) :
    (collTake s n flits p).tidy = true := by
  unfold collTake
  try dsimp only
  repeat' first
    | with_reducible assumption | (with_reducible apply bump_tidy) | (with_reducible apply applyPkt_tidy)
    | (with_reducible apply freeFlits_tidy) | (with_reducible apply collAborted_tidy) | (with_reducible apply tidy_ite)
    | (simp only [tidy_mk]) | (with_reducible apply parts_of) | intro _ | split

theorem notePkt_tidy {s t : State} {src q : Nat} (e : notePkt s src q = some t) (h : s.tidy = true) : t.tidy = true := by
  have key : t.mem = s.mem ∧ t.regs = s.regs := by
    unfold notePkt at e
    dsimp only at e
    repeat' split at e
    all_goals (first | (cases e; done) | (simp only [Option.some.injEq] at e; subst e; exact ⟨rfl, rfl⟩))
  exact tidy_of_eq h key.1 key.2

theorem forwardOn_tidy {s : State} (n flits : Nat) (p : CollPkt) (hs : s.tidy = true) :
    (forwardOn s n flits p).tidy = true := by
  unfold forwardOn
  try dsimp only
  repeat' first
    | with_reducible assumption | (with_reducible apply bump_tidy) | (with_reducible apply bump64_tidy)
    | (with_reducible apply routePkt_tidy) | (with_reducible apply freeFlits_tidy) | (with_reducible apply tidy_ite)
    | (simp only [tidy_mk]) | (with_reducible apply parts_of) | intro _ | split

theorem recvPkt_tidy {s : State} (n flits : Nat) (p : CollPkt) (kct : State → Nat → Bytes → State) (hs : s.tidy = true) (hkct : ∀ s a b, s.tidy = true → (kct s a b).tidy = true) :
    (recvPkt s n flits p kct).tidy = true := by
  unfold recvPkt
  try dsimp only
  repeat' first
    | with_reducible assumption | (with_reducible apply hkct) | (with_reducible apply bump64_tidy)
    | (with_reducible apply wakeDevice_tidy) | (with_reducible apply freeFlits_tidy) | (with_reducible apply collTake_tidy)
    | (with_reducible refine notePkt_tidy (by with_reducible assumption) ?_) | (with_reducible apply forwardOn_tidy)
    | (with_reducible apply tidy_ite) | (simp only [tidy_mk]) | (with_reducible apply parts_of) | intro _ | split

theorem lostRun_tidy {s : State} (c : Coll) (r : CollRun) (hs : s.tidy = true) :
    (lostRun s c r).tidy = true := by
  unfold lostRun
  try dsimp only
  repeat' first
    | with_reducible assumption | (with_reducible apply originate_tidy) | (with_reducible apply endRun_tidy)
    | (with_reducible apply tidy_foldl) | intro _ | split

theorem failUnreachable_tidy {s : State} (hs : s.tidy = true) :
    (failUnreachable s).tidy = true := by
  unfold failUnreachable
  try dsimp only
  repeat' first
    | with_reducible assumption | (with_reducible apply lostRun_tidy) | (with_reducible apply tidy_foldl)
    | (with_reducible apply tidy_ite) | (simp only [tidy_mk]) | (with_reducible apply parts_of) | intro _ | split

theorem sendAll_tidy {s : State} (c : Coll) (r : CollRun) (hs : s.tidy = true) :
    (sendAll s c r).tidy = true := by
  unfold sendAll
  try dsimp only
  repeat' first
    | with_reducible assumption | (with_reducible apply charge_tidy) | (with_reducible apply delivered_tidy)
    | (with_reducible apply sendBlock_tidy) | (with_reducible apply collWrite_tidy) | (with_reducible apply tidy_foldl)
    | (with_reducible apply tidy_ite) | intro _ | split

theorem applyStaged_tidy {s : State} (r : CollRun) (hs : s.tidy = true) :
    (applyStaged s r).tidy = true := by
  unfold applyStaged
  try dsimp only
  repeat' first
    | with_reducible assumption | (with_reducible apply applyPkt_tidy) | (with_reducible apply restage_tidy)
    | (with_reducible apply collAborted_tidy) | (with_reducible apply tidy_foldl) | (with_reducible apply tidy_ite)
    | (simp only [tidy_mk]) | (with_reducible apply parts_of) | intro _ | split

theorem startColl_tidy {s : State} (slot : Nat) (sl : Slot) (i : Inst) (c : Coll) (e : Ecc) (hs : s.tidy = true) :
    (startColl s slot sl i c e).tidy = true := by
  unfold startColl
  try dsimp only
  repeat' first
    | with_reducible assumption | (with_reducible apply markBad_tidy) | (with_reducible apply readUe_tidy)
    | (with_reducible apply readCe_tidy) | (with_reducible apply endRun_tidy) | (with_reducible apply progressRun_tidy)
    | (with_reducible apply lostRun_tidy) | (with_reducible apply sendAll_tidy) | (with_reducible apply applyStaged_tidy)
    | (with_reducible apply tidy_ite) | (simp only [tidy_mk]) | (with_reducible apply parts_of) | intro _ | split

theorem collectiveTask_tidy {s : State} (slot : Nat) (e : Ecc) (hs : s.tidy = true) :
    (collectiveTask s slot e).tidy = true := by
  unfold collectiveTask
  try dsimp only
  repeat' first
    | with_reducible assumption | (with_reducible apply endTask_tidy) | (with_reducible apply beginTask_tidy)
    | (with_reducible apply startColl_tidy) | (simp only [tidy_mk]) | (with_reducible apply parts_of) | intro _ | split

theorem collectiveTimeout_tidy {s : State} (slot : Nat) (hs : s.tidy = true) :
    (collectiveTimeout s slot).tidy = true := by
  unfold collectiveTimeout
  try dsimp only
  repeat' first
    | with_reducible assumption | (with_reducible apply bump_tidy) | (with_reducible apply endRun_tidy)
    | (with_reducible apply tidy_ite) | (simp only [tidy_mk]) | (with_reducible apply parts_of) | intro _ | split

theorem collDataReceive_tidy {s : State} (n : Nat) (c : CollPkt) (hs : s.tidy = true) :
    (collDataReceive s n c).tidy = true := by
  unfold collDataReceive
  try dsimp only
  repeat' first
    | with_reducible assumption | (with_reducible apply recvPkt_tidy) | (with_reducible apply tidy_ite)
    | (simp only [tidy_mk]) | (with_reducible apply parts_of) | intro _ | split

theorem collAbortReceive_tidy {s : State} (n : Nat) (c : CollPkt) (hs : s.tidy = true) :
    (collAbortReceive s n c).tidy = true := by
  unfold collAbortReceive
  try dsimp only
  repeat' first
    | with_reducible assumption | (with_reducible apply recvPkt_tidy) | (with_reducible apply tidy_ite)
    | (simp only [tidy_mk]) | (with_reducible apply parts_of) | intro _ | split

end Sys2Proof.Machine
end

