-- ==== Sys2Proof/Laws/KeepsLinks.lean ====
section
/-! SUPPORT. Links: every function keeps the canonical form of the memories and the registers. -/

namespace Sys2Proof.Machine

theorem enterLink_tidy {s : State} (n st reason lanes ver : Nat) (hs : s.tidy = true) :
    (enterLink s n st reason lanes ver).tidy = true := by
  unfold enterLink
  try dsimp only
  repeat' first
    | with_reducible assumption | (with_reducible apply setFld_tidy) | (with_reducible apply st_tidy)
    | (with_reducible apply notify_tidy) | (with_reducible apply tidy_ite) | (simp only [tidy_mk])
    | (with_reducible apply parts_of) | intro _ | split

theorem reroute_tidy {s : State} (n : Nat) (jobs : List FlitJob) (hs : s.tidy = true) :
    (reroute s n jobs).tidy = true := by
  unfold reroute
  try dsimp only
  repeat' first
    | with_reducible assumption | (with_reducible apply setFld_tidy) | (with_reducible apply routePkt_tidy)
    | (with_reducible apply failUnreachable_tidy) | (with_reducible apply tidy_foldl) | (with_reducible apply tidy_ite)
    | intro _ | split

theorem clearLink_tidy {s : State} (n : Nat) (hs : s.tidy = true) :
    (clearLink s n).2.tidy = true := by
  unfold clearLink
  try dsimp only
  repeat' first
    | with_reducible assumption | (with_reducible apply setLink_tidy) | (simp only [tidy_mk])
    | (with_reducible apply parts_of) | intro _ | split
theorem clearLink_tidy_eq {s : State} {n : Nat} {x : List FlitJob} {t : State} (e : clearLink s n = (x, t)) (hs : s.tidy = true) :
    t.tidy = true := by
  have := clearLink_tidy n hs; rw [e] at this; exact this

theorem linkDown_tidy {s : State} (n reason : Nat) (hs : s.tidy = true) :
    (linkDown s n reason).tidy = true := by
  unfold linkDown
  try dsimp only
  repeat' first
    | with_reducible assumption | (with_reducible apply enterLink_tidy) | (with_reducible apply reroute_tidy)
    | (with_reducible apply clearLink_tidy) | (with_reducible refine clearLink_tidy_eq (by with_reducible assumption) ?_)
    | intro _ | split

theorem bringUp_tidy {s : State} (n : Nat) (silent : Bool) (hs : s.tidy = true) :
    (bringUp s n silent).tidy = true := by
  unfold bringUp
  try dsimp only
  repeat' first
    | with_reducible assumption | (with_reducible apply modLink_tidy) | (with_reducible apply enterLink_tidy)
    | (with_reducible apply reroute_tidy) | (with_reducible apply clearLink_tidy)
    | (with_reducible refine clearLink_tidy_eq (by with_reducible assumption) ?_) | (with_reducible apply tidy_ite)
    | (simp only [tidy_mk]) | (with_reducible apply parts_of) | intro _ | split

theorem quarantine_tidy {s : State} (n reason : Nat) (hs : s.tidy = true) :
    (quarantine s n reason).tidy = true := by
  unfold quarantine
  try dsimp only
  repeat' first
    | with_reducible assumption | (with_reducible apply modLink_tidy) | (with_reducible apply notify_tidy)
    | (with_reducible apply enterLink_tidy) | (with_reducible apply reroute_tidy) | (with_reducible apply clearLink_tidy)
    | (with_reducible refine clearLink_tidy_eq (by with_reducible assumption) ?_) | (with_reducible apply tidy_ite)
    | (simp only [tidy_mk]) | (with_reducible apply parts_of) | intro _ | split

theorem linkUp_tidy {s : State} (n ver : Nat) (hs : s.tidy = true) :
    (linkUp s n ver).tidy = true := by
  unfold linkUp
  try dsimp only
  repeat' first
    | with_reducible assumption | (with_reducible apply setLink_tidy) | (with_reducible apply flushSub_tidy)
    | (with_reducible apply enterLink_tidy) | (with_reducible apply tidy_ite) | (simp only [tidy_mk])
    | (with_reducible apply parts_of) | intro _ | split

theorem settle_tidy {s : State} (n : Nat) (hs : s.tidy = true) :
    (settle s n).tidy = true := by
  unfold settle
  try dsimp only
  repeat' first
    | with_reducible assumption | (with_reducible apply setFld_tidy) | (with_reducible apply quarantine_tidy)
    | (with_reducible apply linkUp_tidy) | (with_reducible apply tidy_ite) | (simp only [tidy_mk])
    | (with_reducible apply parts_of) | intro _ | split

theorem laneLock_tidy {s : State} (n : Nat) (hs : s.tidy = true) :
    (laneLock s n).tidy = true := by
  unfold laneLock
  try dsimp only
  repeat' first
    | with_reducible assumption | (with_reducible apply setLink_tidy) | (with_reducible apply enterLink_tidy)
    | (with_reducible apply tidy_ite) | (simp only [tidy_mk]) | (with_reducible apply parts_of) | intro _ | split

theorem trainTimeout_tidy {s : State} (n : Nat) (hs : s.tidy = true) :
    (trainTimeout s n).tidy = true := by
  unfold trainTimeout
  try dsimp only
  repeat' first
    | with_reducible assumption | (with_reducible apply modLink_tidy) | (with_reducible apply linkDown_tidy)
    | (with_reducible apply tidy_ite) | (simp only [tidy_mk]) | (with_reducible apply parts_of) | intro _ | split

theorem verdictTimeout_tidy {s : State} (n : Nat) (hs : s.tidy = true) :
    (verdictTimeout s n).tidy = true := by
  unfold verdictTimeout
  try dsimp only
  repeat' first
    | with_reducible assumption | (with_reducible apply linkDown_tidy) | (with_reducible apply tidy_ite) | intro _ | split

theorem linkRetry_tidy {s : State} (n : Nat) (hs : s.tidy = true) :
    (linkRetry s n).tidy = true := by
  unfold linkRetry
  try dsimp only
  repeat' first
    | with_reducible assumption | (with_reducible apply bringUp_tidy) | (with_reducible apply tidy_ite) | intro _ | split

theorem replayAll_tidy {s : State} (n : Nat) (hs : s.tidy = true) :
    (replayAll s n).tidy = true := by
  unfold replayAll
  try dsimp only
  repeat' first
    | with_reducible assumption | (with_reducible apply setLink_tidy) | (with_reducible apply pumpLink_tidy)
    | (simp only [tidy_mk]) | (with_reducible apply parts_of) | intro _ | split

theorem ctlTimeout_tidy {s : State} (n : Nat) (hs : s.tidy = true) :
    (ctlTimeout s n).tidy = true := by
  unfold ctlTimeout
  try dsimp only
  repeat' first
    | with_reducible assumption | (with_reducible apply startRetrain_tidy) | (with_reducible apply tidy_ite) | intro _ | split

theorem retrainDone_tidy {s : State} (n lanes : Nat) (hs : s.tidy = true) :
    (retrainDone s n lanes).tidy = true := by
  unfold retrainDone
  try dsimp only
  repeat' first
    | with_reducible assumption | (with_reducible apply modLink_tidy) | (with_reducible apply enterLink_tidy)
    | (with_reducible apply replayAll_tidy) | (with_reducible apply tidy_ite) | (simp only [tidy_mk])
    | (with_reducible apply parts_of) | intro _ | split

theorem retrainFail_tidy {s : State} (n : Nat) (hs : s.tidy = true) :
    (retrainFail s n).tidy = true := by
  unfold retrainFail
  try dsimp only
  repeat' first
    | with_reducible assumption | (with_reducible apply bump_tidy) | (with_reducible apply modLink_tidy)
    | (with_reducible apply linkDown_tidy) | (with_reducible apply tidy_ite) | (simp only [tidy_mk])
    | (with_reducible apply parts_of) | intro _ | split

theorem linkDownTimer_tidy {s : State} (n : Nat) (hs : s.tidy = true) :
    (linkDownTimer s n).tidy = true := by
  unfold linkDownTimer
  try dsimp only
  repeat' first
    | with_reducible assumption | (with_reducible apply linkDown_tidy) | (with_reducible apply tidy_ite) | intro _ | split

theorem controlSlot_tidy {s : State} (n : Nat) (hs : s.tidy = true) :
    (controlSlot s n).tidy = true := by
  unfold controlSlot
  try dsimp only
  repeat' first
    | with_reducible assumption | (with_reducible apply put1_tidy) | (with_reducible apply modLink_tidy)
    | (with_reducible apply pumpLink_tidy) | (with_reducible apply settle_tidy) | (with_reducible apply tidy_ite)
    | (simp only [tidy_mk]) | (with_reducible apply parts_of) | intro _ | split

theorem storePeer_tidy {s : State} (n : Nat) (i : Identity) (hs : s.tidy = true) :
    (storePeer s n i).tidy = true := by
  unfold storePeer
  try dsimp only
  repeat' first
    | with_reducible assumption | (with_reducible apply wr_tidy) | (with_reducible apply setFld_tidy)
    | (with_reducible apply wr64_tidy) | (with_reducible apply modLink_tidy) | (simp only [tidy_mk])
    | (with_reducible apply parts_of) | intro _ | split

theorem controlGood_tidy {s : State} (n : Nat) (f : CtlFlit) (hs : s.tidy = true) :
    (controlGood s n f).tidy = true := by
  unfold controlGood
  try dsimp only
  repeat' first
    | with_reducible assumption | (with_reducible apply modLink_tidy) | (with_reducible apply pumpLink_tidy)
    | (with_reducible apply progressAll_tidy) | (with_reducible apply failUnreachable_tidy)
    | (with_reducible apply quarantine_tidy) | (with_reducible apply settle_tidy) | (with_reducible apply replayAll_tidy)
    | (with_reducible apply storePeer_tidy) | (with_reducible apply tidy_ite) | (simp only [tidy_mk])
    | (with_reducible apply parts_of) | intro _ | split

theorem controlReceive_tidy {s : State} (n : Nat) (f : CtlFlit) (hs : s.tidy = true) :
    (controlReceive s n f).tidy = true := by
  unfold controlReceive
  try dsimp only
  repeat' first
    | with_reducible assumption | (with_reducible apply bump_tidy) | (with_reducible apply controlGood_tidy)
    | (with_reducible apply tidy_ite) | intro _ | split

theorem flitAccept_tidy {s : State} (n : Nat) (b : Bytes) (kct : State → Nat → Bytes → State) (hs : s.tidy = true) (hkct : ∀ s a b, s.tidy = true → (kct s a b).tidy = true) :
    (flitAccept s n b kct).tidy = true := by
  unfold flitAccept
  try dsimp only
  repeat' first
    | with_reducible assumption | (with_reducible apply hkct) | (with_reducible apply bump_tidy)
    | (with_reducible apply bump64_tidy) | (with_reducible apply setLink_tidy) | (with_reducible apply freeFlits_tidy)
    | (with_reducible apply recvPkt_tidy) | (with_reducible apply tidy_ite) | (simp only [tidy_mk])
    | (with_reducible apply parts_of) | intro _ | split

theorem flitReceive_tidy {s : State} (n : Nat) (b : Bytes) (kct : State → Nat → Bytes → State) (hs : s.tidy = true) (hkct : ∀ s a b, s.tidy = true → (kct s a b).tidy = true) :
    (flitReceive s n b kct).tidy = true := by
  unfold flitReceive
  try dsimp only
  repeat' first
    | with_reducible assumption | (with_reducible apply hkct) | (with_reducible apply bump_tidy)
    | (with_reducible apply setLink_tidy) | (with_reducible apply modLink_tidy) | (with_reducible apply flitAccept_tidy)
    | (with_reducible apply tidy_ite) | (simp only [tidy_mk]) | (with_reducible apply parts_of) | intro _ | split

theorem linkCtlAct_tidy {s : State} (n : Nat) (retrain wrote : Bool) (hs : s.tidy = true) :
    (linkCtlAct s n retrain wrote).tidy = true := by
  unfold linkCtlAct
  try dsimp only
  repeat' first
    | with_reducible assumption | (with_reducible apply linkDown_tidy) | (with_reducible apply bringUp_tidy)
    | (with_reducible apply tidy_ite) | intro _ | split

theorem newMap_tidy {s : State} (m : List MapEntry) (hs : s.tidy = true) :
    (newMap s m).tidy = true := by
  unfold newMap
  try dsimp only
  repeat' first
    | with_reducible assumption | (with_reducible apply setLink_tidy) | (with_reducible apply tidy_foldl)
    | (with_reducible apply tidy_ite) | (simp only [tidy_mk]) | (with_reducible apply parts_of) | intro _ | split

theorem linkMapCommit_tidy {s : State} (r : Req) (hs : s.tidy = true) :
    (linkMapCommit s r).tidy = true := by
  unfold linkMapCommit
  try dsimp only
  repeat' first
    | with_reducible assumption | (with_reducible apply fail_tidy) | (with_reducible apply newMap_tidy)
    | (with_reducible apply tidy_ite) | intro _ | split

theorem linkMapAdopt_tidy {s : State} (r : Req) (hs : s.tidy = true) :
    (linkMapAdopt s r).tidy = true := by
  unfold linkMapAdopt
  try dsimp only
  repeat' first
    | with_reducible assumption | (with_reducible apply fail_tidy) | (with_reducible apply newMap_tidy)
    | (with_reducible apply tidy_ite) | intro _ | split

theorem quarantineDue_tidy {s : State} (hs : s.tidy = true) :
    (quarantineDue s).tidy = true := by
  unfold quarantineDue
  try dsimp only
  repeat' first
    | with_reducible assumption | (with_reducible apply setLink_tidy) | (with_reducible apply quarantine_tidy)
    | (with_reducible apply tidy_foldl) | (with_reducible apply tidy_ite) | (simp only [tidy_mk])
    | (with_reducible apply parts_of) | intro _ | split

theorem collectiveOpen_tidy {s : State} (r : Req) (hs : s.tidy = true) :
    (collectiveOpen s r).tidy = true := by
  unfold collectiveOpen
  try dsimp only
  repeat' first
    | with_reducible assumption | (with_reducible apply replyTo_tidy) | (with_reducible apply fail_tidy)
    | (with_reducible apply tidy_ite) | (simp only [tidy_mk]) | (with_reducible apply parts_of) | intro _ | split

theorem dropColl_tidy {s : State} (id : Nat) (hs : s.tidy = true) :
    (dropColl s id).tidy = true := by
  unfold dropColl
  try dsimp only
  repeat' first
    | with_reducible assumption | (with_reducible apply freeFlits_tidy) | (with_reducible apply restage_tidy)
    | (with_reducible apply tidy_foldl) | (simp only [tidy_mk]) | (with_reducible apply parts_of) | intro _ | split

theorem collectiveClose_tidy {s : State} (r : Req) (hs : s.tidy = true) :
    (collectiveClose s r).tidy = true := by
  unfold collectiveClose
  try dsimp only
  repeat' first
    | with_reducible assumption | (with_reducible apply fail_tidy) | (with_reducible apply dropColl_tidy)
    | (with_reducible apply tidy_ite) | (simp only [tidy_mk]) | (with_reducible apply parts_of) | intro _ | split

end Sys2Proof.Machine
end

