-- ==== Sys2Proof/Laws/KeepsGraph.lean ====
section
/-! SUPPORT. Graph: every function keeps the canonical form of the memories and the registers. -/

namespace Sys2Proof.Machine

theorem startInst_tidy {s : State} (n : Nat) (hs : s.tidy = true) :
    (startInst s n).tidy = true := by
  unfold startInst
  try dsimp only
  repeat' first
    | with_reducible assumption | (with_reducible apply putCtr_tidy) | (with_reducible apply modInst_tidy)
    | (with_reducible apply tidy_foldl) | (simp only [tidy_mk]) | (with_reducible apply parts_of) | intro _ | split

theorem enterInst_tidy {s : State} (ctx tier addr : Nat) (h : GHdr) (params : Option (List Nat)) (step : Option Nat) (forceRef : Bool) (hs : s.tidy = true) :
    (enterInst s ctx tier addr h params step forceRef).2.tidy = true := by
  unfold enterInst
  try dsimp only
  repeat' first
    | with_reducible assumption | (with_reducible apply tryComplete_tidy) | (with_reducible apply startInst_tidy)
    | (with_reducible apply tidy_ite) | (simp only [tidy_mk]) | (with_reducible apply parts_of) | intro _ | split
theorem enterInst_tidy_eq {s : State} {ctx tier addr : Nat} {h : GHdr} (params : Option (List Nat)) {step : Option Nat} {forceRef : Bool} {x : Nat} {t : State} (e : enterInst s ctx tier addr h params step forceRef = (x, t)) (hs : s.tidy = true) :
    t.tidy = true := by
  have := enterInst_tidy ctx tier addr h params step forceRef hs; rw [e] at this; exact this

theorem submitEnter_tidy {s : State} (r : Req) (tier addr : Nat) (h : GHdr) (params : Option (List Nat)) (hs : s.tidy = true) :
    (submitEnter s r tier addr h params).tidy = true := by
  unfold submitEnter
  try dsimp only
  repeat' first
    | with_reducible assumption | (with_reducible apply replyTo_tidy) | (with_reducible apply fail_tidy)
    | (with_reducible apply enterInst_tidy) | (with_reducible refine enterInst_tidy_eq (by with_reducible assumption) ?_)
    | (with_reducible apply tidy_ite) | intro _ | split

theorem submitChecked_tidy {s : State} (r : Req) (tier addr : Nat) (params : Option (List Nat)) (hs : s.tidy = true) :
    (submitChecked s r tier addr params).tidy = true := by
  unfold submitChecked
  try dsimp only
  repeat' first
    | with_reducible assumption | (with_reducible apply st_tidy) | (with_reducible apply fail_tidy)
    | (with_reducible apply cmdUe_tidy) | (with_reducible apply chargeNear_tidy) | (with_reducible apply submitEnter_tidy)
    | (with_reducible apply tidy_ite) | (simp only [tidy_mk]) | (with_reducible apply parts_of) | intro _ | split

theorem submitGraph_tidy {s : State} (r : Req) (hs : s.tidy = true) :
    (submitGraph s r).tidy = true := by
  unfold submitGraph
  try dsimp only
  repeat' first
    | with_reducible assumption | (with_reducible apply fail_tidy) | (with_reducible apply submitChecked_tidy)
    | (with_reducible apply tidy_ite) | intro _ | split

theorem submitInstalled_tidy {s : State} (r : Req) (hs : s.tidy = true) :
    (submitInstalled s r).tidy = true := by
  unfold submitInstalled
  try dsimp only
  repeat' first
    | with_reducible assumption | (with_reducible apply fail_tidy) | (with_reducible apply cmdUe_tidy)
    | (with_reducible apply submitChecked_tidy) | (with_reducible apply tidy_ite) | (simp only [tidy_mk])
    | (with_reducible apply parts_of) | intro _ | split

theorem syncWait_tidy {s : State} (r : Req) (hs : s.tidy = true) :
    (syncWait s r).tidy = true := by
  unfold syncWait
  try dsimp only
  repeat' first
    | with_reducible assumption | (with_reducible apply st_tidy) | (with_reducible apply replyTo_tidy)
    | (with_reducible apply fail_tidy) | (with_reducible apply tidy_ite) | (simp only [tidy_mk])
    | (with_reducible apply parts_of) | intro _ | split

theorem syncWaitTimeout_tidy {s : State} (ctx : Nat) (q : W32) (hs : s.tidy = true) :
    (syncWaitTimeout s ctx q).tidy = true := by
  unfold syncWaitTimeout
  try dsimp only
  repeat' first
    | with_reducible assumption | (with_reducible apply replyTo_tidy) | (with_reducible apply tidy_ite)
    | (simp only [tidy_mk]) | (with_reducible apply parts_of) | intro _ | split

theorem addCtr_tidy {s : State} (c v : Nat) (hs : s.tidy = true) :
    (addCtr s c v).tidy = true := by
  unfold addCtr
  try dsimp only
  repeat' first
    | with_reducible assumption | (with_reducible apply bump_tidy) | (with_reducible apply setCtr_tidy)
    | (with_reducible apply tidy_ite) | intro _ | split

theorem syncSignal_tidy (op : State → Nat → Nat → State) {s : State} (r : Req) (hs : s.tidy = true) (hop : ∀ s a b, s.tidy = true → (op s a b).tidy = true) :
    (syncSignal op s r).tidy = true := by
  unfold syncSignal
  try dsimp only
  repeat' first
    | with_reducible assumption | (with_reducible apply hop) | (with_reducible apply st_tidy)
    | (with_reducible apply fail_tidy) | (with_reducible apply tidy_ite) | (simp only [tidy_mk])
    | (with_reducible apply parts_of) | intro _ | split

theorem giveCtrs_tidy {s : State} (c b n : Nat) (hs : s.tidy = true) :
    (giveCtrs s c b n).tidy = true := by
  unfold giveCtrs
  try dsimp only
  repeat' first
    | with_reducible assumption | (with_reducible apply putCtr_tidy) | (with_reducible apply tidy_foldl)
    | (simp only [tidy_mk]) | (with_reducible apply parts_of) | intro _ | split

theorem freeCtrs_tidy {s : State} (b n : Nat) (hs : s.tidy = true) :
    (freeCtrs s b n).tidy = true := by
  unfold freeCtrs
  try dsimp only
  repeat' first
    | with_reducible assumption | (with_reducible apply fail_tidy) | (with_reducible apply tidy_foldl) | (simp only [tidy_mk])
    | (with_reducible apply parts_of) | intro _ | split

theorem syncAlloc_tidy {s : State} (r : Req) (hs : s.tidy = true) :
    (syncAlloc s r).tidy = true := by
  unfold syncAlloc
  try dsimp only
  repeat' first
    | with_reducible assumption | (with_reducible apply replyTo_tidy) | (with_reducible apply fail_tidy)
    | (with_reducible apply giveCtrs_tidy) | (with_reducible apply tidy_ite) | (simp only [tidy_mk])
    | (with_reducible apply parts_of) | intro _ | split

theorem syncFree_tidy {s : State} (r : Req) (hs : s.tidy = true) :
    (syncFree s r).tidy = true := by
  unfold syncFree
  try dsimp only
  repeat' first
    | with_reducible assumption | (with_reducible apply replyTo_tidy) | (with_reducible apply fail_tidy)
    | (with_reducible apply freeCtrs_tidy) | (with_reducible apply tidy_ite) | (simp only [tidy_mk])
    | (with_reducible apply parts_of) | intro _ | split

theorem admitTask_tidy {s : State} (i : Inst) (hs : s.tidy = true) :
    (admitTask s i).tidy = true := by
  unfold admitTask
  try dsimp only
  repeat' first
    | with_reducible assumption | (with_reducible apply bump_tidy) | (with_reducible apply st_tidy)
    | (with_reducible apply readUe_tidy) | (with_reducible apply modInst_tidy) | (with_reducible apply chargeNear_tidy)
    | (with_reducible apply failNow_tidy) | (with_reducible apply startInst_tidy) | (with_reducible apply tidy_ite)
    | (simp only [tidy_mk]) | (with_reducible apply parts_of) | intro _ | split

theorem admitRun_tidy : ∀ (n_ : Nat) {s : State}, s.tidy = true →
    (admitRun s n_).tidy = true := by
  intro n_
  induction n_ with
  | zero => intros; unfold admitRun; assumption
  | succ n_ ih =>
  intros
  unfold admitRun
  try dsimp only
  repeat' first
    | with_reducible assumption | (with_reducible apply ih) | (with_reducible apply admitTask_tidy)
    | (with_reducible apply admitRun_tidy) | (simp only [tidy_mk]) | (with_reducible apply parts_of) | intro _ | split

theorem releaseTask_tidy {s : State} (w : Nat × Slot) (hs : s.tidy = true) :
    (releaseTask s w).tidy = true := by
  unfold releaseTask
  try dsimp only
  repeat' first
    | with_reducible assumption | (with_reducible apply raiseBed_tidy) | (with_reducible apply tidy_ite)
    | (simp only [tidy_mk]) | (with_reducible apply parts_of) | intro _ | split

theorem taskRelease_tidy {s : State} (hs : s.tidy = true) :
    (taskRelease s).tidy = true := by
  unfold taskRelease
  try dsimp only
  repeat' first
    | with_reducible assumption | (with_reducible apply bump64_tidy) | (with_reducible apply releaseTask_tidy)
    | (with_reducible apply tidy_foldl) | intro _ | split

theorem taskComplete_tidy {s : State} (slot : Nat) (hs : s.tidy = true) :
    (taskComplete s slot).tidy = true := by
  unfold taskComplete
  try dsimp only
  repeat' first
    | with_reducible assumption | (with_reducible apply st_tidy) | (with_reducible apply retireTask_tidy)
    | (simp only [tidy_mk]) | (with_reducible apply parts_of) | intro _ | split

theorem nullTask_tidy {s : State} (slot : Nat) (hs : s.tidy = true) :
    (nullTask s slot).tidy = true := by
  unfold nullTask
  try dsimp only
  repeat' first
    | with_reducible assumption | (with_reducible apply endTask_tidy) | (simp only [tidy_mk])
    | (with_reducible apply parts_of) | intro _ | split

theorem stamp_tidy {s : State} (slot : Nat) (hs : s.tidy = true) :
    (stamp s slot).tidy = true := by
  unfold stamp
  try dsimp only
  repeat' first
    | with_reducible assumption | (with_reducible apply st_tidy) | (with_reducible apply endTask_tidy) | (simp only [tidy_mk])
    | (with_reducible apply parts_of) | intro _ | split

theorem findLate_tidy {s : State} (i : Inst) (hs : s.tidy = true) :
    (findLate s i).tidy = true := by
  unfold findLate
  try dsimp only
  repeat' first
    | with_reducible assumption | (with_reducible apply bump_tidy) | (with_reducible apply notify_tidy)
    | (with_reducible apply record_tidy) | (with_reducible apply modInst_tidy) | (with_reducible apply failNow_tidy)
    | (with_reducible apply tidy_ite) | (simp only [tidy_mk]) | (with_reducible apply parts_of) | intro _ | split

theorem deadlineCheck_tidy {s : State} (hs : s.tidy = true) :
    (deadlineCheck s).tidy = true := by
  unfold deadlineCheck
  try dsimp only
  repeat' first
    | with_reducible assumption | (with_reducible apply findLate_tidy) | (with_reducible apply tidy_foldl) | intro _ | split

theorem stallDetect_tidy {s : State} (n : Nat) (hs : s.tidy = true) :
    (stallDetect s n).tidy = true := by
  unfold stallDetect
  try dsimp only
  repeat' first
    | with_reducible assumption | (with_reducible apply failNow_tidy) | (with_reducible apply mismatch_tidy)
    | (with_reducible apply tidy_foldl) | (with_reducible apply tidy_ite) | (simp only [tidy_mk])
    | (with_reducible apply parts_of) | intro _ | split

end Sys2Proof.Machine
end

