-- ==== Sys2Proof/Laws/KeepsRegWrite.lean ====
section
/-! SUPPORT. RegWrite: every function keeps the canonical form of the memories and the registers. -/

namespace Sys2Proof.Machine

theorem cutBuckets_tidy {s : State} (res p : Nat) (hs : s.tidy = true) :
    (cutBuckets s res p).tidy = true := by
  unfold cutBuckets
  try dsimp only
  repeat' first
    | with_reducible assumption | (with_reducible apply tidy_foldl) | (simp only [tidy_mk]) | (with_reducible apply parts_of)
    | intro _ | split

theorem regAct_tidy {s : State} (a m acts : Nat) (hs : s.tidy = true) :
    (regAct s a m acts).tidy = true := by
  unfold regAct
  try dsimp only
  repeat' first
    | with_reducible assumption | (with_reducible apply raiseBed_tidy) | (with_reducible apply linkCtlAct_tidy)
    | (with_reducible apply cutBuckets_tidy) | (with_reducible apply tidy_ite) | (simp only [tidy_mk])
    | (with_reducible apply parts_of) | intro _ | split

theorem writePairs_tidy (l : List (Nat × Nat)) : ∀ {s : State} (i : Nat), s.tidy = true → (writePairs s i l).1.tidy = true := by
  induction l with
  | nil => intro s i h; exact h
  | cons a l ih =>
    intro s i h
    obtain ⟨x, y⟩ := a
    simp only [writePairs]
    split
    · exact h
    · exact ih _ (regAct_tidy _ _ _ (storeReg_tidy (by assumption) h))

theorem portLost_tidy {s : State} (hs : s.tidy = true) :
    (portLost s).tidy = true := by
  unfold portLost
  try dsimp only
  repeat' first
    | with_reducible assumption | (with_reducible apply setFld_tidy) | (with_reducible apply tidy_ite) | (simp only [tidy_mk])
    | (with_reducible apply parts_of) | intro _ | split

theorem takeStatic_tidy {s : State} (hs : s.tidy = true) :
    (takeStatic s).tidy = true := by
  unfold takeStatic
  try dsimp only
  repeat' first
    | with_reducible assumption | (with_reducible apply setFld_tidy) | (with_reducible apply tidy_ite) | (simp only [tidy_mk])
    | (with_reducible apply parts_of) | intro _ | split

theorem dhcpRequest_tidy {s : State} (hs : s.tidy = true) :
    (dhcpRequest s).tidy = true := by
  unfold dhcpRequest
  try dsimp only
  repeat' first
    | with_reducible assumption | (with_reducible apply put1_tidy) | (with_reducible apply tidy_ite) | intro _ | split

theorem portApply_tidy {s : State} (hs : s.tidy = true) :
    (portApply s).tidy = true := by
  unfold portApply
  try dsimp only
  repeat' first
    | with_reducible assumption | (with_reducible apply setFld_tidy) | (with_reducible apply portResumes_tidy)
    | (with_reducible apply portLost_tidy) | (with_reducible apply takeStatic_tidy) | (with_reducible apply dhcpRequest_tidy)
    | (with_reducible apply tidy_ite) | (simp only [tidy_mk]) | (with_reducible apply parts_of) | intro _ | split

theorem portSettle_tidy {s : State} (hs : s.tidy = true) :
    (portSettle s).tidy = true := by
  unfold portSettle
  try dsimp only
  repeat' first
    | with_reducible assumption | (with_reducible apply portApply_tidy) | (with_reducible apply tidy_ite) | intro _ | split

theorem regWrite_tidy {s : State} (r : Req) (hs : s.tidy = true) :
    (regWrite s r).tidy = true := by
  unfold regWrite
  try dsimp only
  repeat' first
    | with_reducible assumption | (with_reducible apply replyTo_tidy) | (with_reducible apply fail_tidy)
    | (with_reducible apply writePairs_tidy) | (with_reducible apply portSettle_tidy) | (with_reducible apply tidy_ite)
    | (simp only [tidy_mk]) | (with_reducible apply parts_of) | intro _ | split

theorem cfgCommit_tidy {s : State} (r : Req) (hs : s.tidy = true) :
    (cfgCommit s r).tidy = true := by
  unfold cfgCommit
  try dsimp only
  repeat' first
    | with_reducible assumption | (with_reducible apply replyTo_tidy) | (with_reducible apply fail_tidy)
    | (with_reducible apply commitCfg_tidy) | (with_reducible apply tidy_ite) | intro _ | split

theorem cfgCommitRef_tidy {s : State} (r : Req) (hs : s.tidy = true) :
    (cfgCommitRef s r).tidy = true := by
  unfold cfgCommitRef
  try dsimp only
  repeat' first
    | with_reducible assumption | (with_reducible apply wr_tidy) | (with_reducible apply replyTo_tidy)
    | (with_reducible apply fail_tidy) | (with_reducible apply commitCfg_tidy) | (with_reducible apply tidy_ite) | intro _
    | split

end Sys2Proof.Machine
end

