-- ==== Sys2Proof/Laws/KeepsRequests.lean ====
section
/-! SUPPORT. Requests: every function keeps the canonical form of the memories and the registers. -/

namespace Sys2Proof.Machine

theorem setReq_tidy {s : State} (k : Nat) (q : Request) (hs : s.tidy = true) :
    (setReq s k q).tidy = true := by
  unfold setReq
  try dsimp only
  repeat' first
    | with_reducible assumption | (simp only [tidy_mk]) | (with_reducible apply parts_of) | intro _ | split

theorem modReq_tidy {s : State} (k : Nat) (f : Request → Request) (hs : s.tidy = true) :
    (modReq s k f).tidy = true := by
  unfold modReq
  try dsimp only
  repeat' first
    | with_reducible assumption | (simp only [tidy_mk]) | (with_reducible apply parts_of) | intro _ | split

theorem ptSet_tidy {s : State} (q : Request) (l j e : Nat) (hs : s.tidy = true) :
    (ptSet s q l j e).tidy = true := by
  unfold ptSet
  try dsimp only
  repeat' first
    | with_reducible assumption | (with_reducible apply st_tidy) | (with_reducible apply charge_tidy) | intro _ | split

theorem addRef_tidy {s : State} (id : Nat) (hs : s.tidy = true) :
    (addRef s id).tidy = true := by
  unfold addRef
  try dsimp only
  repeat' first
    | with_reducible assumption | (simp only [tidy_mk]) | (with_reducible apply parts_of) | intro _ | split

theorem dropRef_tidy {s : State} (id : Nat) (hs : s.tidy = true) :
    (dropRef s id).tidy = true := by
  unfold dropRef
  try dsimp only
  repeat' first
    | with_reducible assumption | (simp only [tidy_mk]) | (with_reducible apply parts_of) | intro _ | split

theorem freePage_tidy {s : State} (id : Nat) (hs : s.tidy = true) :
    (freePage s id).tidy = true := by
  unfold freePage
  try dsimp only
  repeat' first
    | with_reducible assumption | (with_reducible apply freeBlock_tidy) | (simp only [tidy_mk])
    | (with_reducible apply parts_of) | intro _ | split

theorem dropEntry_tidy {s : State} (q : Request) (x : Nat × Nat × Nat) (hs : s.tidy = true) :
    (dropEntry s q x).tidy = true := by
  unfold dropEntry
  try dsimp only
  repeat' first
    | with_reducible assumption | (with_reducible apply ptSet_tidy) | (with_reducible apply dropRef_tidy) | intro _ | split

theorem pfxSync_tidy {s : State} (key : Nat) (hs : s.tidy = true) :
    (pfxSync s key).tidy = true := by
  unfold pfxSync
  try dsimp only
  repeat' first
    | with_reducible assumption | (with_reducible apply st_tidy) | (with_reducible apply charge_tidy)
    | (with_reducible apply tidy_ite) | (simp only [tidy_mk]) | (with_reducible apply parts_of) | intro _ | split

theorem modPfx_tidy {s : State} (key : Nat) (f : PfxEntry → PfxEntry) (hs : s.tidy = true) :
    (modPfx s key f).tidy = true := by
  unfold modPfx
  try dsimp only
  repeat' first
    | with_reducible assumption | (with_reducible apply pfxSync_tidy) | (simp only [tidy_mk])
    | (with_reducible apply parts_of) | intro _ | split

theorem listPlace_tidy {s : State} {n : Nat} {x : Nat × State} (e : listPlace s n = some x) (h : s.tidy = true) : x.2.tidy = true := by
  unfold listPlace at e
  dsimp only at e
  split at e
  · cases e; exact h
  · simp only [Option.map_eq_some_iff] at e
    obtain ⟨y, hy, e⟩ := e
    rw [← e]
    exact tidy_of_eq (takeRun_tidy (b := y.1) (t := y.2) hy h) rfl rfl

theorem trimLists_tidy {s : State} (hs : s.tidy = true) :
    (trimLists s).tidy = true := by
  unfold trimLists
  try dsimp only
  repeat' first
    | with_reducible assumption | (with_reducible apply freeBlock_tidy) | (with_reducible apply tidy_foldl)
    | (simp only [tidy_mk]) | (with_reducible apply parts_of) | intro _ | split

theorem probe_tidy {s : State} (m : Model) (graft ctx : Nat) (ts : List W32) (hs : s.tidy = true) :
    (probe s m graft ctx ts).2.tidy = true := by
  unfold probe
  try dsimp only
  repeat' first
    | with_reducible assumption | (with_reducible apply bump_tidy) | (with_reducible apply bump64_tidy)
    | (with_reducible apply modPfx_tidy) | (with_reducible apply tidy_foldl) | (with_reducible apply tidy_ite)
    | (simp only [tidy_mk]) | (with_reducible apply parts_of) | intro _ | split
theorem probe_tidy_eq {s : State} {m : Model} {graft ctx : Nat} {ts : List W32} {x : List Nat} {t : State} (e : probe s m graft ctx ts = (x, t)) (hs : s.tidy = true) :
    t.tidy = true := by
  have := probe_tidy m graft ctx ts hs; rw [e] at this; exact this

theorem admitRefuse_tidy {s : State} (r : Req) (st detail reuse : Nat) (hs : s.tidy = true) :
    (admitRefuse s r st detail reuse).tidy = true := by
  unfold admitRefuse
  try dsimp only
  repeat' first
    | with_reducible assumption | (with_reducible apply st_tidy) | (with_reducible apply replyTo_tidy) | intro _ | split

theorem admitEntry_tidy {s : State} (r : Req) (ctx cls reuse : Nat) (m : Model) (defer : Bool) (hs : s.tidy = true) :
    (admitEntry s r ctx cls reuse m defer).tidy = true := by
  unfold admitEntry
  try dsimp only
  repeat' first
    | with_reducible assumption | (with_reducible apply replyTo_tidy) | (with_reducible apply setReq_tidy)
    | (with_reducible apply tidy_ite) | (simp only [tidy_mk]) | (with_reducible apply parts_of) | intro _ | split

theorem admitOwed_tidy {s : State} (r : Req) (ctx cls reuse : Nat) (m : Model) (k : Nat) (hs : s.tidy = true) :
    (admitOwed s r ctx cls reuse m k).tidy = true := by
  unfold admitOwed
  try dsimp only
  repeat' first
    | with_reducible assumption | (with_reducible apply replyTo_tidy) | (with_reducible apply modReq_tidy)
    | (simp only [tidy_mk]) | (with_reducible apply parts_of) | intro _ | split

theorem reqAdmit_tidy {s : State} (r : Req) (hs : s.tidy = true) :
    (reqAdmit s r).tidy = true := by
  unfold reqAdmit
  try dsimp only
  repeat' first
    | with_reducible assumption | (with_reducible apply st_tidy) | (with_reducible apply fail_tidy)
    | (with_reducible apply probe_tidy) | (with_reducible refine probe_tidy_eq (by with_reducible assumption) ?_)
    | (with_reducible apply admitRefuse_tidy) | (with_reducible apply admitEntry_tidy) | (with_reducible apply admitOwed_tidy)
    | (with_reducible apply tidy_ite) | (simp only [tidy_mk]) | (with_reducible apply parts_of) | intro _ | split

theorem reqAppend_tidy {s : State} (r : Req) (hs : s.tidy = true) :
    (reqAppend s r).tidy = true := by
  unfold reqAppend
  try dsimp only
  repeat' first
    | with_reducible assumption | (with_reducible apply st_tidy) | (with_reducible apply fail_tidy)
    | (with_reducible apply modReq_tidy) | (with_reducible apply tidy_ite) | (simp only [tidy_mk])
    | (with_reducible apply parts_of) | intro _ | split

theorem reqAppendDraft_tidy {s : State} (r : Req) (hs : s.tidy = true) :
    (reqAppendDraft s r).tidy = true := by
  unfold reqAppendDraft
  try dsimp only
  repeat' first
    | with_reducible assumption | (with_reducible apply st_tidy) | (with_reducible apply fail_tidy)
    | (with_reducible apply modReq_tidy) | (with_reducible apply tidy_ite) | (simp only [tidy_mk])
    | (with_reducible apply parts_of) | intro _ | split

theorem reqPrune_tidy {s : State} (r : Req) (hs : s.tidy = true) :
    (reqPrune s r).tidy = true := by
  unfold reqPrune
  try dsimp only
  repeat' first
    | with_reducible assumption | (with_reducible apply st_tidy) | (with_reducible apply fail_tidy)
    | (with_reducible apply modReq_tidy) | (simp only [tidy_mk]) | (with_reducible apply parts_of) | intro _ | split

theorem reqAccept_tidy {s : State} (r : Req) (hs : s.tidy = true) :
    (reqAccept s r).tidy = true := by
  unfold reqAccept
  try dsimp only
  repeat' first
    | with_reducible assumption | (with_reducible apply st_tidy) | (with_reducible apply fail_tidy)
    | (with_reducible apply modReq_tidy) | (with_reducible apply tidy_ite) | (simp only [tidy_mk])
    | (with_reducible apply parts_of) | intro _ | split

theorem reqQuery_tidy {s : State} (r : Req) (hs : s.tidy = true) :
    (reqQuery s r).tidy = true := by
  unfold reqQuery
  try dsimp only
  repeat' first
    | with_reducible assumption | (with_reducible apply st_tidy) | (with_reducible apply replyTo_tidy)
    | (with_reducible apply fail_tidy) | (with_reducible apply tidy_ite) | (simp only [tidy_mk])
    | (with_reducible apply parts_of) | intro _ | split

end Sys2Proof.Machine
end

