-- ==== Sys2Proof/Laws/KeepsPages.lean ====
section
/-! SUPPORT. Pages: every function keeps the canonical form of the memories and the registers. -/

namespace Sys2Proof.Machine

theorem setCommit_tidy {s : State} (id v : Nat) (hs : s.tidy = true) :
    (setCommit s id v).tidy = true := by
  unfold setCommit
  try dsimp only
  repeat' first
    | with_reducible assumption | (with_reducible apply st_tidy) | (simp only [tidy_mk]) | (with_reducible apply parts_of)
    | intro _ | split

theorem takePage_tidy {s t : State} {k l j : Nat} {q : Request} (e : takePage s k q l j = some t) (h : s.tidy = true) : t.tidy = true := by
  unfold takePage at e
  simp only [Option.map_eq_some_iff] at e
  obtain ⟨b, _, e⟩ := e
  rw [← e]
  repeat' first
    | with_reducible assumption | (with_reducible apply st_tidy) | (with_reducible apply grantBlock_tidy)
    | (with_reducible apply ptSet_tidy) | (with_reducible apply tidy_ite) | (simp only [tidy_mk])
    | (with_reducible apply parts_of) | intro _ | split

theorem freeIdle_tidy {s : State} (hs : s.tidy = true) :
    (freeIdle s).tidy = true := by
  unfold freeIdle
  try dsimp only
  repeat' first
    | with_reducible assumption | (with_reducible apply freePage_tidy) | (with_reducible apply tidy_foldl) | intro _ | split

theorem dropPfx_tidy {s : State} (key : Nat) (hs : s.tidy = true) :
    (dropPfx s key).tidy = true := by
  unfold dropPfx
  try dsimp only
  repeat' first
    | with_reducible assumption | (with_reducible apply dropRef_tidy) | (with_reducible apply pfxSync_tidy)
    | (with_reducible apply trimLists_tidy) | (with_reducible apply tidy_foldl) | (simp only [tidy_mk])
    | (with_reducible apply parts_of) | intro _ | split

theorem purgePfx_tidy {s : State} (p : PfxEntry → Bool) (hs : s.tidy = true) :
    (purgePfx s p).tidy = true := by
  unfold purgePfx
  try dsimp only
  repeat' first
    | with_reducible assumption | (with_reducible apply dropPfx_tidy) | (with_reducible apply tidy_foldl) | intro _ | split

theorem enterPfx_tidy {s : State} {key : Nat} {e : PfxEntry} {t : State} (e : enterPfx s key e = some t) (hs : s.tidy = true) : t.tidy = true := by
  unfold enterPfx at e
  try dsimp only at e
  repeat' (split at e)
  all_goals (try cases e)
  all_goals repeat' first
    | with_reducible assumption | (with_reducible apply st_tidy) | (with_reducible apply charge_tidy)
    | (with_reducible apply addRef_tidy) | (with_reducible apply pfxSync_tidy)
    | (with_reducible refine listPlace_tidy (by with_reducible assumption) ?_) | (with_reducible apply tidy_foldl)
    | (simp only [tidy_mk]) | (with_reducible apply parts_of) | intro _ | split

theorem registerBlock_tidy {s : State} (k : Nat) (hs : s.tidy = true) :
    (registerBlock s k).tidy = true := by
  unfold registerBlock
  try dsimp only
  repeat' first
    | with_reducible assumption | (with_reducible apply bump_tidy) | (with_reducible apply bump64_tidy)
    | (with_reducible apply modReq_tidy) | (with_reducible apply modPfx_tidy) | (with_reducible apply dropPfx_tidy)
    | (with_reducible refine enterPfx_tidy (by with_reducible assumption) ?_) | (with_reducible apply tidy_ite)
    | (simp only [tidy_mk]) | (with_reducible apply parts_of) | intro _ | split

theorem registerAll_tidy {s : State} (hs : s.tidy = true) :
    (registerAll s).tidy = true := by
  unfold registerAll
  try dsimp only
  repeat' first
    | with_reducible assumption | (with_reducible apply registerBlock_tidy) | (with_reducible apply tidy_foldl)
    | (with_reducible apply tidy_ite) | intro _ | split

theorem unholdPfx_tidy {s : State} (keys : List Nat) (hs : s.tidy = true) :
    (unholdPfx s keys).tidy = true := by
  unfold unholdPfx
  try dsimp only
  repeat' first
    | with_reducible assumption | (with_reducible apply modPfx_tidy) | (with_reducible apply tidy_foldl)
    | (simp only [tidy_mk]) | (with_reducible apply parts_of) | intro _ | split

theorem sendFinal_tidy {s : State} (k : Nat) (q : Request) (reason : Nat) (hs : s.tidy = true) :
    (sendFinal s k q reason).tidy = true := by
  unfold sendFinal
  try dsimp only
  repeat' first
    | with_reducible assumption | (with_reducible apply bump64_tidy) | (with_reducible apply beginXfer_tidy)
    | (with_reducible apply tidy_ite) | intro _ | split

theorem writeLog_tidy {s : State} (k : Nat) (hs : s.tidy = true) :
    (writeLog s k).tidy = true := by
  unfold writeLog
  try dsimp only
  repeat' first
    | with_reducible assumption | (with_reducible apply st_tidy) | (with_reducible apply charge_tidy)
    | (with_reducible apply modReq_tidy) | (with_reducible apply tidy_ite) | (simp only [tidy_mk])
    | (with_reducible apply parts_of) | intro _ | split

theorem tokRegion_tidy {s : State} (h : s.tidy = true) : (tokRegion s).tidy = true := by
  unfold tokRegion
  generalize 8192 = n
  split
  · exact h
  · split
    · rename_i x hx
      exact tidy_of_eq (takeRun_tidy (b := x.1) (t := x.2) hx h) rfl rfl
    · exact h

theorem dropLog_tidy {s : State} (q : Request) (sp : Nat) (b : Option Nat) (hs : s.tidy = true) :
    (dropLog s q sp b).tidy = true := by
  unfold dropLog
  try dsimp only
  repeat' first
    | with_reducible assumption | (with_reducible apply freeRunOf_tidy) | (simp only [tidy_mk])
    | (with_reducible apply parts_of) | intro _ | split

theorem freeReq_tidy {s : State} (k : Nat) (q : Request) (hs : s.tidy = true) :
    (freeReq s k q).tidy = true := by
  unfold freeReq
  try dsimp only
  repeat' first
    | with_reducible assumption | (with_reducible apply freeRunOf_tidy) | (with_reducible apply setReq_tidy)
    | (with_reducible apply dropRef_tidy) | (with_reducible apply unholdPfx_tidy) | (with_reducible apply dropLog_tidy)
    | (with_reducible apply tidy_foldl) | (simp only [tidy_mk]) | (with_reducible apply parts_of) | intro _ | split

theorem finishReq_tidy {s : State} (k : Nat) (q : Request) (hs : s.tidy = true) :
    (finishReq s k q).tidy = true := by
  unfold finishReq
  try dsimp only
  repeat' first
    | with_reducible assumption | (with_reducible apply bump_tidy) | (with_reducible apply sendFinal_tidy)
    | (with_reducible apply freeReq_tidy) | (with_reducible apply tidy_ite) | (simp only [tidy_mk])
    | (with_reducible apply parts_of) | intro _ | split

theorem finishAll_tidy {s : State} (hs : s.tidy = true) :
    (finishAll s).tidy = true := by
  unfold finishAll
  try dsimp only
  repeat' first
    | with_reducible assumption | (with_reducible apply finishReq_tidy) | (with_reducible apply tidy_foldl) | intro _ | split

theorem preempt_tidy {s : State} (k : Nat) (hs : s.tidy = true) :
    (preempt s k).tidy = true := by
  unfold preempt
  try dsimp only
  repeat' first
    | with_reducible assumption | (with_reducible apply freeIdle_tidy) | (with_reducible apply finishReq_tidy)
    | (simp only [tidy_mk]) | (with_reducible apply parts_of) | intro _ | split

theorem preemptUntil_tidy {s t : State} {p : State → Bool} (e : preemptUntil s p = some t) (h : s.tidy = true) : t.tidy = true := by
  unfold preemptUntil at e
  have gen : ∀ (l : List Nat) (acc : State × Option State), acc.1.tidy = true → (∀ u, acc.2 = some u → u.tidy = true) →
      ∀ u, (l.foldl (fun (acc : State × Option State) k =>
        match acc.2 with
        | some _ => acc
        | none =>
          let t := preempt acc.1 k
          (t, if p t then some t else none)) acc).2 = some u → u.tidy = true := by
    intro l
    induction l with
    | nil => intro acc _ h2 u hu; exact h2 u hu
    | cons a l ih =>
      intro acc h1 h2 u hu
      refine ih _ ?_ ?_ u hu
      · dsimp only
        split
        · exact h1
        · exact preempt_tidy _ h1
      · dsimp only
        intro u hu
        split at hu
        · exact h2 u hu
        · dsimp only at hu
          split at hu
          · cases hu; exact preempt_tidy _ h1
          · cases hu
  refine gen _ _ h ?_ t e
  intro u hu
  dsimp only at hu
  split at hu
  · cases hu; exact h
  · cases hu
theorem preemptUntil_getD {s : State} {p : State → Bool} (h : s.tidy = true) : ((preemptUntil s p).getD s).tidy = true := by
  cases e : preemptUntil s p with
  | none => exact h
  | some t => exact preemptUntil_tidy e h

theorem reclaim_tidy (n : Nat) : ∀ {s : State} (q : Request), s.tidy = true → (reclaim s q n).tidy = true := by
  induction n with
  | zero => intro s q h; exact h
  | succ n ih =>
    intro s q h
    unfold reclaim
    try dsimp only
    repeat' first
      | with_reducible assumption | (with_reducible apply ih) | (with_reducible apply bump64_tidy)
      | (with_reducible apply freeIdle_tidy) | (with_reducible apply dropPfx_tidy) | (with_reducible apply tidy_ite)
      | (simp only [tidy_mk]) | (with_reducible apply parts_of) | intro _ | split

theorem getPage_tidy {s : State} (k l j : Nat) (h : s.tidy = true) : (getPage s k l j).1.tidy = true := by
  unfold getPage
  split
  · exact h
  · rename_i q hq
    dsimp only
    have h1 := reclaim_tidy (s.graft.pfx.length + 1) q h
    generalize reclaim s q _ = s1 at h1 ⊢
    have h2 : (if (pageAllowed s1 q || !ownPage s1 q) = true then s1 else (preemptUntil s1 fun t => pageAllowed t q).getD s1).tidy = true :=
      tidy_ite (fun _ => h1) (fun _ => preemptUntil_getD h1)
    generalize (if (pageAllowed s1 q || !ownPage s1 q) = true then s1 else (preemptUntil s1 fun t => pageAllowed t q).getD s1) = s2 at h2 ⊢
    split
    · exact h2
    · split
      · exact takePage_tidy (by assumption) h2
      · exact h2
theorem getPage_tidy_eq {s t : State} {k l j : Nat} {b : Bool} (e : getPage s k l j = (t, b)) (h : s.tidy = true) : t.tidy = true := by
  have := getPage_tidy k l j h; rw [e] at this; exact this

theorem getPages_tidy (l : List (Nat × Nat)) : ∀ {s : State} (k : Nat), s.tidy = true → (getPages s k l).1.tidy = true := by
  induction l with
  | nil => intro s k h; exact h
  | cons a l ih =>
    intro s k h
    obtain ⟨x, y⟩ := a
    unfold getPages
    split
    · exact ih k (getPage_tidy_eq (by assumption) h)
    · exact getPage_tidy_eq (by assumption) h
theorem getPages_tidy_eq {s t : State} {k : Nat} {l : List (Nat × Nat)} {b : Bool} (e : getPages s k l = (t, b)) (h : s.tidy = true) : t.tidy = true := by
  have := getPages_tidy l k h; rw [e] at this; exact this

theorem markSpill_tidy {s : State} (id : Nat) (hs : s.tidy = true) :
    (markSpill s id).tidy = true := by
  unfold markSpill
  try dsimp only
  repeat' first
    | with_reducible assumption | (simp only [tidy_mk]) | (with_reducible apply parts_of) | intro _ | split

theorem park_tidy {s : State} (k : Nat) (hs : s.tidy = true) :
    (park s k).tidy = true := by
  unfold park
  try dsimp only
  repeat' first
    | with_reducible assumption | (with_reducible apply modReq_tidy) | (with_reducible apply tidy_ite) | (simp only [tidy_mk])
    | (with_reducible apply parts_of) | intro _ | split

theorem parkListers_tidy {s : State} (id : Nat) (hs : s.tidy = true) :
    (parkListers s id).tidy = true := by
  unfold parkListers
  try dsimp only
  repeat' first
    | with_reducible assumption | (with_reducible apply park_tidy) | (with_reducible apply tidy_foldl)
    | (with_reducible apply tidy_ite) | intro _ | split

theorem spillFor_tidy {s : State} (k : Nat) (q : Request) (n : Nat) (hs : s.tidy = true) :
    (spillFor s k q n).tidy = true := by
  unfold spillFor
  try dsimp only
  repeat' first
    | with_reducible assumption | (with_reducible apply markSpill_tidy) | (with_reducible apply parkListers_tidy)
    | (with_reducible apply tidy_foldl) | (with_reducible apply tidy_ite) | intro _ | split

theorem movePage_tidy {s t : State} {k sp : Nat} (e : movePage s k sp = some t) (h : s.tidy = true) : t.tidy = true := by
  unfold movePage at e
  split at e
  · cases e
  · simp only [Option.map_eq_some_iff] at e
    obtain ⟨b, _, e⟩ := e
    rw [← e]
    repeat' first
      | with_reducible assumption | (with_reducible apply copyRange_tidy) | (with_reducible apply charge_tidy)
      | (with_reducible apply grantBlock_tidy) | (with_reducible apply freeBlock_tidy) | (simp only [tidy_mk])
      | (with_reducible apply parts_of) | intro _ | split

theorem movePage_getD {s : State} {k sp : Nat} (h : s.tidy = true) : ((movePage s k sp).getD s).tidy = true := by
  cases e : movePage s k sp with
  | none => exact h
  | some t => exact movePage_tidy e h

theorem settleSpills_tidy {s : State} (hs : s.tidy = true) :
    (settleSpills s).tidy = true := by
  unfold settleSpills
  try dsimp only
  repeat' first
    | with_reducible assumption | (with_reducible apply bump64_tidy) | (with_reducible apply park_tidy)
    | (with_reducible refine movePage_tidy (by with_reducible assumption) ?_) | (with_reducible refine movePage_getD ?_)
    | (with_reducible apply tidy_foldl) | (with_reducible apply tidy_ite) | (simp only [tidy_mk])
    | (with_reducible apply parts_of) | intro _ | split

theorem promoteParked_tidy {s : State} (hs : s.tidy = true) :
    (promoteParked s).tidy = true := by
  unfold promoteParked
  try dsimp only
  repeat' first
    | with_reducible assumption | (with_reducible apply modReq_tidy)
    | (with_reducible refine movePage_tidy (by with_reducible assumption) ?_) | (with_reducible refine movePage_getD ?_)
    | (with_reducible apply tidy_foldl) | (with_reducible apply tidy_ite) | (simp only [tidy_mk])
    | (with_reducible apply parts_of) | intro _ | split

theorem settleFull_tidy {s : State} (hs : s.tidy = true) :
    (settleFull s).tidy = true := by
  unfold settleFull
  try dsimp only
  repeat' first
    | with_reducible assumption | (with_reducible refine movePage_tidy (by with_reducible assumption) ?_)
    | (with_reducible refine movePage_getD ?_) | (with_reducible apply tidy_foldl) | intro _ | split

theorem fallBack_tidy {s : State} (k : Nat) (q : Request) (pos : Nat) (hs : s.tidy = true) :
    (fallBack s k q pos).tidy = true := by
  unfold fallBack
  try dsimp only
  repeat' first
    | with_reducible assumption | (with_reducible apply modReq_tidy) | (with_reducible apply dropEntry_tidy)
    | (with_reducible apply tidy_foldl) | (with_reducible apply tidy_ite) | (simp only [tidy_mk])
    | (with_reducible apply parts_of) | intro _ | split

theorem settleLost_tidy {s : State} (hs : s.tidy = true) :
    (settleLost s).tidy = true := by
  unfold settleLost
  try dsimp only
  repeat' first
    | with_reducible assumption | (with_reducible apply purgePfx_tidy) | (with_reducible apply fallBack_tidy)
    | (with_reducible apply tidy_foldl) | (with_reducible apply tidy_ite) | (simp only [tidy_mk])
    | (with_reducible apply parts_of) | intro _ | split

end Sys2Proof.Machine
end

