-- ==== Sys2Proof/Laws/KeepsServing.lean ====
section
/-! SUPPORT. Serving: every function keeps the canonical form of the memories and the registers. -/

namespace Sys2Proof.Machine

theorem missDl_tidy {s : State} (k due : Nat) (hs : s.tidy = true) :
    (missDl s k due).tidy = true := by
  unfold missDl
  try dsimp only
  repeat' first
    | with_reducible assumption | (with_reducible apply bump_tidy) | (with_reducible apply notify_tidy)
    | (with_reducible apply record_tidy) | (with_reducible apply modReq_tidy) | (with_reducible apply tidy_ite)
    | (simp only [tidy_mk]) | (with_reducible apply parts_of) | intro _ | split

theorem missTokens_tidy : ∀ (n_ : Nat) {s : State} (k t i : Nat), s.tidy = true →
    (missTokens s k t i n_).tidy = true := by
  intro n_
  induction n_ with
  | zero => intros; unfold missTokens; assumption
  | succ n_ ih =>
  intros
  unfold missTokens
  try dsimp only
  repeat' first
    | with_reducible assumption | (with_reducible apply ih) | (with_reducible apply modReq_tidy)
    | (with_reducible apply missDl_tidy) | (with_reducible apply missTokens_tidy) | (with_reducible apply tidy_ite)
    | (simp only [tidy_mk]) | (with_reducible apply parts_of) | intro _ | split

theorem missEnd_tidy {s : State} (k t : Nat) (hs : s.tidy = true) :
    (missEnd s k t).tidy = true := by
  unfold missEnd
  try dsimp only
  repeat' first
    | with_reducible assumption | (with_reducible apply modReq_tidy) | (with_reducible apply missDl_tidy)
    | (with_reducible apply tidy_ite) | (simp only [tidy_mk]) | (with_reducible apply parts_of) | intro _ | split

theorem scanReq_tidy {s : State} (t k : Nat) (hs : s.tidy = true) :
    (scanReq s t k).tidy = true := by
  unfold scanReq
  try dsimp only
  repeat' first
    | with_reducible assumption | (with_reducible apply missTokens_tidy) | (with_reducible apply missEnd_tidy)
    | (with_reducible apply tidy_ite) | (simp only [tidy_mk]) | (with_reducible apply parts_of) | intro _ | split

theorem scanDeadlines_tidy {s : State} (t : Nat) (carried : List Nat) (hs : s.tidy = true) :
    (scanDeadlines s t carried).tidy = true := by
  unfold scanDeadlines
  try dsimp only
  repeat' first
    | with_reducible assumption | (with_reducible apply scanReq_tidy) | (with_reducible apply tidy_foldl)
    | (with_reducible apply tidy_ite) | intro _ | split

theorem scanGrace_tidy {s : State} (t : Nat) (hs : s.tidy = true) :
    (scanGrace s t).tidy = true := by
  unfold scanGrace
  try dsimp only
  repeat' first
    | with_reducible assumption | (with_reducible apply modReq_tidy) | (with_reducible apply tidy_foldl)
    | (with_reducible apply tidy_ite) | intro _ | split

theorem stepInst_tidy (rows : List Row) (force : Bool) (acc : List Nat × List Nat × State) (n : Nat) (hs : acc.2.2.tidy = true) :
    (stepInst rows force acc n).2.2.tidy = true := by
  unfold stepInst
  generalize 256 = k
  extract_lets s
  split
  · exact hs
  · extract_lets g
    split
    · exact hs
    · dsimp only
      apply enterInst_tidy
      exact hs
theorem stepInst_all (rows : List Row) (force : Bool) (l : List Nat) : ∀ (acc : List Nat × List Nat × State), acc.2.2.tidy = true →
    (l.foldl (stepInst rows force) acc).2.2.tidy = true := by
  induction l with
  | nil => intro acc h; exact h
  | cons a l ih => intro acc h; exact ih _ (stepInst_tidy rows force acc a h)

theorem stepInsts_tidy {s : State} (st : Step) (ms : List Nat) (hs : s.tidy = true) :
    (stepInsts s st ms).tidy = true := by
  unfold stepInsts
  try dsimp only
  repeat' first
    | with_reducible assumption | (with_reducible apply st_tidy) | (with_reducible apply failNow_tidy)
    | (with_reducible apply stepInst_all) | (with_reducible apply tidy_foldl) | (with_reducible apply tidy_foldl_snd)
    | (with_reducible apply tidy_foldl_fst) | (simp only [tidy_mk]) | (with_reducible apply parts_of) | intro _ | split

theorem formFrom_tidy {s : State} (rows : List Row) (force : Bool) (hs : s.tidy = true) :
    (formFrom s rows force).tidy = true := by
  unfold formFrom
  try dsimp only
  repeat' first
    | with_reducible assumption | (with_reducible apply stepInsts_tidy) | (with_reducible apply tidy_ite)
    | (simp only [tidy_mk]) | (with_reducible apply parts_of) | intro _ | split

theorem formStep_tidy {s : State} (t : Nat) (hs : s.tidy = true) :
    (formStep s t).tidy = true := by
  unfold formStep
  try dsimp only
  repeat' first
    | with_reducible assumption | (with_reducible apply formFrom_tidy) | (with_reducible apply tidy_ite)
    | (simp only [tidy_mk]) | (with_reducible apply parts_of) | intro _ | split

theorem sendTokens_tidy {s : State} (k : Nat) (q : Request) (ts : List (W32 × W32)) (late : Bool) (hs : s.tidy = true) :
    (sendTokens s k q ts late).tidy = true := by
  unfold sendTokens
  try dsimp only
  repeat' first
    | with_reducible assumption | (with_reducible apply bump64_tidy) | (with_reducible apply st_tidy)
    | (with_reducible apply emit_tidy) | (with_reducible apply takeEce_tidy)
    | (with_reducible refine takeEce_tidy_eq (by with_reducible assumption) ?_) | (with_reducible apply modReq_tidy)
    | (with_reducible apply tidy_ite) | (simp only [tidy_mk]) | (with_reducible apply parts_of) | intro _ | split

theorem deliver_tidy {s : State} (t k : Nat) (r : Row) (ts : List (W32 × W32)) (hs : s.tidy = true) :
    (deliver s t k r ts).tidy = true := by
  unfold deliver
  try dsimp only
  repeat' first
    | with_reducible assumption | (with_reducible apply modReq_tidy) | (with_reducible apply missDl_tidy)
    | (with_reducible apply missEnd_tidy) | (with_reducible apply sendTokens_tidy) | (with_reducible apply tidy_ite)
    | (simp only [tidy_mk]) | (with_reducible apply parts_of) | intro _ | split

theorem gateRow_tidy {s : State} (t : Nat) (r : Row) (res : RowResult) (hs : s.tidy = true) :
    (gateRow s t r res).tidy = true := by
  unfold gateRow
  try dsimp only
  repeat' first
    | with_reducible assumption | (with_reducible apply modReq_tidy) | (with_reducible apply missEnd_tidy)
    | (with_reducible apply deliver_tidy) | (with_reducible apply tidy_ite) | (simp only [tidy_mk])
    | (with_reducible apply parts_of) | intro _ | split

theorem gateFailed_tidy {s : State} (r : Row) (hs : s.tidy = true) :
    (gateFailed s r).tidy = true := by
  unfold gateFailed
  try dsimp only
  repeat' first
    | with_reducible assumption | (with_reducible apply modReq_tidy) | (with_reducible apply tidy_ite) | intro _ | split

theorem stepFailed_tidy {s : State} (st : Step) (status : Nat) (hs : s.tidy = true) :
    (stepFailed s st status).tidy = true := by
  unfold stepFailed
  try dsimp only
  repeat' first
    | with_reducible assumption | (with_reducible apply notify_tidy) | (with_reducible apply tidy_foldl)
    | (with_reducible apply tidy_ite) | intro _ | split

theorem replyGate_tidy {s : State} (rs : List RowResult) (ctr : Option Nat) (hs : s.tidy = true) :
    (replyGate s rs ctr).tidy = true := by
  unfold replyGate
  try dsimp only
  repeat' first
    | with_reducible assumption | (with_reducible apply st_tidy) | (with_reducible apply signalCtr_tidy)
    | (with_reducible apply formStep_tidy) | (with_reducible apply gateRow_tidy) | (with_reducible apply gateFailed_tidy)
    | (with_reducible apply stepFailed_tidy) | (with_reducible apply tidy_foldl) | (with_reducible apply tidy_ite)
    | (simp only [tidy_mk]) | (with_reducible apply parts_of) | intro _ | split

end Sys2Proof.Machine
end

