-- ==== Sys2Proof/Laws/KeepsGrafts.lean ====
section
/-! SUPPORT. Grafts: every function keeps the canonical form of the memories and the registers. -/

namespace Sys2Proof.Machine

theorem mirrorOf_tidy {s : State} {a n : Nat} {x : Option (Nat × Nat) × State} (e : mirrorOf s a n = some x) (h : s.tidy = true) :
    x.2.tidy = true := by
  unfold mirrorOf at e
  split at e
  · cases e; exact h
  · simp only [Option.map_eq_some_iff] at e
    obtain ⟨y, hy, e⟩ := e
    rw [← e]
    have h1 : y.2.tidy = true := takeRun_tidy (b := y.1) (t := y.2) hy h
    dsimp only
    repeat' first
      | with_reducible assumption | (with_reducible apply charge_tidy)
      | (with_reducible refine takeRun_tidy (by with_reducible assumption) ?_) | (with_reducible apply firmCopy_tidy)
      | (with_reducible apply tidy_ite) | intro _ | split

theorem dropMirror_tidy {s : State} (x : Nat × Nat) (hs : s.tidy = true) :
    (dropMirror s x).tidy = true := by
  unfold dropMirror
  try dsimp only
  repeat' first
    | with_reducible assumption | (with_reducible apply freeRunOf_tidy) | intro _ | split

theorem enterGraft_tidy {s : State} (r : Req) (tier addr : Nat) (h : Bytes) (model : Nat) (hs : s.tidy = true) :
    (enterGraft s r tier addr h model).tidy = true := by
  unfold enterGraft
  refine tidy_ite (fun _ => fail_tidy _ _ _ hs) (fun _ => ?_)
  extract_lets i gen delta size t
  have ht : t.tidy = true := by
    simp only [t]
    split
    · exact hs
    · exact charge_tidy _ _ _ (chargeNear_tidy _ _ _ (copyRange_tidy _ _ _ _ _ (wipeRange_tidy hs _ _ _)))
  have hm : ∀ x, (if delta then some (none, t) else mirrorOf t (regSlot t i) 16384) = some x → x.2.tidy = true := by
    intro x e
    split at e
    · cases e; exact ht
    · exact mirrorOf_tidy e ht
  split
  · exact fail_tidy _ _ _ hs
  · exact replyTo_tidy _ _ _ _ (tidy_of_eq (hm _ (by assumption)) rfl rfl)

theorem graftRegister_tidy {s : State} (r : Req) (hs : s.tidy = true) :
    (graftRegister s r).tidy = true := by
  unfold graftRegister
  try dsimp only
  repeat' first
    | with_reducible assumption | (with_reducible apply replyTo_tidy) | (with_reducible apply fail_tidy)
    | (with_reducible apply cmdUe_tidy) | (with_reducible apply enterGraft_tidy) | (with_reducible apply tidy_ite)
    | (simp only [tidy_mk]) | (with_reducible apply parts_of) | intro _ | split

theorem graftUnregister_tidy {s : State} (r : Req) (hs : s.tidy = true) :
    (graftUnregister s r).tidy = true := by
  unfold graftUnregister
  try dsimp only
  repeat' first
    | with_reducible assumption | (with_reducible apply replyTo_tidy) | (with_reducible apply fail_tidy)
    | (with_reducible apply tidy_ite) | (simp only [tidy_mk]) | (with_reducible apply parts_of) | intro _ | split

theorem freeOwed_tidy {s : State} (hs : s.tidy = true) :
    (freeOwed s).tidy = true := by
  unfold freeOwed
  try dsimp only
  repeat' first
    | with_reducible assumption | (with_reducible apply freeNow_tidy) | (with_reducible apply tidy_foldl)
    | (simp only [tidy_mk]) | (with_reducible apply parts_of) | intro _ | split

theorem freeGraft_tidy {s : State} (i : Nat) (g : Graft) (hs : s.tidy = true) :
    (freeGraft s i g).tidy = true := by
  unfold freeGraft
  try dsimp only
  repeat' first
    | with_reducible assumption | (with_reducible apply purgePfx_tidy) | (with_reducible apply dropMirror_tidy)
    | (with_reducible apply freeOwed_tidy) | (simp only [tidy_mk]) | (with_reducible apply parts_of) | intro _ | split

theorem freeGrafts_tidy {s : State} (hs : s.tidy = true) :
    (freeGrafts s).tidy = true := by
  unfold freeGrafts
  try dsimp only
  repeat' first
    | with_reducible assumption | (with_reducible apply freeGraft_tidy) | (with_reducible apply tidy_foldl)
    | (with_reducible apply tidy_ite) | intro _ | split

theorem unregisterAll_tidy {s : State} (p : Graft → Bool) (hs : s.tidy = true) :
    (unregisterAll s p).tidy = true := by
  unfold unregisterAll
  try dsimp only
  repeat' first
    | with_reducible assumption | (with_reducible apply tidy_ite) | (simp only [tidy_mk]) | (with_reducible apply parts_of)
    | intro _ | split

theorem promoteGraft_tidy (used : List Nat) {s : State} (i : Nat) (hs : s.tidy = true) :
    (promoteGraft used s i).tidy = true := by
  unfold promoteGraft
  try dsimp only
  repeat' first
    | with_reducible assumption | (with_reducible apply charge_tidy) | (with_reducible apply firmCopy_tidy)
    | (with_reducible apply tidy_ite) | (simp only [tidy_mk]) | (with_reducible apply parts_of) | intro _ | split

theorem promoteGrafts_tidy {s : State} (rows : List Row) (hs : s.tidy = true) :
    (promoteGrafts s rows).tidy = true := by
  unfold promoteGrafts
  try dsimp only
  repeat' first
    | with_reducible assumption | (with_reducible apply promoteGraft_tidy) | (with_reducible apply tidy_foldl)
    | (with_reducible apply tidy_ite) | (simp only [tidy_mk]) | (with_reducible apply parts_of) | intro _ | split

end Sys2Proof.Machine
end

