-- ==== Sys2Proof/Laws/KeepsModels.lean ====
section
/-! SUPPORT. Models: every function keeps the canonical form of the memories and the registers. -/

namespace Sys2Proof.Machine

theorem twoRanges_tidy {s t : State} {n : Nat} {l : List Nat} (e : twoRanges s n = some (l, t)) (h : s.tidy = true) : t.tidy = true := by
  unfold twoRanges at e
  split at e
  · cases e
  · simp only [Option.map_eq_some_iff] at e
    obtain ⟨b, _, e⟩ := e
    simp only [Prod.mk.injEq] at e
    rw [← e.2]
    repeat' first
      | with_reducible assumption | (with_reducible apply giveCtrs_tidy) | (simp only [tidy_mk])
      | (with_reducible apply parts_of) | intro _ | split

theorem enterGraph_tidy {model : Nat} {acc r : State × List Nat} {g : Nat × Nat} (e : enterGraph model acc g = some r) (h : acc.1.tidy = true) :
    r.1.tidy = true := by
  unfold enterGraph at e
  simp only [Option.map_eq_some_iff] at e
  obtain ⟨x, hx, e⟩ := e
  rw [← e]
  have := twoRanges_tidy (l := x.1) (t := x.2) hx h
  exact tidy_of_eq this rfl rfl
theorem enterGraphs_tidy {model : Nat} (l : List (Nat × Nat)) : ∀ {acc r : State × List Nat}, foldOpt (enterGraph model) l acc = some r → acc.1.tidy = true →
    r.1.tidy = true := by
  induction l with
  | nil => intro acc r e h; cases e; exact h
  | cons a l ih =>
    intro acc r e h
    simp only [foldOpt] at e
    cases hg : enterGraph model acc a with
    | none => rw [hg] at e; cases e
    | some x => rw [hg] at e; exact ih e (enterGraph_tidy hg h)

theorem mirrorAll_tidy {s t : State} {l m : List (Nat × Nat)} (e : mirrorAll s l = some (t, m)) (h : s.tidy = true) : t.tidy = true := by
  unfold mirrorAll at e
  have gen : ∀ (l : List (Nat × Nat)) (acc r : State × List (Nat × Nat)), acc.1.tidy = true →
      foldOpt (fun (acc : State × List (Nat × Nat)) r => (mirrorOf acc.1 r.1 r.2).map fun m => (m.2, acc.2 ++ m.1.toList)) l acc = some r →
      r.1.tidy = true := by
    intro l
    induction l with
    | nil => intro acc r h e; cases e; exact h
    | cons a l ih =>
      intro acc r h e
      simp only [foldOpt] at e
      cases hm : mirrorOf acc.1 a.1 a.2 with
      | none => rw [hm] at e; cases e
      | some x => rw [hm] at e; exact ih _ r (mirrorOf_tidy hm h) e
  exact gen l _ _ h e

theorem installModel_tidy {s : State} (r : Req) (m : Manifest) (hs : s.tidy = true) :
    (installModel s r m).tidy = true := by
  unfold installModel
  try dsimp only
  repeat' first
    | with_reducible assumption | (with_reducible apply replyTo_tidy) | (with_reducible apply fail_tidy)
    | (with_reducible refine enterGraphs_tidy _ (by with_reducible assumption) ?_)
    | (with_reducible refine mirrorAll_tidy (by with_reducible assumption) ?_) | (simp only [tidy_mk])
    | (with_reducible apply parts_of) | intro _ | split

theorem modelInstall_tidy {s : State} (r : Req) (hs : s.tidy = true) :
    (modelInstall s r).tidy = true := by
  unfold modelInstall
  try dsimp only
  repeat' first
    | with_reducible assumption | (with_reducible apply st_tidy) | (with_reducible apply fail_tidy)
    | (with_reducible apply cmdUe_tidy) | (with_reducible apply installModel_tidy) | (with_reducible apply tidy_ite)
    | (simp only [tidy_mk]) | (with_reducible apply parts_of) | intro _ | split

theorem writeSlice_tidy {s : State} (t : TileRec) (e a : Nat) (hs : s.tidy = true) :
    (writeSlice s t e a).tidy = true := by
  unfold writeSlice
  try dsimp only
  repeat' first
    | with_reducible assumption | (with_reducible apply stSlice_tidy) | (with_reducible apply bedToIdle_tidy)
    | (with_reducible apply tidy_ite) | intro _ | split

theorem writeTile_tidy {s : State} (t : TileRec) (hs : s.tidy = true) :
    (writeTile s t).tidy = true := by
  unfold writeTile
  try dsimp only
  repeat' first
    | with_reducible assumption | (with_reducible apply st_tidy) | (with_reducible apply charge_tidy)
    | (with_reducible apply writeSlice_tidy) | (with_reducible apply tidy_foldl) | (with_reducible apply tidy_ite) | intro _
    | split

theorem loadWeights_tidy {s : State} (r : Req) (hs : s.tidy = true) :
    (loadWeights s r).tidy = true := by
  unfold loadWeights
  try dsimp only
  repeat' first
    | with_reducible assumption | (with_reducible apply fail_tidy) | (with_reducible apply writeTile_tidy)
    | (with_reducible apply tidy_foldl) | (with_reducible apply tidy_ite) | (simp only [tidy_mk])
    | (with_reducible apply parts_of) | intro _ | split

theorem modelRemove_tidy {s : State} (r : Req) (hs : s.tidy = true) :
    (modelRemove s r).tidy = true := by
  unfold modelRemove
  try dsimp only
  repeat' first
    | with_reducible assumption | (with_reducible apply fail_tidy) | (with_reducible apply tidy_ite) | (simp only [tidy_mk])
    | (with_reducible apply parts_of) | intro _ | split

theorem clearRange_tidy {s : State} (r : Nat × Nat × Nat) (hs : s.tidy = true) :
    (clearRange s r).tidy = true := by
  unfold clearRange
  try dsimp only
  repeat' first
    | with_reducible assumption | (with_reducible apply wipeRange_tidy) | (with_reducible apply charge_tidy)
    | (with_reducible apply wipeSlice_tidy) | (with_reducible apply tidy_foldl) | (with_reducible apply tidy_ite) | intro _
    | split

theorem beginRemovals_tidy {s : State} (hs : s.tidy = true) :
    (beginRemovals s).tidy = true := by
  unfold beginRemovals
  try dsimp only
  repeat' first
    | with_reducible assumption | (with_reducible apply unregisterAll_tidy) | (with_reducible apply tidy_foldl)
    | (with_reducible apply tidy_ite) | (simp only [tidy_mk]) | (with_reducible apply parts_of) | intro _ | split

theorem dropModel_tidy {s : State} (n : Nat) (m : Model) (hs : s.tidy = true) :
    (dropModel s n m).tidy = true := by
  unfold dropModel
  try dsimp only
  repeat' first
    | with_reducible assumption | (with_reducible apply freeCtrs_tidy) | (with_reducible apply purgePfx_tidy)
    | (with_reducible apply dropMirror_tidy) | (with_reducible apply clearRange_tidy) | (with_reducible apply tidy_foldl)
    | (simp only [tidy_mk]) | (with_reducible apply parts_of) | intro _ | split

theorem endRemovals_tidy {s : State} (hs : s.tidy = true) :
    (endRemovals s).tidy = true := by
  unfold endRemovals
  try dsimp only
  repeat' first
    | with_reducible assumption | (with_reducible apply dropModel_tidy) | (with_reducible apply tidy_foldl) | intro _ | split

end Sys2Proof.Machine
end

