-- ==== Sys2Proof/Laws/KeepsContexts.lean ====
section
/-! SUPPORT. Contexts: every function keeps the canonical form of the memories and the registers. -/

namespace Sys2Proof.Machine

theorem openContext_tidy {s : State} (r : Req) (hs : s.tidy = true) :
    (openContext s r).tidy = true := by
  unfold openContext
  try dsimp only
  repeat' first
    | with_reducible assumption | (with_reducible apply setCtx_tidy) | (with_reducible apply replyTo_tidy)
    | (with_reducible apply fail_tidy) | (with_reducible apply tidy_ite) | (simp only [tidy_mk])
    | (with_reducible apply parts_of) | intro _ | split

theorem beginClose_tidy {s : State} (c : Nat) (hs : s.tidy = true) :
    (beginClose s c).tidy = true := by
  unfold beginClose
  try dsimp only
  repeat' first
    | with_reducible assumption | (with_reducible apply modCtx_tidy) | (with_reducible apply endIn_tidy)
    | (with_reducible apply modInst_tidy) | (with_reducible apply voidRest_tidy) | (with_reducible apply tryComplete_tidy)
    | (with_reducible apply unregisterAll_tidy) | (with_reducible apply tidy_foldl) | (with_reducible apply tidy_ite)
    | (simp only [tidy_mk]) | (with_reducible apply parts_of) | intro _ | split

theorem closeContext_tidy {s : State} (r : Req) (hs : s.tidy = true) :
    (closeContext s r).tidy = true := by
  unfold closeContext
  try dsimp only
  repeat' first
    | with_reducible assumption | (with_reducible apply modCtx_tidy) | (with_reducible apply fail_tidy)
    | (with_reducible apply beginClose_tidy) | (with_reducible apply tidy_ite) | (simp only [tidy_mk])
    | (with_reducible apply parts_of) | intro _ | split

theorem freeAllCtrs_tidy {s : State} (c : Nat) (hs : s.tidy = true) :
    (freeAllCtrs s c).tidy = true := by
  unfold freeAllCtrs
  try dsimp only
  repeat' first
    | with_reducible assumption | (with_reducible apply setCtr_tidy) | (with_reducible apply freeCtrs_tidy)
    | (with_reducible apply tidy_foldl) | intro _ | split

theorem freeAllBlocks_tidy {s : State} (c : Nat) (hs : s.tidy = true) :
    (freeAllBlocks s c).tidy = true := by
  unfold freeAllBlocks
  try dsimp only
  repeat' first
    | with_reducible assumption | (with_reducible apply freeBlock_tidy) | (with_reducible apply tidy_foldl) | intro _ | split

theorem endClose_tidy {s : State} (c : Nat) (x : Ctx) (hs : s.tidy = true) :
    (endClose s c x).tidy = true := by
  unfold endClose
  try dsimp only
  repeat' first
    | with_reducible assumption | (with_reducible apply fail_tidy) | (with_reducible apply dropColl_tidy)
    | (with_reducible apply freeAllCtrs_tidy) | (with_reducible apply freeAllBlocks_tidy) | (with_reducible apply tidy_foldl)
    | (with_reducible apply tidy_ite) | (simp only [tidy_mk]) | (with_reducible apply parts_of) | intro _ | split

theorem endCloses_tidy {s : State} (hs : s.tidy = true) :
    (endCloses s).tidy = true := by
  unfold endCloses
  try dsimp only
  repeat' first
    | with_reducible assumption | (with_reducible apply endClose_tidy) | (with_reducible apply tidy_foldl) | intro _ | split

end Sys2Proof.Machine
end

