-- ==== Sys2Proof/Laws/KeepsBoundary.lean ====
section
/-! SUPPORT. Boundary: every function keeps the canonical form of the memories and the registers. -/

namespace Sys2Proof.Machine

theorem modAllReqs_tidy {s : State} (f : Nat → Request → Request) (hs : s.tidy = true) :
    (modAllReqs s f).tidy = true := by
  unfold modAllReqs
  try dsimp only
  repeat' first
    | with_reducible assumption | (simp only [tidy_mk]) | (with_reducible apply parts_of) | intro _ | split

theorem peerAdmit_tidy {s : State} (n : Nat) (m : Model) (x : Nat × Nat × Bytes) (hs : s.tidy = true) :
    (peerAdmit s n m x).tidy = true := by
  unfold peerAdmit
  try dsimp only
  repeat' first
    | with_reducible assumption | (with_reducible apply setReq_tidy) | (with_reducible apply tidy_ite) | (simp only [tidy_mk])
    | (with_reducible apply parts_of) | intro _ | split

theorem takeLead_tidy {s : State} (late : Bool) (p : BoundaryRec) (hs : s.tidy = true) :
    (takeLead s late p).tidy = true := by
  unfold takeLead
  try dsimp only
  repeat' first
    | with_reducible assumption | (with_reducible apply modReq_tidy) | (with_reducible apply peerAdmit_tidy)
    | (with_reducible apply tidy_foldl) | (with_reducible apply tidy_ite) | (simp only [tidy_mk])
    | (with_reducible apply parts_of) | intro _ | split

theorem takeEnds_tidy {s : State} (p : BoundaryRec) (hs : s.tidy = true) :
    (takeEnds s p).tidy = true := by
  unfold takeEnds
  try dsimp only
  repeat' first
    | with_reducible assumption | (with_reducible apply modReq_tidy) | (with_reducible apply tidy_foldl)
    | (simp only [tidy_mk]) | (with_reducible apply parts_of) | intro _ | split

theorem modRecord_tidy {s : State} (n : Nat) (f : BoundaryRec → BoundaryRec) (hs : s.tidy = true) :
    (modRecord s n f).tidy = true := by
  unfold modRecord
  try dsimp only
  repeat' first
    | with_reducible assumption | (with_reducible apply tidy_ite) | (simp only [tidy_mk]) | (with_reducible apply parts_of)
    | intro _ | split

theorem startRecords_tidy {s : State} (hs : s.tidy = true) :
    (startRecords s).tidy = true := by
  unfold startRecords
  try dsimp only
  repeat' first
    | with_reducible assumption | (with_reducible apply record_tidy) | (with_reducible apply accepted_tidy)
    | (with_reducible apply tidy_foldl) | (with_reducible apply tidy_ite) | (simp only [tidy_mk])
    | (with_reducible apply parts_of) | intro _ | split

theorem noteEnds_tidy {s : State} (hs : s.tidy = true) :
    (noteEnds s).tidy = true := by
  unfold noteEnds
  try dsimp only
  repeat' first
    | with_reducible assumption | (with_reducible apply modRecord_tidy) | (with_reducible apply tidy_foldl)
    | (simp only [tidy_mk]) | (with_reducible apply parts_of) | intro _ | split

theorem noteRows_tidy {s : State} (hs : s.tidy = true) :
    (noteRows s).tidy = true := by
  unfold noteRows
  try dsimp only
  repeat' first
    | with_reducible assumption | (with_reducible apply st_tidy) | (with_reducible apply modRecord_tidy)
    | (with_reducible apply tidy_foldl) | (with_reducible apply tidy_ite) | (simp only [tidy_mk])
    | (with_reducible apply parts_of) | intro _ | split

theorem item6_tidy {s : State} (hs : s.tidy = true) :
    (item6 s).tidy = true := by
  unfold item6
  try dsimp only
  repeat' first
    | with_reducible assumption | (with_reducible apply st_tidy) | (with_reducible apply remapAll_tidy)
    | (with_reducible apply quarantineDue_tidy) | (with_reducible apply promoteGrafts_tidy)
    | (with_reducible apply beginRemovals_tidy) | (simp only [tidy_mk]) | (with_reducible apply parts_of) | intro _ | split

theorem rollBack_tidy {s : State} (st : Step) (hs : s.tidy = true) :
    (rollBack s st).tidy = true := by
  unfold rollBack
  try dsimp only
  repeat' first
    | with_reducible assumption | (with_reducible apply modReq_tidy) | (with_reducible apply setCommit_tidy)
    | (with_reducible apply tidy_foldl) | (with_reducible apply tidy_ite) | intro _ | split

theorem commitStep_tidy {s : State} (st : Step) (hs : s.tidy = true) :
    (commitStep s st).tidy = true := by
  unfold commitStep
  try dsimp only
  repeat' first
    | with_reducible assumption | (with_reducible apply modReq_tidy) | (with_reducible apply tidy_foldl)
    | (with_reducible apply tidy_ite) | (simp only [tidy_mk]) | (with_reducible apply parts_of) | intro _ | split

theorem acceptPages_tidy {s : State} (q new : Request) (hs : s.tidy = true) :
    (acceptPages s q new).tidy = true := by
  unfold acceptPages
  try dsimp only
  repeat' first
    | with_reducible assumption | (with_reducible apply dropEntry_tidy) | (with_reducible apply setCommit_tidy)
    | (with_reducible apply tidy_foldl) | (with_reducible apply tidy_ite) | intro _ | split

theorem acceptEnd_tidy {s : State} (t k : Nat) (a : Request) (hs : s.tidy = true) :
    (acceptEnd s t k a).tidy = true := by
  unfold acceptEnd
  try dsimp only
  repeat' first
    | with_reducible assumption | (with_reducible apply setReq_tidy) | (with_reducible apply modReq_tidy)
    | (with_reducible apply missEnd_tidy) | (with_reducible apply tidy_ite) | (simp only [tidy_mk])
    | (with_reducible apply parts_of) | intro _ | split

theorem item9_tidy {s : State} (t : Nat) (hs : s.tidy = true) :
    (item9 s t).tidy = true := by
  unfold item9
  try dsimp only
  repeat' first
    | with_reducible assumption | (with_reducible apply acceptPages_tidy) | (with_reducible apply acceptEnd_tidy)
    | (with_reducible apply tidy_foldl) | (with_reducible apply tidy_ite) | intro _ | split

theorem settleStep_tidy {s : State} (t : Nat) (hs : s.tidy = true) :
    (settleStep s t).tidy = true := by
  unfold settleStep
  try dsimp only
  repeat' first
    | with_reducible assumption | (with_reducible apply st_tidy) | (with_reducible apply writeLog_tidy)
    | (with_reducible apply rollBack_tidy) | (with_reducible apply commitStep_tidy) | (with_reducible apply item9_tidy)
    | (with_reducible apply tidy_foldl) | (with_reducible apply tidy_ite) | (simp only [tidy_mk])
    | (with_reducible apply parts_of) | intro _ | split

theorem leaveReqs_tidy {s : State} (hs : s.tidy = true) :
    (leaveReqs s).tidy = true := by
  unfold leaveReqs
  try dsimp only
  repeat' first
    | with_reducible assumption | (with_reducible apply finishAll_tidy) | (with_reducible apply modAllReqs_tidy) | intro _
    | split

theorem leave_tidy {s : State} (hs : s.tidy = true) :
    (leave s).tidy = true := by
  unfold leave
  try dsimp only
  repeat' first
    | with_reducible assumption | (with_reducible apply freeIdle_tidy) | (with_reducible apply freeGrafts_tidy)
    | (with_reducible apply endRemovals_tidy) | (with_reducible apply endCloses_tidy) | (with_reducible apply leaveReqs_tidy)
    | intro _ | split

theorem newTable_tidy {s t : State} {k : Nat} {q : Request} (e : newTable s k q = some t) (h : s.tidy = true) : t.tidy = true := by
  unfold newTable at e
  simp only [Option.bind_eq_some_iff, Option.map_eq_some_iff] at e
  obtain ⟨x, hx, y, hy, e⟩ := e
  rw [← e]
  have h1 : y.2.tidy = true := takeRun_tidy (b := y.1) (t := y.2) hy (takeRun_tidy (b := x.1) (t := x.2) hx h)
  have h2 : ∀ f : Option (Nat × State), (∀ z, f = some z → z.2.tidy = true) → (match f with
      | some z => z.2
      | none => y.2).tidy = true := by
    intro f hf
    cases f with
    | none => exact h1
    | some z => exact hf z rfl
  refine writeLog_tidy _ (setReq_tidy _ _ (charge_tidy _ _ _ (st_tidy (h2 _ ?_) _ _ _)))
  intro z hz
  split at hz
  · cases hz
  · exact takeRun_tidy (b := z.1) (t := z.2) hz h1

theorem reuseBlock_tidy (k : Nat) {s : State} (x : Nat × Nat) (hs : s.tidy = true) :
    (reuseBlock k s x).tidy = true := by
  unfold reuseBlock
  try dsimp only
  repeat' first
    | with_reducible assumption | (with_reducible apply modReq_tidy) | (with_reducible apply ptSet_tidy)
    | (with_reducible apply addRef_tidy) | (with_reducible apply modPfx_tidy) | (with_reducible apply tidy_foldl)
    | (simp only [tidy_mk]) | (with_reducible apply parts_of) | intro _ | split

theorem admitOne_tidy (peers : List BoundaryRec) {s : State} (k : Nat) (hs : s.tidy = true) :
    (admitOne peers s k).tidy = true := by
  unfold admitOne
  try dsimp only
  repeat' first
    | with_reducible assumption | (with_reducible apply bump64_tidy) | (with_reducible apply modReq_tidy)
    | (with_reducible apply probe_tidy) | (with_reducible refine probe_tidy_eq (by with_reducible assumption) ?_)
    | (with_reducible refine preemptUntil_tidy (by with_reducible assumption) ?_)
    | (with_reducible refine preemptUntil_getD ?_) | (with_reducible apply park_tidy) | (with_reducible apply modRecord_tidy)
    | (with_reducible refine newTable_tidy (by with_reducible assumption) ?_) | (with_reducible apply reuseBlock_tidy)
    | (with_reducible apply tidy_foldl) | (with_reducible apply tidy_ite) | (simp only [tidy_mk])
    | (with_reducible apply parts_of) | intro _ | split

theorem serveQueue_tidy (n : Nat) : ∀ {s : State} (peers : List BoundaryRec), s.tidy = true → (serveQueue peers s n).tidy = true := by
  induction n with
  | zero => intro s p h; exact h
  | succ n ih =>
    intro s p h
    unfold serveQueue
    try dsimp only
    repeat' first
      | with_reducible assumption | (with_reducible apply ih) | (with_reducible apply modReq_tidy)
      | (with_reducible refine preemptUntil_tidy (by with_reducible assumption) ?_)
      | (with_reducible refine preemptUntil_getD ?_) | (with_reducible apply admitOne_tidy) | (simp only [tidy_mk])
      | (with_reducible apply parts_of) | intro _ | split

theorem item15_tidy (peers : List BoundaryRec) {s : State} (hs : s.tidy = true) :
    (item15 peers s).tidy = true := by
  unfold item15
  try dsimp only
  repeat' first
    | with_reducible assumption | (with_reducible apply modReq_tidy) | (with_reducible apply admitOne_tidy)
    | (with_reducible apply serveQueue_tidy) | (with_reducible apply tidy_foldl) | (simp only [tidy_mk])
    | (with_reducible apply parts_of) | intro _ | split

theorem toItem15_tidy (peers : List BoundaryRec) {s : State} (t : Nat) (hs : s.tidy = true) :
    (toItem15 peers s t).tidy = true := by
  unfold toItem15
  try dsimp only
  repeat' first
    | with_reducible assumption | (with_reducible apply st_tidy) | (with_reducible apply registerAll_tidy)
    | (with_reducible apply settleSpills_tidy) | (with_reducible apply promoteParked_tidy)
    | (with_reducible apply settleFull_tidy) | (with_reducible apply settleLost_tidy)
    | (with_reducible apply scanDeadlines_tidy) | (with_reducible apply scanGrace_tidy) | (with_reducible apply takeLead_tidy)
    | (with_reducible apply takeEnds_tidy) | (with_reducible apply startRecords_tidy) | (with_reducible apply noteEnds_tidy)
    | (with_reducible apply item6_tidy) | (with_reducible apply settleStep_tidy) | (with_reducible apply leave_tidy)
    | (with_reducible apply item15_tidy) | (with_reducible apply tidy_foldl) | (with_reducible apply tidy_ite)
    | (simp only [tidy_mk]) | (with_reducible apply parts_of) | intro _ | split

theorem allocFor_tidy (t : Nat) {s : State} (k : Nat) (wants : List (Nat × Nat)) (hs : s.tidy = true) :
    (allocFor t s k wants).tidy = true := by
  unfold allocFor
  try dsimp only
  repeat' first
    | with_reducible assumption | (with_reducible apply modReq_tidy) | (with_reducible apply getPages_tidy)
    | (with_reducible refine getPages_tidy_eq (by with_reducible assumption) ?_) | (with_reducible apply spillFor_tidy)
    | (with_reducible apply tidy_ite) | (simp only [tidy_mk]) | (with_reducible apply parts_of) | intro _ | split

theorem allocRows_tidy {s : State} (t cls : Nat) (pick : Row → Bool) (hs : s.tidy = true) :
    (allocRows s t cls pick).tidy = true := by
  unfold allocRows
  try dsimp only
  repeat' first
    | with_reducible assumption | (with_reducible apply st_tidy) | (with_reducible apply allocFor_tidy)
    | (with_reducible apply tidy_foldl) | (with_reducible apply tidy_ite) | (simp only [tidy_mk])
    | (with_reducible apply parts_of) | intro _ | split

theorem item16_tidy {s : State} (t : Nat) (hs : s.tidy = true) :
    (item16 s t).tidy = true := by
  unfold item16
  try dsimp only
  repeat' first
    | with_reducible assumption | (with_reducible apply allocFor_tidy) | (with_reducible apply allocRows_tidy)
    | (with_reducible apply tidy_foldl) | intro _ | split

theorem item17_tidy {s : State} (pick : Row → Bool) (hs : s.tidy = true) :
    (item17 s pick).tidy = true := by
  unfold item17
  try dsimp only
  repeat' first
    | with_reducible assumption | (with_reducible apply st_tidy) | (with_reducible apply tidy_ite) | (simp only [tidy_mk])
    | (with_reducible apply parts_of) | intro _ | split

theorem writeRowRec_tidy {s : State} (d : Bytes) (base : Nat) (x : (Row × Nat) × Nat) (hs : s.tidy = true) :
    (writeRowRec s d base x).tidy = true := by
  unfold writeRowRec
  try dsimp only
  repeat' first
    | with_reducible assumption | (with_reducible apply st_tidy) | (with_reducible apply tidy_ite) | (simp only [tidy_mk])
    | (with_reducible apply parts_of) | intro _ | split

theorem writeTaskRecs_tidy {s : State} (m : Model) (g : Nat) (rows : List Row) (k : Nat) (d : Bytes) (hs : s.tidy = true) :
    (writeTaskRecs s m g rows k d).tidy = true := by
  unfold writeTaskRecs
  try dsimp only
  repeat' first
    | with_reducible assumption | (with_reducible apply st_tidy) | (with_reducible apply writeRowRec_tidy)
    | (with_reducible apply tidy_foldl) | (with_reducible apply tidy_ite) | (simp only [tidy_mk])
    | (with_reducible apply parts_of) | intro _ | split

theorem writeInstRecs_tidy (rows : List Row) {s : State} (n : Nat) (hs : s.tidy = true) :
    (writeInstRecs rows s n).tidy = true := by
  unfold writeInstRecs
  try dsimp only
  repeat' first
    | with_reducible assumption | (with_reducible apply writeTaskRecs_tidy) | (with_reducible apply tidy_foldl)
    | (simp only [tidy_mk]) | (with_reducible apply parts_of) | intro _ | split

theorem writeRecords_tidy {s : State} (hs : s.tidy = true) :
    (writeRecords s).tidy = true := by
  unfold writeRecords
  try dsimp only
  repeat' first
    | with_reducible assumption | (with_reducible apply st_tidy) | (with_reducible apply writeInstRecs_tidy)
    | (with_reducible apply tidy_foldl) | (simp only [tidy_mk]) | (with_reducible apply parts_of) | intro _ | split

theorem release_tidy {s : State} (hs : s.tidy = true) :
    (release s).tidy = true := by
  unfold release
  try dsimp only
  repeat' first
    | with_reducible assumption | (with_reducible apply wr64_tidy) | (with_reducible apply bump64_tidy)
    | (with_reducible apply st_tidy) | (with_reducible apply notifyAll_tidy) | (with_reducible apply modReq_tidy)
    | (with_reducible apply writeRecords_tidy) | (with_reducible apply tidy_foldl) | (with_reducible apply tidy_ite)
    | (simp only [tidy_mk]) | (with_reducible apply parts_of) | intro _ | split

theorem addLeadRows_tidy {s : State} (peers : List BoundaryRec) (hs : s.tidy = true) :
    (addLeadRows s peers).tidy = true := by
  unfold addLeadRows
  try dsimp only
  repeat' first
    | with_reducible assumption | (with_reducible apply st_tidy) | (with_reducible apply stepInsts_tidy)
    | (with_reducible apply formFrom_tidy) | (with_reducible apply promoteGrafts_tidy) | (with_reducible apply tidy_ite)
    | (simp only [tidy_mk]) | (with_reducible apply parts_of) | intro _ | split

theorem deadHeld_tidy {s : State} (peers : List BoundaryRec) (hs : s.tidy = true) :
    (deadHeld s peers).tidy = true := by
  unfold deadHeld
  try dsimp only
  repeat' first
    | with_reducible assumption | (with_reducible apply st_tidy) | (simp only [tidy_mk]) | (with_reducible apply parts_of)
    | intro _ | split

theorem tryRelease_tidy {s : State} (peers : List BoundaryRec) (hs : s.tidy = true) :
    (tryRelease s peers).tidy = true := by
  unfold tryRelease
  try dsimp only
  repeat' first
    | with_reducible assumption | (with_reducible apply release_tidy) | (with_reducible apply tidy_ite)
    | (simp only [tidy_mk]) | (with_reducible apply parts_of) | intro _ | split

theorem toItem18_tidy (peers : List BoundaryRec) {s : State} (t : Nat) (hs : s.tidy = true) :
    (toItem18 peers s t).tidy = true := by
  unfold toItem18
  try dsimp only
  repeat' first
    | with_reducible assumption | (with_reducible apply noteRows_tidy) | (with_reducible apply item16_tidy)
    | (with_reducible apply item17_tidy) | (with_reducible apply addLeadRows_tidy) | (with_reducible apply deadHeld_tidy)
    | (with_reducible apply tryRelease_tidy) | intro _ | split

theorem bindOffEnds_tidy {s : State} (hs : s.tidy = true) :
    (bindOffEnds s).tidy = true := by
  unfold bindOffEnds
  try dsimp only
  repeat' first
    | with_reducible assumption | (with_reducible apply modAllReqs_tidy) | (with_reducible apply tidy_ite)
    | (simp only [tidy_mk]) | (with_reducible apply parts_of) | intro _ | split

theorem maintFrom_tidy {s : State} (hs : s.tidy = true) :
    (maintFrom s).tidy = true := by
  unfold maintFrom
  try dsimp only
  repeat' first
    | with_reducible assumption | (with_reducible apply tidy_ite) | (simp only [tidy_mk]) | (with_reducible apply parts_of)
    | intro _ | split

theorem boundary_tidy {s : State} (peers : List BoundaryRec) (hs : s.tidy = true) :
    (boundary s peers).tidy = true := by
  unfold boundary
  try dsimp only
  repeat' first
    | with_reducible assumption | (with_reducible apply toItem15_tidy) | (with_reducible apply toItem18_tidy)
    | (with_reducible apply bindOffEnds_tidy) | (with_reducible apply maintFrom_tidy) | intro _ | split

theorem startHandover_tidy {s : State} (hs : s.tidy = true) :
    (startHandover s).tidy = true := by
  unfold startHandover
  try dsimp only
  repeat' first
    | with_reducible assumption | (with_reducible apply bump_tidy) | (simp only [tidy_mk]) | (with_reducible apply parts_of)
    | intro _ | split

theorem dropNext_tidy {s : State} (hs : s.tidy = true) :
    (dropNext s).tidy = true := by
  unfold dropNext
  try dsimp only
  repeat' first
    | with_reducible assumption | (with_reducible apply st_tidy) | (with_reducible apply voidRest_tidy)
    | (with_reducible apply tryComplete_tidy) | (with_reducible apply tidy_foldl) | (with_reducible apply tidy_ite)
    | (simp only [tidy_mk]) | (with_reducible apply parts_of) | intro _ | split

theorem trimReuse_tidy {s : State} (peers : List BoundaryRec) (m : Model) (x : Nat × Nat) (hs : s.tidy = true) :
    (trimReuse s peers m x).tidy = true := by
  unfold trimReuse
  try dsimp only
  repeat' first
    | with_reducible assumption | (with_reducible apply modReq_tidy) | (with_reducible apply dropEntry_tidy)
    | (with_reducible apply unholdPfx_tidy) | (with_reducible apply tidy_foldl) | (with_reducible apply tidy_ite)
    | (simp only [tidy_mk]) | (with_reducible apply parts_of) | intro _ | split

theorem trimAll_tidy {s : State} (peers : List BoundaryRec) (hs : s.tidy = true) :
    (trimAll s peers).tidy = true := by
  unfold trimAll
  try dsimp only
  repeat' first
    | with_reducible assumption | (with_reducible apply trimReuse_tidy) | (with_reducible apply tidy_foldl)
    | (simp only [tidy_mk]) | (with_reducible apply parts_of) | intro _ | split

theorem deadMoved_tidy {s : State} (peers : List BoundaryRec) (hs : s.tidy = true) :
    (deadMoved s peers).tidy = true := by
  unfold deadMoved
  try dsimp only
  repeat' first
    | with_reducible assumption | (with_reducible apply st_tidy) | (simp only [tidy_mk]) | (with_reducible apply parts_of)
    | intro _ | split

theorem exchangeArrives_tidy {s : State} (peers : List BoundaryRec) (hs : s.tidy = true) :
    (exchangeArrives s peers).tidy = true := by
  unfold exchangeArrives
  try dsimp only
  repeat' first
    | with_reducible assumption | (with_reducible apply st_tidy) | (with_reducible apply takeLead_tidy)
    | (with_reducible apply takeEnds_tidy) | (with_reducible apply admitOne_tidy) | (with_reducible apply allocRows_tidy)
    | (with_reducible apply item17_tidy) | (with_reducible apply addLeadRows_tidy) | (with_reducible apply deadHeld_tidy)
    | (with_reducible apply tryRelease_tidy) | (with_reducible apply trimAll_tidy) | (with_reducible apply deadMoved_tidy)
    | (with_reducible apply tidy_foldl) | (simp only [tidy_mk]) | (with_reducible apply parts_of) | intro _ | split

theorem stepBoundary_tidy {s : State} (peers : List BoundaryRec) (hs : s.tidy = true) :
    (stepBoundary s peers).tidy = true := by
  unfold stepBoundary
  try dsimp only
  repeat' first
    | with_reducible assumption | (with_reducible apply answerMaint_tidy) | (with_reducible apply boundary_tidy)
    | (with_reducible apply startHandover_tidy) | (with_reducible apply exchangeArrives_tidy)
    | (with_reducible apply tidy_ite) | intro _ | split

theorem stepFormOnDemand_tidy {s : State} (hs : s.tidy = true) :
    (stepFormOnDemand s).tidy = true := by
  unfold stepFormOnDemand
  try dsimp only
  repeat' first
    | with_reducible assumption | (with_reducible apply st_tidy) | (with_reducible apply formStep_tidy)
    | (with_reducible apply promoteGrafts_tidy) | (with_reducible apply toItem15_tidy) | (with_reducible apply toItem18_tidy)
    | (with_reducible apply tidy_ite) | (simp only [tidy_mk]) | (with_reducible apply parts_of) | intro _ | split

theorem idleDeadlineScan_tidy {s : State} (hs : s.tidy = true) :
    (idleDeadlineScan s).tidy = true := by
  unfold idleDeadlineScan
  try dsimp only
  repeat' first
    | with_reducible assumption | (with_reducible apply freeIdle_tidy) | (with_reducible apply scanDeadlines_tidy)
    | (with_reducible apply scanGrace_tidy) | (with_reducible apply leaveReqs_tidy) | (with_reducible apply tidy_ite)
    | (simp only [tidy_mk]) | (with_reducible apply parts_of) | intro _ | split

theorem deadModel_tidy {s : State} (n : Nat) (hs : s.tidy = true) :
    (deadModel s n).tidy = true := by
  unfold deadModel
  try dsimp only
  repeat' first
    | with_reducible assumption | (with_reducible apply st_tidy) | (simp only [tidy_mk]) | (with_reducible apply parts_of)
    | intro _ | split

theorem exchangeTimeout_tidy {s : State} (n : Nat) (hs : s.tidy = true) :
    (exchangeTimeout s n).tidy = true := by
  unfold exchangeTimeout
  try dsimp only
  repeat' first
    | with_reducible assumption | (with_reducible apply release_tidy) | (with_reducible apply deadModel_tidy)
    | (with_reducible apply tidy_ite) | (simp only [tidy_mk]) | (with_reducible apply parts_of) | intro _ | split

theorem exchangeRetry_tidy {s : State} (n : Nat) (peers : List BoundaryRec) (ok : Bool) (hs : s.tidy = true) :
    (exchangeRetry s n peers ok).tidy = true := by
  unfold exchangeRetry
  try dsimp only
  repeat' first
    | with_reducible assumption | (with_reducible apply takeLead_tidy) | (with_reducible apply takeEnds_tidy)
    | (with_reducible apply tidy_foldl) | (with_reducible apply tidy_ite) | (simp only [tidy_mk])
    | (with_reducible apply parts_of) | intro _ | split

theorem backgroundSpill_tidy {s : State} (hs : s.tidy = true) :
    (backgroundSpill s).tidy = true := by
  unfold backgroundSpill
  try dsimp only
  repeat' first
    | with_reducible assumption | (with_reducible apply markSpill_tidy) | (with_reducible apply tidy_foldl)
    | (with_reducible apply tidy_ite) | intro _ | split

end Sys2Proof.Machine
end

