-- ==== Sys2Proof/Laws/KeepsTiers.lean ====
section
/-! SUPPORT. Tiers: every function keeps the canonical form of the memories and the registers. -/

namespace Sys2Proof.Machine

theorem haltWork_tidy {s : State} (hs : s.tidy = true) :
    (haltWork s).tidy = true := by
  unfold haltWork
  try dsimp only
  repeat' first
    | with_reducible assumption | (with_reducible apply signalTask_tidy) | (with_reducible apply modInst_tidy)
    | (with_reducible apply failInst_tidy) | (with_reducible apply tryComplete_tidy) | (with_reducible apply dropNext_tidy)
    | (with_reducible apply tidy_foldl) | (simp only [tidy_mk]) | (with_reducible apply parts_of) | intro _ | split

theorem fallFrom_tidy {s : State} (sp : Nat) (hs : s.tidy = true) :
    (fallFrom s sp).tidy = true := by
  unfold fallFrom
  try dsimp only
  repeat' first
    | with_reducible assumption | (with_reducible apply fallBack_tidy) | (with_reducible apply tidy_foldl)
    | (simp only [tidy_mk]) | (with_reducible apply parts_of) | intro _ | split

theorem endLost_tidy {s : State} (hs : s.tidy = true) :
    (endLost s).tidy = true := by
  unfold endLost
  try dsimp only
  repeat' first
    | with_reducible assumption | (with_reducible apply modReq_tidy) | (with_reducible apply dropRef_tidy)
    | (with_reducible apply tidy_foldl) | (with_reducible apply tidy_ite) | (simp only [tidy_mk])
    | (with_reducible apply parts_of) | intro _ | split

theorem remakeTable_tidy {s : State} (k : Nat) (es : List (Nat × Nat × Nat)) (hs : s.tidy = true) :
    (remakeTable s k es).tidy = true := by
  unfold remakeTable
  try dsimp only
  repeat' first
    | with_reducible assumption | (with_reducible apply modReq_tidy) | (with_reducible apply ptSet_tidy)
    | (with_reducible apply dropLog_tidy) | (with_reducible refine newTable_tidy (by with_reducible assumption) ?_)
    | (with_reducible apply tidy_foldl) | (with_reducible apply tidy_ite) | (simp only [tidy_mk])
    | (with_reducible apply parts_of) | intro _ | split

theorem dropStaged_tidy {s : State} (hs : s.tidy = true) :
    (dropStaged s).tidy = true := by
  unfold dropStaged
  try dsimp only
  repeat' first
    | with_reducible assumption | (with_reducible apply fail_tidy) | (with_reducible apply tidy_foldl) | (simp only [tidy_mk])
    | (with_reducible apply parts_of) | intro _ | split

theorem cancelActivation_tidy {s : State} (hs : s.tidy = true) :
    (cancelActivation s).tidy = true := by
  unfold cancelActivation
  try dsimp only
  repeat' first
    | with_reducible assumption | (with_reducible apply record_tidy) | (with_reducible apply tidy_ite) | (simp only [tidy_mk])
    | (with_reducible apply parts_of) | intro _ | split

theorem restoreOne_tidy {s : State} (x : (Nat × Nat) × (Nat × Nat)) (hs : s.tidy = true) :
    (restoreOne s x).tidy = true := by
  unfold restoreOne
  try dsimp only
  repeat' first
    | with_reducible assumption | (with_reducible apply charge_tidy) | (with_reducible apply grantBlock_tidy)
    | (with_reducible apply firmCopy_tidy) | (with_reducible apply tidy_foldl) | intro _ | split

theorem restoreModel_tidy {s : State} (x : Nat × List (Nat × Nat)) (hs : s.tidy = true) :
    (restoreModel s x).tidy = true := by
  unfold restoreModel
  try dsimp only
  repeat' first
    | with_reducible assumption | (with_reducible apply readUe_tidy) | (with_reducible apply dropMirror_tidy)
    | (with_reducible apply modAllReqs_tidy) | (with_reducible apply restoreOne_tidy) | (with_reducible apply tidy_foldl)
    | (with_reducible apply tidy_ite) | (simp only [tidy_mk]) | (with_reducible apply parts_of) | intro _ | split

theorem restoreGraft_tidy {s : State} (i : Nat) (g : Graft) (hs : s.tidy = true) :
    (restoreGraft s i g).tidy = true := by
  unfold restoreGraft
  try dsimp only
  repeat' first
    | with_reducible assumption | (with_reducible apply charge_tidy) | (with_reducible apply put1_tidy)
    | (with_reducible apply firmCopy_tidy) | (with_reducible apply tidy_ite) | (simp only [tidy_mk])
    | (with_reducible apply parts_of) | intro _ | split

theorem shadowGone_tidy {s : State} (dev : Nat) (hs : s.tidy = true) :
    (shadowGone s dev).tidy = true := by
  unfold shadowGone
  try dsimp only
  repeat' first
    | with_reducible assumption | (with_reducible apply setFld_tidy) | (with_reducible apply record_tidy)
    | (with_reducible apply tidy_foldl) | (with_reducible apply tidy_ite) | intro _ | split

theorem tilesLost_tidy {s : State} (lg : Nat) (hs : s.tidy = true) :
    (tilesLost s lg).tidy = true := by
  unfold tilesLost
  try dsimp only
  repeat' first
    | with_reducible assumption | (with_reducible apply markBad_tidy) | (with_reducible apply tidy_foldl) | intro _ | split

theorem shadowBack_tidy {s : State} (hs : s.tidy = true) :
    (shadowBack s).tidy = true := by
  unfold shadowBack
  try dsimp only
  repeat' first
    | with_reducible assumption | (with_reducible apply shadowRebuild_tidy) | (with_reducible apply tilesLost_tidy)
    | (with_reducible apply tidy_foldl) | (with_reducible apply tidy_ite) | intro _ | split

theorem copyImage_tidy {s : State} (bank sp a : Nat) (h : s.tidy = true) : (copyImage s bank sp a).tidy = true := by
  have hw : (wipeRange s sp a (bankSize 2)).tidy = true := wipeRange_tidy h sp a _
  have hx := cellsWf_pokeAll (l := bankMem (wipeRange s sp a (bankSize 2)) bank) (fun c => a + c.1) (fun c => c.2) (wf_memOf hw sp)
  exact tidy_setMem hw sp hx (setMem (wipeRange s sp a (bankSize 2)).mem sp
    ((bankMem (wipeRange s sp a (bankSize 2)) bank).foldl (fun m x => poke m (a + x.1) x.2) (memOf (wipeRange s sp a (bankSize 2)).mem sp))).bad

theorem runningBack_tidy {s : State} (hs : s.tidy = true) :
    (runningBack s).tidy = true := by
  unfold runningBack
  try dsimp only
  repeat' first
    | with_reducible assumption | (with_reducible apply charge_tidy) | (with_reducible apply copyImage_tidy)
    | (with_reducible apply tidy_ite) | intro _ | split

theorem setStacks_tidy {s : State} (l : List Nat) (hs : s.tidy = true) :
    (setStacks s l).tidy = true := by
  unfold setStacks
  try dsimp only
  repeat' first
    | with_reducible assumption | (with_reducible apply wr_tidy) | intro _ | split

theorem scaleRates_tidy {s : State} (old new : Nat) (hs : s.tidy = true) :
    (scaleRates s old new).tidy = true := by
  unfold scaleRates
  try dsimp only
  repeat' first
    | with_reducible assumption | (with_reducible apply wr_tidy) | (with_reducible apply tidy_foldl) | intro _ | split

theorem zeroNear_tidy {s : State} (hs : s.tidy = true) :
    (zeroNear s).tidy = true := by
  unfold zeroNear
  try dsimp only
  repeat' first
    | with_reducible assumption | (with_reducible apply tidy_ite) | (simp only [tidy_mk]) | (with_reducible apply parts_of)
    | (with_reducible apply parts_mk) | (with_reducible refine Kept.mk ?_ ?_ ?_ ?_ ?_) | (with_reducible apply wf_commons)
    | (with_reducible apply wf_near) | (with_reducible apply wf_far) | (with_reducible apply wf_slices)
    | (with_reducible apply wf_regs) | (with_reducible exact cellsWf_nil) | (with_reducible apply cellsWf_filter)
    | (with_reducible apply cellsWf_pokeAll) | intro _ | split

theorem rebuildNear_tidy {s : State} (l : List Nat) (dev : Nat) (hs : s.tidy = true) :
    (rebuildNear s l dev).tidy = true := by
  unfold rebuildNear
  try dsimp only
  repeat' first
    | with_reducible assumption | (with_reducible apply wr_tidy) | (with_reducible apply notifyAll_tidy)
    | (with_reducible apply deviceCommit_tidy) | (with_reducible apply freeIdle_tidy) | (with_reducible apply purgePfx_tidy)
    | (with_reducible apply tokRegion_tidy) | (with_reducible apply haltWork_tidy) | (with_reducible apply fallFrom_tidy)
    | (with_reducible apply endLost_tidy) | (with_reducible apply remakeTable_tidy) | (with_reducible apply dropStaged_tidy)
    | (with_reducible apply cancelActivation_tidy) | (with_reducible apply restoreModel_tidy)
    | (with_reducible apply restoreGraft_tidy) | (with_reducible apply shadowGone_tidy)
    | (with_reducible apply shadowBack_tidy) | (with_reducible apply runningBack_tidy) | (with_reducible apply setStacks_tidy)
    | (with_reducible apply scaleRates_tidy) | (with_reducible apply zeroNear_tidy) | (with_reducible apply tidy_foldl)
    | (with_reducible apply tidy_ite) | (simp only [tidy_mk]) | (with_reducible apply parts_of) | intro _ | split

theorem loseStack_tidy {s : State} (k : Nat) (hs : s.tidy = true) :
    (loseStack s k).tidy = true := by
  unfold loseStack
  try dsimp only
  repeat' first
    | with_reducible assumption | (with_reducible apply record_tidy) | (with_reducible apply failModule_tidy)
    | (with_reducible apply rebuildNear_tidy) | (with_reducible apply tidy_ite) | intro _ | split

theorem setPackages_tidy {s : State} (l : List Nat) (hs : s.tidy = true) :
    (setPackages s l).tidy = true := by
  unfold setPackages
  try dsimp only
  repeat' first
    | with_reducible assumption | (with_reducible apply wr_tidy) | intro _ | split

theorem dropMirrors_tidy {s : State} (hs : s.tidy = true) :
    (dropMirrors s).tidy = true := by
  unfold dropMirrors
  try dsimp only
  repeat' first
    | with_reducible assumption | (with_reducible apply dropMirror_tidy) | (with_reducible apply tidy_foldl)
    | (simp only [tidy_mk]) | (with_reducible apply parts_of) | intro _ | split

theorem writeMirrors_tidy {s : State} (hs : s.tidy = true) :
    (writeMirrors s).tidy = true := by
  unfold writeMirrors
  try dsimp only
  repeat' first
    | with_reducible assumption | (with_reducible refine mirrorOf_tidy (by with_reducible assumption) ?_)
    | (with_reducible refine mirrorAll_tidy (by with_reducible assumption) ?_) | (with_reducible apply tidy_foldl)
    | (with_reducible apply tidy_ite) | (simp only [tidy_mk]) | (with_reducible apply parts_of) | intro _ | split

theorem dropFarLogs_tidy {s : State} (hs : s.tidy = true) :
    (dropFarLogs s).tidy = true := by
  unfold dropFarLogs
  try dsimp only
  repeat' first
    | with_reducible assumption | (with_reducible apply modReq_tidy) | (with_reducible apply dropLog_tidy)
    | (with_reducible apply tidy_foldl) | (simp only [tidy_mk]) | (with_reducible apply parts_of) | intro _ | split

theorem makeFarLog_tidy {s : State} (k : Nat) (q : Request) (hs : s.tidy = true) :
    (makeFarLog s k q).tidy = true := by
  unfold makeFarLog
  try dsimp only
  repeat' first
    | with_reducible assumption | (with_reducible apply st_tidy) | (with_reducible apply charge_tidy)
    | (with_reducible refine takeRun_tidy (by with_reducible assumption) ?_) | (with_reducible apply modReq_tidy)
    | (with_reducible apply tidy_ite) | (simp only [tidy_mk]) | (with_reducible apply parts_of) | intro _ | split

theorem zeroFar_tidy {s : State} (hs : s.tidy = true) :
    (zeroFar s).tidy = true := by
  unfold zeroFar
  try dsimp only
  repeat' first
    | with_reducible assumption | (with_reducible apply tidy_ite) | (simp only [tidy_mk]) | (with_reducible apply parts_of)
    | (with_reducible apply parts_mk) | (with_reducible refine Kept.mk ?_ ?_ ?_ ?_ ?_) | (with_reducible apply wf_commons)
    | (with_reducible apply wf_near) | (with_reducible apply wf_far) | (with_reducible apply wf_slices)
    | (with_reducible apply wf_regs) | (with_reducible exact cellsWf_nil) | (with_reducible apply cellsWf_filter)
    | (with_reducible apply cellsWf_pokeAll) | intro _ | split

theorem losePackage_tidy {s : State} (k : Nat) (hs : s.tidy = true) :
    (losePackage s k).tidy = true := by
  unfold losePackage
  try dsimp only
  repeat' first
    | with_reducible assumption | (with_reducible apply notifyAll_tidy) | (with_reducible apply record_tidy)
    | (with_reducible apply freeIdle_tidy) | (with_reducible apply purgePfx_tidy) | (with_reducible apply tokRegion_tidy)
    | (with_reducible apply fallFrom_tidy) | (with_reducible apply setPackages_tidy) | (with_reducible apply dropMirrors_tidy)
    | (with_reducible apply writeMirrors_tidy) | (with_reducible apply dropFarLogs_tidy)
    | (with_reducible apply makeFarLog_tidy) | (with_reducible apply zeroFar_tidy) | (with_reducible apply tidy_foldl)
    | (with_reducible apply tidy_ite) | intro _ | split

theorem dropPackages_tidy {s : State} (hs : s.tidy = true) :
    (dropPackages s).tidy = true := by
  unfold dropPackages
  try dsimp only
  repeat' first
    | with_reducible assumption | (with_reducible apply losePackage_tidy) | (simp only [tidy_mk])
    | (with_reducible apply parts_of) | intro _ | split

theorem scrubLine_tidy {s : State} (sp line : Nat) (e : Ecc) (hs : s.tidy = true) :
    (scrubLine s sp line e).tidy = true := by
  unfold scrubLine
  try dsimp only
  repeat' first
    | with_reducible assumption | (with_reducible apply markBad_tidy) | (with_reducible apply readUe_tidy)
    | (with_reducible apply readCe_tidy) | (with_reducible apply shadowBit_tidy) | (with_reducible apply tidy_ite)
    | (simp only [tidy_mk]) | (with_reducible apply parts_of) | intro _ | split

theorem patrolScrub_tidy {s : State} (t : Tier) (e : Ecc) (hs : s.tidy = true) :
    (patrolScrub s t e).tidy = true := by
  unfold patrolScrub
  try dsimp only
  repeat' first
    | with_reducible assumption | (with_reducible apply dropPackages_tidy) | (with_reducible apply scrubLine_tidy)
    | (with_reducible apply tidy_ite) | (simp only [tidy_mk]) | (with_reducible apply parts_of) | intro _ | split

theorem tierWriteback_tidy {s : State} (t : Tier) (line : Nat) (hs : s.tidy = true) :
    (tierWriteback s t line).tidy = true := by
  unfold tierWriteback
  try dsimp only
  repeat' first
    | with_reducible assumption | (simp only [tidy_mk]) | (with_reducible apply parts_of) | intro _ | split

theorem channelRecal_tidy {s : State} (t : Tier) (dev chan : Nat) (ok : Bool) (hs : s.tidy = true) :
    (channelRecal s t dev chan ok).tidy = true := by
  unfold channelRecal
  try dsimp only
  repeat' first
    | with_reducible assumption | (with_reducible apply loseStack_tidy) | (with_reducible apply losePackage_tidy)
    | (with_reducible apply tidy_ite) | (simp only [tidy_mk]) | (with_reducible apply parts_of) | intro _ | split

theorem hbmQuery_tidy {s : State} (r : Req) (hs : s.tidy = true) :
    (hbmQuery s r).tidy = true := by
  unfold hbmQuery
  try dsimp only
  repeat' first
    | with_reducible assumption | (with_reducible apply replyTo_tidy) | (with_reducible apply fail_tidy)
    | (simp only [tidy_mk]) | (with_reducible apply parts_of) | intro _ | split

theorem repairRow_tidy (hard : Bool) {s : State} (r : Req) (hs : s.tidy = true) :
    (repairRow hard s r).tidy = true := by
  unfold repairRow
  try dsimp only
  repeat' first
    | with_reducible assumption | (with_reducible apply st_tidy) | (with_reducible apply fail_tidy)
    | (with_reducible apply tidy_ite) | (simp only [tidy_mk]) | (with_reducible apply parts_of) | intro _ | split

theorem commitStack_tidy {s : State} (k : Nat) (hs : s.tidy = true) :
    (commitStack s k).tidy = true := by
  unfold commitStack
  try dsimp only
  repeat' first
    | with_reducible assumption | (simp only [tidy_mk]) | (with_reducible apply parts_of) | intro _ | split

theorem commitSoft_tidy {s : State} (r : Req) (hs : s.tidy = true) :
    (commitSoft s r).tidy = true := by
  unfold commitSoft
  try dsimp only
  repeat' first
    | with_reducible assumption | (with_reducible apply replyTo_tidy) | (with_reducible apply fail_tidy)
    | (with_reducible apply commitStack_tidy) | (simp only [tidy_mk]) | (with_reducible apply parts_of) | intro _ | split

theorem testAccess_tidy {s : State} (r : Req) (hs : s.tidy = true) :
    (testAccess s r).tidy = true := by
  unfold testAccess
  try dsimp only
  repeat' first
    | with_reducible assumption | (with_reducible apply replyTo_tidy) | (with_reducible apply fail_tidy)
    | (with_reducible apply takeFree_tidy) | (with_reducible refine takeFree_tidy_eq (by with_reducible assumption) ?_)
    | (with_reducible apply tidy_ite) | (simp only [tidy_mk]) | (with_reducible apply parts_of) | intro _ | split

theorem maintEnter_tidy {s : State} (r : Req) (hs : s.tidy = true) :
    (maintEnter s r).tidy = true := by
  unfold maintEnter
  try dsimp only
  repeat' first
    | with_reducible assumption | (with_reducible apply fail_tidy) | (with_reducible apply answerMaint_tidy)
    | (simp only [tidy_mk]) | (with_reducible apply parts_of) | intro _ | split

theorem maintExit_tidy {s : State} (r : Req) (hs : s.tidy = true) :
    (maintExit s r).tidy = true := by
  unfold maintExit
  try dsimp only
  repeat' first
    | with_reducible assumption | (with_reducible apply fail_tidy) | (with_reducible apply rebuildNear_tidy)
    | (simp only [tidy_mk]) | (with_reducible apply parts_of) | intro _ | split

theorem retireStack_tidy {s : State} (r : Req) (hs : s.tidy = true) :
    (retireStack s r).tidy = true := by
  unfold retireStack
  try dsimp only
  repeat' first
    | with_reducible assumption | (with_reducible apply fail_tidy) | (with_reducible apply loseStack_tidy)
    | (simp only [tidy_mk]) | (with_reducible apply parts_of) | intro _ | split

end Sys2Proof.Machine
end

