-- ==== Sys2Proof/Laws/KeepsCaston.lean ====
section
/-! SUPPORT. Caston: every function keeps the canonical form of the memories and the registers. -/

namespace Sys2Proof.Machine

theorem applyPort_tidy {s : State} (b : Bytes) (hs : s.tidy = true) :
    (applyPort s b).tidy = true := by
  unfold applyPort
  try dsimp only
  repeat' first
    | with_reducible assumption | (with_reducible apply wr_tidy) | (with_reducible apply modCtx_tidy)
    | (with_reducible apply tidy_foldl) | (with_reducible apply tidy_ite) | (simp only [tidy_mk])
    | (with_reducible apply parts_of) | intro _ | split

theorem portStart_tidy {s : State} (up : Bool) (addr : Option Endpoint) (hs : s.tidy = true) :
    (portStart s up addr).tidy = true := by
  unfold portStart
  try dsimp only
  repeat' first
    | with_reducible assumption | (with_reducible apply setFld_tidy) | (with_reducible apply takeFree_tidy)
    | (with_reducible refine takeFree_tidy_eq (by with_reducible assumption) ?_) | (with_reducible apply takeStatic_tidy)
    | (with_reducible apply dhcpRequest_tidy) | (with_reducible apply tidy_ite) | (simp only [tidy_mk])
    | (with_reducible apply parts_of) | intro _ | split

theorem mapKind_tidy {s : State} (kind : Nat) (old : Nat → Option Nat) (hs : s.tidy = true) :
    (mapKind s kind old).tidy = true := by
  unfold mapKind
  try dsimp only
  repeat' first
    | with_reducible assumption | (with_reducible apply setUnitState_tidy) | (with_reducible apply setLogical_tidy)
    | (with_reducible apply mapUnit_tidy) | (with_reducible apply tidy_foldl) | (with_reducible apply tidy_foldl_snd)
    | (with_reducible apply tidy_foldl_fst) | (with_reducible apply tidy_ite) | (simp only [tidy_mk])
    | (with_reducible apply parts_of) | intro _ | split

theorem retireBad_tidy {s : State} (kind : Nat) (bad : List Nat) (hs : s.tidy = true) :
    (retireBad s kind bad).tidy = true := by
  unfold retireBad
  try dsimp only
  repeat' first
    | with_reducible assumption | (with_reducible apply tidy_foldl) | (with_reducible apply tidy_ite) | (simp only [tidy_mk])
    | (with_reducible apply parts_of) | intro _ | split

theorem restoreRing_tidy {s : State} (saved : List Bytes) (trip : Option Bytes) (hs : s.tidy = true) :
    (restoreRing s saved trip).tidy = true := by
  unfold restoreRing
  try dsimp only
  repeat' first
    | with_reducible assumption | (with_reducible apply pushRecord_tidy) | (with_reducible apply tidy_foldl)
    | (with_reducible apply tidy_ite) | (simp only [tidy_mk]) | (with_reducible apply parts_of) | intro _ | split

theorem wf_resetRegs : regsWf resetRegs = true := by
  unfold resetRegs
  exact regsWf_foldl rfl
theorem castBase_tidy {s : State} (c : CastOn) (_h : s.tidy = true) : (castBase s c).tidy = true := by
  have e1 : (castBase s c).regs = resetRegs := by simp only [castBase, State.reset]
  have e2 : (castBase s c).mem = { commons := [], near := [], far := [], slices := [], bad := [] } := by simp only [castBase, State.reset]
  rw [tidy_iff, e1, e2]
  exact ⟨rfl, rfl, rfl, rfl, wf_resetRegs⟩

theorem castUnits_tidy {old : State} (c : CastOn) {s : State} (hold : old.tidy = true) (hs : s.tidy = true) :
    (castUnits old c s).tidy = true := by
  unfold castUnits
  try dsimp only
  repeat' first
    | with_reducible assumption | (with_reducible apply wr_tidy) | (with_reducible apply setFld_tidy)
    | (with_reducible apply bankInfo_tidy) | (with_reducible apply replaceBank_tidy) | (with_reducible apply setStacks_tidy)
    | (with_reducible apply setPackages_tidy) | (with_reducible apply mapKind_tidy) | (with_reducible apply retireBad_tidy)
    | (with_reducible apply tidy_foldl) | (with_reducible apply tidy_ite) | (simp only [tidy_mk])
    | (with_reducible apply parts_of) | intro _ | split

theorem setBoot_tidy {s : State} (held : Bool) (hs : s.tidy = true) :
    (setBoot s held).tidy = true := by
  unfold setBoot
  try dsimp only
  repeat' first
    | with_reducible assumption | (with_reducible apply putBlock_tidy) | (with_reducible apply tidy_foldl)
    | (simp only [tidy_mk]) | (with_reducible apply parts_of) | intro _ | split

theorem startImage_tidy {s : State} (k : Nat) (i : Image) (hs : s.tidy = true) :
    (startImage s k i).tidy = true := by
  unfold startImage
  try dsimp only
  repeat' first
    | with_reducible assumption | (with_reducible apply copyImage_tidy) | (with_reducible apply setBoot_tidy)
    | (simp only [tidy_mk]) | (with_reducible apply parts_of) | intro _ | split

theorem relocate_tidy {s : State} (hs : s.tidy = true) :
    (relocate s).tidy = true := by
  unfold relocate
  try dsimp only
  repeat' first
    | with_reducible assumption | (with_reducible apply wipeRange_tidy) | (with_reducible apply charge_tidy)
    | (with_reducible apply copyImage_tidy) | (with_reducible apply setBoot_tidy) | (with_reducible apply tidy_ite)
    | (simp only [tidy_mk]) | (with_reducible apply parts_of) | intro _ | split

theorem startLinks_tidy {s : State} (hs : s.tidy = true) :
    (startLinks s).tidy = true := by
  unfold startLinks
  try dsimp only
  repeat' first
    | with_reducible assumption | (with_reducible apply bringUp_tidy) | (with_reducible apply tidy_foldl)
    | (with_reducible apply tidy_ite) | intro _ | split

theorem castFinish_tidy {s : State} (recs : List FaultRec) (hs : s.tidy = true) :
    (castFinish s recs).tidy = true := by
  unfold castFinish
  try dsimp only
  repeat' first
    | with_reducible assumption | (with_reducible apply grantRun_tidy) | (with_reducible apply notify_tidy)
    | (with_reducible apply record_tidy) | (with_reducible apply failModule_tidy) | (with_reducible apply commitCfg_tidy)
    | (with_reducible apply tokRegion_tidy) | (with_reducible apply tidy_foldl) | (with_reducible apply tidy_ite)
    | (simp only [tidy_mk]) | (with_reducible apply parts_of) | intro _ | split

theorem castStopped_tidy {s : State} (hs : s.tidy = true) :
    (castStopped s).tidy = true := by
  unfold castStopped
  try dsimp only
  repeat' first
    | with_reducible assumption | (simp only [tidy_mk]) | (with_reducible apply parts_of) | intro _ | split

theorem castOn_tidy {s : State} (c : CastOn) (hs : s.tidy = true) :
    (castOn s c).tidy = true := by
  unfold castOn
  try dsimp only
  repeat' first
    | with_reducible assumption | (with_reducible apply applyPort_tidy) | (with_reducible apply portStart_tidy)
    | (with_reducible apply restoreRing_tidy) | (with_reducible apply castBase_tidy) | (with_reducible apply castUnits_tidy)
    | (with_reducible apply startImage_tidy) | (with_reducible apply relocate_tidy) | (with_reducible apply startLinks_tidy)
    | (with_reducible apply castFinish_tidy) | (with_reducible apply castStopped_tidy) | (with_reducible apply tidy_ite)
    | (simp only [tidy_mk]) | (with_reducible apply parts_of) | intro _ | split

theorem imageRelocate_tidy {s : State} (hs : s.tidy = true) :
    (imageRelocate s).tidy = true := by
  unfold imageRelocate
  try dsimp only
  repeat' first
    | with_reducible assumption | (with_reducible apply relocate_tidy) | (with_reducible apply castFinish_tidy)
    | (with_reducible apply tidy_ite) | intro _ | split

end Sys2Proof.Machine
end

