-- ==== Sys2Proof/Laws/KeepsPower.lean ====
section
/-! SUPPORT. Power: every function keeps the canonical form of the memories and the registers. -/

namespace Sys2Proof.Machine

theorem quietBed_tidy {s : State} (b : Nat) (hs : s.tidy = true) :
    (quietBed s b).tidy = true := by
  unfold quietBed
  try dsimp only
  repeat' first
    | with_reducible assumption | (with_reducible apply setMove_tidy) | (with_reducible apply bedLost_tidy)
    | (with_reducible apply bedEnter_tidy) | (with_reducible apply tidy_ite) | (simp only [tidy_mk])
    | (with_reducible apply parts_of) | intro _ | split

theorem goQuiet_tidy {s : State} (hs : s.tidy = true) :
    (goQuiet s).tidy = true := by
  unfold goQuiet
  try dsimp only
  repeat' first
    | with_reducible assumption | (with_reducible apply quietBed_tidy) | (with_reducible apply tidy_foldl)
    | (simp only [tidy_mk]) | (with_reducible apply parts_of) | intro _ | split

theorem quietEnter_tidy {s : State} (hs : s.tidy = true) :
    (quietEnter s).tidy = true := by
  unfold quietEnter
  try dsimp only
  repeat' first
    | with_reducible assumption | (with_reducible apply goQuiet_tidy) | (with_reducible apply tidy_ite) | intro _ | split

theorem openWindow_tidy {s : State} (hs : s.tidy = true) :
    (openWindow s).tidy = true := by
  unfold openWindow
  try dsimp only
  repeat' first
    | with_reducible assumption | (simp only [tidy_mk]) | (with_reducible apply parts_of) | intro _ | split

theorem maintenanceWindow_tidy {s : State} (hs : s.tidy = true) :
    (maintenanceWindow s).tidy = true := by
  unfold maintenanceWindow
  try dsimp only
  repeat' first
    | with_reducible assumption | (with_reducible apply goQuiet_tidy) | (with_reducible apply openWindow_tidy)
    | (with_reducible apply tidy_ite) | (simp only [tidy_mk]) | (with_reducible apply parts_of) | intro _ | split

theorem quietExit_tidy {s : State} (c : WakeCause) (hs : s.tidy = true) :
    (quietExit s c).tidy = true := by
  unfold quietExit
  try dsimp only
  repeat' first
    | with_reducible assumption | (with_reducible apply wakeDevice_tidy) | (with_reducible apply openWindow_tidy)
    | (with_reducible apply tidy_ite) | (simp only [tidy_mk]) | (with_reducible apply parts_of) | intro _ | split

theorem powerOff_tidy {s : State} (h : s.tidy = true) : (powerOff s).tidy = true := by
  unfold powerOff
  dsimp only
  rw [tidy_mk]
  refine parts_mk ⟨rfl, rfl, rfl, rfl, ?_⟩
  repeat' first
    | with_reducible assumption | (with_reducible apply wr_tidy) | (with_reducible apply setFld_tidy)
    | (with_reducible apply tidy_foldl) | (simp only [tidy_mk]) | (with_reducible apply parts_of)
    | (with_reducible apply parts_mk) | (with_reducible refine Kept.mk ?_ ?_ ?_ ?_ ?_) | (with_reducible apply wf_commons)
    | (with_reducible apply wf_near) | (with_reducible apply wf_far) | (with_reducible apply wf_slices)
    | (with_reducible apply wf_regs) | (with_reducible exact cellsWf_nil) | (with_reducible apply cellsWf_filter)
    | (with_reducible apply cellsWf_pokeAll) | intro _ | split

theorem mayRemove_tidy {s : State} (hs : s.tidy = true) :
    (mayRemove s).tidy = true := by
  unfold mayRemove
  try dsimp only
  repeat' first
    | with_reducible assumption | (simp only [tidy_mk]) | (with_reducible apply parts_of) | intro _ | split

theorem saveRing_tidy {s : State} (hs : s.tidy = true) :
    (saveRing s).tidy = true := by
  unfold saveRing
  try dsimp only
  repeat' first
    | with_reducible assumption | (simp only [tidy_mk]) | (with_reducible apply parts_of) | intro _ | split

theorem resetAll_tidy {s : State} (_h : s.tidy = true) : (resetAll s).tidy = true := by
  have gen : ∀ (l : List Nat) (m : List (Nat × W32)), regsWf m = true →
      regsWf (l.foldl (fun m a => pokeReg m a (peekReg s.regs a)) m) = true := by
    intro l
    induction l with
    | nil => intro m h; exact h
    | cons a l ih => intro m h; exact ih _ (regsWf_pokeReg h _ _)
  have e1 : (resetAll s).regs = ((List.range 96).map rARRAY_MAP ++ (List.range 16).map rATTN_MAP).foldl
      (fun m a => pokeReg m a (peekReg s.regs a)) resetRegs := by simp only [resetAll, State.reset]
  have e2 : (resetAll s).mem = { commons := [], near := [], far := [], slices := [], bad := [] } := by simp only [resetAll, State.reset]
  rw [tidy_iff, e1, e2]
  exact ⟨rfl, rfl, rfl, rfl, gen _ _ wf_resetRegs⟩

theorem startBindOff_tidy {s : State} (req : Option Req) (drain : Nat) (hs : s.tidy = true) :
    (startBindOff s req drain).tidy = true := by
  unfold startBindOff
  try dsimp only
  repeat' first
    | with_reducible assumption | (with_reducible apply setFld_tidy) | (with_reducible apply wakeDevice_tidy)
    | (simp only [tidy_mk]) | (with_reducible apply parts_of) | intro _ | split

theorem endBindOff_tidy {s : State} (b : BindOff) (hs : s.tidy = true) :
    (endBindOff s b).tidy = true := by
  unfold endBindOff
  try dsimp only
  repeat' first
    | with_reducible assumption | (with_reducible apply fail_tidy) | (with_reducible apply flushSub_tidy)
    | (with_reducible apply linkDown_tidy) | (with_reducible apply portLost_tidy) | (with_reducible apply commitStack_tidy)
    | (with_reducible apply powerOff_tidy) | (with_reducible apply mayRemove_tidy) | (with_reducible apply saveRing_tidy)
    | (with_reducible apply tidy_foldl) | (simp only [tidy_mk]) | (with_reducible apply parts_of) | intro _ | split

theorem finishBindOff_tidy {s : State} (hs : s.tidy = true) :
    (finishBindOff s).tidy = true := by
  unfold finishBindOff
  try dsimp only
  repeat' first
    | with_reducible assumption | (with_reducible apply endBindOff_tidy) | (with_reducible apply tidy_ite)
    | (simp only [tidy_mk]) | (with_reducible apply parts_of) | intro _ | split

theorem drainDeadline_tidy {s : State} (hs : s.tidy = true) :
    (drainDeadline s).tidy = true := by
  unfold drainDeadline
  try dsimp only
  repeat' first
    | with_reducible assumption | (with_reducible apply failNow_tidy) | (with_reducible apply finishBindOff_tidy)
    | (with_reducible apply tidy_foldl) | (with_reducible apply tidy_ite) | (simp only [tidy_mk])
    | (with_reducible apply parts_of) | intro _ | split

theorem holdActive_tidy {s : State} (r : Req) (hs : s.tidy = true) :
    (holdActive s r).tidy = true := by
  unfold holdActive
  try dsimp only
  repeat' first
    | with_reducible assumption | (with_reducible apply setFld_tidy) | (with_reducible apply fail_tidy)
    | (with_reducible apply tidy_ite) | intro _ | split

theorem allowQuiet_tidy {s : State} (r : Req) (hs : s.tidy = true) :
    (allowQuiet s r).tidy = true := by
  unfold allowQuiet
  try dsimp only
  repeat' first
    | with_reducible assumption | (with_reducible apply setFld_tidy) | (with_reducible apply fail_tidy)
    | (with_reducible apply tidy_ite) | (simp only [tidy_mk]) | (with_reducible apply parts_of) | intro _ | split

theorem bindOff_tidy {s : State} (r : Req) (hs : s.tidy = true) :
    (bindOff s r).tidy = true := by
  unfold bindOff
  try dsimp only
  repeat' first
    | with_reducible assumption | (with_reducible apply fail_tidy) | (with_reducible apply startBindOff_tidy)
    | (with_reducible apply tidy_ite) | intro _ | split

theorem telemetry_tidy {s : State} (x : Sensors) (hs : s.tidy = true) :
    (telemetry s x).tidy = true := by
  unfold telemetry
  try dsimp only
  repeat' first
    | with_reducible assumption | (with_reducible apply wr_tidy) | (with_reducible apply wr64_tidy) | intro _ | split

theorem limitFlags_tidy {s : State} (x : Sensors) (hs : s.tidy = true) :
    (limitFlags s x).tidy = true := by
  unfold limitFlags
  try dsimp only
  repeat' first
    | with_reducible assumption | (with_reducible apply setFld_tidy) | (with_reducible apply tidy_ite) | intro _ | split

theorem throttleUpdate_tidy {s : State} (x : Sensors) (hs : s.tidy = true) :
    (throttleUpdate s x).tidy = true := by
  unfold throttleUpdate
  try dsimp only
  repeat' first
    | with_reducible assumption | (with_reducible apply setFld_tidy) | (with_reducible apply telemetry_tidy) | (with_reducible apply limitFlags_tidy)
    | (with_reducible apply tidy_ite) | (simp only [tidy_mk]) | (with_reducible apply parts_of) | intro _ | split

theorem thermalTrip_tidy {s : State} (x : Sensors) (hs : s.tidy = true) :
    (thermalTrip s x).tidy = true := by
  unfold thermalTrip
  try dsimp only
  repeat' first
    | with_reducible assumption | (with_reducible apply powerOff_tidy) | (with_reducible apply mayRemove_tidy)
    | (with_reducible apply telemetry_tidy) | (with_reducible apply tidy_ite) | (simp only [tidy_mk])
    | (with_reducible apply parts_of) | intro _ | split

theorem inputVoltage_tidy {s : State} (x : Sensors) (hs : s.tidy = true) :
    (inputVoltage s x).tidy = true := by
  unfold inputVoltage
  try dsimp only
  repeat' first
    | with_reducible assumption | (with_reducible apply setFld_tidy) | (with_reducible apply record_tidy)
    | (with_reducible apply tidy_ite) | intro _ | split

theorem powerCutoff_tidy {s : State} (c : Cutoff) (hs : s.tidy = true) :
    (powerCutoff s c).tidy = true := by
  unfold powerCutoff
  try dsimp only
  repeat' first
    | with_reducible assumption | (with_reducible apply record_tidy) | (with_reducible apply takeFree_tidy)
    | (with_reducible refine takeFree_tidy_eq (by with_reducible assumption) ?_) | (with_reducible apply powerOff_tidy)
    | (with_reducible apply mayRemove_tidy) | (with_reducible apply saveRing_tidy) | (with_reducible apply tidy_ite)
    | (simp only [tidy_mk]) | (with_reducible apply parts_of) | intro _ | split

theorem mainSwitchClose_tidy {s : State} (enMs : Nat) (precharged : Bool) (vin : Nat) (hs : s.tidy = true) :
    (mainSwitchClose s enMs precharged vin).tidy = true := by
  unfold mainSwitchClose
  try dsimp only
  repeat' first
    | with_reducible assumption | (with_reducible apply tidy_ite) | (simp only [tidy_mk]) | (with_reducible apply parts_of)
    | intro _ | split

theorem resetN_tidy {s : State} (heldUs : Nat) (released : Bool) (hs : s.tidy = true) :
    (resetN s heldUs released).tidy = true := by
  unfold resetN
  try dsimp only
  repeat' first
    | with_reducible assumption | (with_reducible apply takeFree_tidy)
    | (with_reducible refine takeFree_tidy_eq (by with_reducible assumption) ?_) | (with_reducible apply resetAll_tidy)
    | (with_reducible apply tidy_ite) | (simp only [tidy_mk]) | (with_reducible apply parts_of) | intro _ | split

theorem castRequest_tidy {s : State} (hs : s.tidy = true) :
    (castRequest s).tidy = true := by
  unfold castRequest
  try dsimp only
  repeat' first
    | with_reducible assumption | (with_reducible apply wakeDevice_tidy) | (with_reducible apply tidy_ite)
    | (simp only [tidy_mk]) | (with_reducible apply parts_of) | intro _ | split

theorem trialWatchdog_tidy {s : State} (hs : s.tidy = true) :
    (trialWatchdog s).tidy = true := by
  unfold trialWatchdog
  try dsimp only
  repeat' first
    | with_reducible assumption | (with_reducible apply resetAll_tidy) | (with_reducible apply tidy_ite)
    | (simp only [tidy_mk]) | (with_reducible apply parts_of) | intro _ | split

end Sys2Proof.Machine
end

