-- ==== Sys2Proof/Laws/KeepsTrust.lean ====
section
/-! SUPPORT. Trust: every function keeps the canonical form of the memories and the registers. -/

namespace Sys2Proof.Machine

theorem writeBank_tidy {s : State} (b o : Nat) (d : Bytes) (hs : s.tidy = true) :
    (writeBank s b o d).tidy = true := by
  unfold writeBank
  try dsimp only
  repeat' first
    | with_reducible assumption | (simp only [tidy_mk]) | (with_reducible apply parts_of) | intro _ | split

theorem unstage_tidy {s : State} (t : Nat) (hs : s.tidy = true) :
    (unstage s t).tidy = true := by
  unfold unstage
  try dsimp only
  repeat' first
    | with_reducible assumption | (simp only [tidy_mk]) | (with_reducible apply parts_of) | intro _ | split

theorem stageResult_tidy {s : State} (c : Nat) (hs : s.tidy = true) :
    (stageResult s c).tidy = true := by
  unfold stageResult
  try dsimp only
  repeat' first
    | with_reducible assumption | (with_reducible apply setFld_tidy) | intro _ | split

theorem stageEnd_tidy {s : State} (r : Req) (t : Nat) (hs : s.tidy = true) :
    (stageEnd s r t).tidy = true := by
  unfold stageEnd
  try dsimp only
  repeat' first
    | with_reducible assumption | (with_reducible apply fail_tidy) | (with_reducible apply stageResult_tidy)
    | (with_reducible apply tidy_ite) | (simp only [tidy_mk]) | (with_reducible apply parts_of) | intro _ | split

theorem fwStage_tidy {s : State} (r : Req) (hs : s.tidy = true) :
    (fwStage s r).tidy = true := by
  unfold fwStage
  try dsimp only
  repeat' first
    | with_reducible assumption | (with_reducible apply st_tidy) | (with_reducible apply fail_tidy)
    | (with_reducible apply writeBank_tidy) | (with_reducible apply unstage_tidy) | (with_reducible apply stageEnd_tidy)
    | (simp only [tidy_mk]) | (with_reducible apply parts_of) | intro _ | split

theorem stageFirst_tidy {s t : State} {r : Req} (e : stageFirst r s = .ok t) (h : s.tidy = true) : t.tidy = true := by
  unfold stageFirst at e
  dsimp only at e
  repeat' split at e
  all_goals (first | (cases e; done) | (simp only [Except.ok.injEq] at e; subst e))
  repeat' first
    | with_reducible assumption | (with_reducible apply st_tidy) | (with_reducible apply writeBank_tidy)
    | (with_reducible apply unstage_tidy) | (with_reducible apply tidy_ite) | (simp only [tidy_mk])
    | (with_reducible apply parts_of) | intro _ | split

theorem coldStart_tidy {s : State} (i : Image) (hs : s.tidy = true) :
    (coldStart s i).tidy = true := by
  unfold coldStart
  try dsimp only
  repeat' first
    | with_reducible assumption | (with_reducible apply startImage_tidy) | (with_reducible apply startLinks_tidy)
    | (simp only [tidy_mk]) | (with_reducible apply parts_of) | intro _ | split

theorem activate_tidy {s : State} (r : Req) (hs : s.tidy = true) :
    (activate s r).tidy = true := by
  unfold activate
  try dsimp only
  repeat' first
    | with_reducible assumption | (with_reducible apply charge_tidy) | (with_reducible apply fail_tidy)
    | (with_reducible apply copyImage_tidy) | (with_reducible apply coldStart_tidy) | (with_reducible apply tidy_ite)
    | (simp only [tidy_mk]) | (with_reducible apply parts_of) | intro _ | split

theorem dropInvalid_tidy {s : State} (hs : s.tidy = true) :
    (dropInvalid s).tidy = true := by
  unfold dropInvalid
  repeat' first
    | with_reducible assumption | (simp only [tidy_mk]) | (with_reducible apply parts_of)

theorem confirm_tidy {s : State} (r : Req) (hs : s.tidy = true) :
    (confirm s r).tidy = true := by
  unfold confirm
  try dsimp only
  repeat' first
    | with_reducible assumption | (with_reducible apply fail_tidy) | (with_reducible apply dropInvalid_tidy) | (with_reducible apply tidy_ite) | (simp only [tidy_mk])
    | (with_reducible apply parts_of) | intro _ | split

theorem armTrusted_tidy {s : State} (r : Req) (hs : s.tidy = true) :
    (armTrusted s r).tidy = true := by
  unfold armTrusted
  try dsimp only
  repeat' first
    | with_reducible assumption | (with_reducible apply fail_tidy) | (with_reducible apply tidy_ite) | (simp only [tidy_mk])
    | (with_reducible apply parts_of) | intro _ | split

theorem confirmTrusted_tidy {s : State} (r : Req) (hs : s.tidy = true) :
    (confirmTrusted s r).tidy = true := by
  unfold confirmTrusted
  try dsimp only
  repeat' first
    | with_reducible assumption | (with_reducible apply fail_tidy) | (with_reducible apply dropInvalid_tidy) | (with_reducible apply tidy_ite) | (simp only [tidy_mk])
    | (with_reducible apply parts_of) | intro _ | split

theorem disarmTrusted_tidy {s : State} (r : Req) (hs : s.tidy = true) :
    (disarmTrusted s r).tidy = true := by
  unfold disarmTrusted
  try dsimp only
  repeat' first
    | with_reducible assumption | (with_reducible apply fail_tidy) | (with_reducible apply tidy_ite) | (simp only [tidy_mk])
    | (with_reducible apply parts_of) | intro _ | split

theorem attestReply_tidy {s : State} (r : Req) (hs : s.tidy = true) :
    (attestReply s r).tidy = true := by
  unfold attestReply
  try dsimp only
  repeat' first
    | with_reducible assumption | (with_reducible apply replyTo_tidy) | (with_reducible apply takeFree_tidy)
    | (with_reducible refine takeFree_tidy_eq (by with_reducible assumption) ?_) | (simp only [tidy_mk])
    | (with_reducible apply parts_of) | intro _ | split

theorem attest_tidy {s : State} (r : Req) (hs : s.tidy = true) :
    (attest s r).tidy = true := by
  unfold attest
  try dsimp only
  repeat' first
    | with_reducible assumption | (with_reducible apply fail_tidy) | (with_reducible apply tidy_ite) | (simp only [tidy_mk])
    | (with_reducible apply parts_of) | intro _ | split

theorem signNext_tidy {s : State} (hs : s.tidy = true) :
    (signNext s).tidy = true := by
  unfold signNext
  try dsimp only
  repeat' first
    | with_reducible assumption | (with_reducible apply attestReply_tidy) | (simp only [tidy_mk])
    | (with_reducible apply parts_of) | intro _ | split

theorem mailboxRefused_tidy {s : State} (hs : s.tidy = true) :
    (mailboxRefused s).tidy = true := by
  unfold mailboxRefused
  try dsimp only
  repeat' first
    | with_reducible assumption | (with_reducible apply record_tidy) | intro _ | split

theorem mailboxRemap_tidy {s : State} (kind lg sp : Nat) (hs : s.tidy = true) :
    (mailboxRemap s kind lg sp).tidy = true := by
  unfold mailboxRemap
  try dsimp only
  repeat' first
    | with_reducible assumption | (with_reducible apply takeFree_tidy)
    | (with_reducible refine takeFree_tidy_eq (by with_reducible assumption) ?_) | (with_reducible apply bedToIdle_tidy)
    | (with_reducible apply setUnitState_tidy) | (with_reducible apply mailboxRefused_tidy) | (with_reducible apply tidy_ite)
    | (simp only [tidy_mk]) | (with_reducible apply parts_of) | intro _ | split

theorem mailboxRecord_tidy {s : State} (kind : Nat) (b : Bytes) (hs : s.tidy = true) :
    (mailboxRecord s kind b).tidy = true := by
  unfold mailboxRecord
  try dsimp only
  repeat' first
    | with_reducible assumption | (with_reducible apply mailboxRefused_tidy) | (with_reducible apply tidy_ite)
    | (simp only [tidy_mk]) | (with_reducible apply parts_of) | intro _ | split

theorem mailboxBank_tidy {s : State} (b q : Nat) (hs : s.tidy = true) :
    (mailboxBank s b q).tidy = true := by
  unfold mailboxBank
  try dsimp only
  repeat' first
    | with_reducible assumption | (with_reducible apply takeFree_tidy)
    | (with_reducible refine takeFree_tidy_eq (by with_reducible assumption) ?_) | (with_reducible apply bankInfo_tidy)
    | (with_reducible apply mailboxRefused_tidy) | (with_reducible apply tidy_ite)
    | (simp only [tidy_mk]) | (with_reducible apply parts_of) | intro _ | split

theorem mailboxRequest_tidy {s : State} (m : Mailbox) (hs : s.tidy = true) :
    (mailboxRequest s m).tidy = true := by
  unfold mailboxRequest
  try dsimp only
  repeat' first
    | with_reducible assumption | (with_reducible apply grantBlock_tidy) | (with_reducible apply mailboxRefused_tidy)
    | (with_reducible apply mailboxRemap_tidy) | (with_reducible apply mailboxRecord_tidy) | (with_reducible apply mailboxBank_tidy)
    | (with_reducible apply tidy_ite)
    | (simp only [tidy_mk]) | (with_reducible apply parts_of) | intro _ | split

theorem protectedAccess_tidy {s : State} (a : Access) (hs : s.tidy = true) :
    (protectedAccess s a).tidy = true := by
  unfold protectedAccess
  try dsimp only
  repeat' first
    | with_reducible assumption | (with_reducible apply bump_tidy) | (with_reducible apply record_tidy)
    | (with_reducible apply tidy_ite) | intro _ | split

end Sys2Proof.Machine
end

