-- ==== Sys2Proof/Laws/KeepsRas.lean ====
section
/-! SUPPORT. Ras: every function keeps the canonical form of the memories and the registers. -/

namespace Sys2Proof.Machine

theorem spareFails_tidy {s : State} (a : Nat) (hs : s.tidy = true) :
    (spareFails s a).tidy = true := by
  unfold spareFails
  try dsimp only
  repeat' first
    | with_reducible assumption | (with_reducible apply retireForGood_tidy) | (with_reducible apply takeSpare_tidy)
    | (with_reducible refine takeSpare_tidy_eq (by with_reducible assumption) ?_) | (with_reducible apply exhausted_tidy)
    | (with_reducible apply setRetire_tidy) | (with_reducible apply tidy_ite) | (simp only [tidy_mk])
    | (with_reducible apply parts_of) | intro _ | split

theorem arrayFaulty_tidy {s : State} (a cause : Nat) (hs : s.tidy = true) :
    (arrayFaulty s a cause).tidy = true := by
  unfold arrayFaulty
  try dsimp only
  repeat' first
    | with_reducible assumption | (with_reducible apply startRetire_tidy) | (with_reducible apply spareFails_tidy)
    | (with_reducible apply tidy_ite) | intro _ | split

theorem spareUsed_tidy {s : State} (a region : Nat) (hs : s.tidy = true) :
    (spareUsed s a region).tidy = true := by
  unfold spareUsed
  try dsimp only
  repeat' first
    | with_reducible assumption | (with_reducible apply record_tidy) | (with_reducible apply tidy_ite) | (simp only [tidy_mk])
    | (with_reducible apply parts_of) | intro _ | split

theorem rewriteRegion_tidy {s : State} (a region : Nat) (hs : s.tidy = true) :
    (rewriteRegion s a region).tidy = true := by
  unfold rewriteRegion
  try dsimp only
  repeat' first
    | with_reducible assumption | (with_reducible apply copyRange_tidy) | (with_reducible apply charge_tidy)
    | (with_reducible apply dropSliceWb_tidy) | (with_reducible apply shadowInvalid_tidy) | (with_reducible apply tidy_ite)
    | (simp only [tidy_mk]) | (with_reducible apply parts_of) | intro _ | split

theorem sliceRepair_tidy {s : State} (a region : Nat) (ue ok : Bool) (hs : s.tidy = true) :
    (sliceRepair s a region ue ok).tidy = true := by
  unfold sliceRepair
  try dsimp only
  repeat' first
    | with_reducible assumption | (with_reducible apply startRetire_tidy) | (with_reducible apply arrayFaulty_tidy)
    | (with_reducible apply spareUsed_tidy) | (with_reducible apply rewriteRegion_tidy) | (with_reducible apply tidy_ite)
    | (simp only [tidy_mk]) | (with_reducible apply parts_of) | intro _ | split

theorem withdrawRows_tidy {s : State} (b : Nat) (rows : List Nat) (hs : s.tidy = true) :
    (withdrawRows s b rows).tidy = true := by
  unfold withdrawRows
  try dsimp only
  repeat' first
    | with_reducible assumption | (with_reducible apply putBlock_tidy) | (with_reducible apply failModule_tidy)
    | (with_reducible apply tidy_foldl) | (with_reducible apply tidy_ite) | (simp only [tidy_mk])
    | (with_reducible apply parts_of) | intro _ | split

theorem bankBad_tidy {s : State} (p : Nat) (hs : s.tidy = true) :
    (bankBad s p).tidy = true := by
  unfold bankBad
  try dsimp only
  repeat' first
    | with_reducible assumption | (with_reducible apply bankInfo_tidy) | (with_reducible apply tidy_ite)
    | (simp only [tidy_mk]) | (with_reducible apply parts_of) | intro _ | split

theorem bankFails_tidy {s : State} (p cause : Nat) (other : State → Nat → State) (hs : s.tidy = true) (hother : ∀ s a, s.tidy = true → (other s a).tidy = true) :
    (bankFails s p cause other).tidy = true := by
  unfold bankFails
  try dsimp only
  repeat' first
    | with_reducible assumption | (with_reducible apply hother) | (with_reducible apply bankInfo_tidy)
    | (with_reducible apply bankBad_tidy) | (with_reducible apply tidy_ite) | (simp only [tidy_mk])
    | (with_reducible apply parts_of) | intro _ | split

theorem bankCopyComplete_tidy {s : State} (b : Nat) (hs : s.tidy = true) :
    (bankCopyComplete s b).tidy = true := by
  unfold bankCopyComplete
  try dsimp only
  repeat' first
    | with_reducible assumption | (with_reducible apply unitRetired_tidy) | (with_reducible apply bankBad_tidy)
    | (simp only [tidy_mk]) | (with_reducible apply parts_of) | intro _ | split

theorem swatchEnds_tidy {s : State} (kind a : Nat) (pass : Bool) (hs : s.tidy = true) :
    (swatchEnds s kind a pass).tidy = true := by
  unfold swatchEnds
  try dsimp only
  repeat' first
    | with_reducible assumption | (with_reducible apply record_tidy) | (with_reducible apply wipeSlice_tidy)
    | (with_reducible apply setUnitState_tidy) | (with_reducible apply retireForGood_tidy) | (with_reducible apply tidy_ite)
    | intro _ | split

theorem swatchRun_tidy {s : State} (kind a : Nat) (pass : Bool) (hs : s.tidy = true) :
    (swatchRun s kind a pass).tidy = true := by
  unfold swatchRun
  try dsimp only
  repeat' first
    | with_reducible assumption | (with_reducible apply swatchEnds_tidy) | (with_reducible apply tidy_ite) | intro _ | split

theorem marchOp_tidy (run : State → Req → State) {s : State} (r : Req) (hs : s.tidy = true) (hrun : ∀ s r, s.tidy = true → (run s r).tidy = true) :
    (marchOp run s r).tidy = true := by
  unfold marchOp
  try dsimp only
  repeat' first
    | with_reducible assumption | (with_reducible apply hrun) | (with_reducible apply fail_tidy)
    | (with_reducible apply tidy_ite) | intro _ | split

theorem repairPlace_tidy (kind n : Nat) (acc : State × Nat) (o : Nat) (h : acc.1.tidy = true) : (repairPlace kind n acc o).1.tidy = true := by
  unfold repairPlace
  repeat' first
    | with_reducible assumption | (with_reducible apply takeFree_tidy)
    | (with_reducible refine takeFree_tidy_eq (by with_reducible assumption) ?_) | (with_reducible apply spareUsed_tidy)
    | (with_reducible apply withdrawRows_tidy) | (with_reducible apply bankFails_tidy) | (with_reducible apply tidy_ite)
    | (simp only [tidy_mk]) | (with_reducible apply parts_of) | intro _ | split
theorem repairPlaces_tidy (kind n : Nat) (l : List Nat) : ∀ (acc : State × Nat), acc.1.tidy = true →
    (l.foldl (repairPlace kind n) acc).1.tidy = true := by
  induction l with
  | nil => intro acc h; exact h
  | cons a l ih => intro acc h; exact ih _ (repairPlace_tidy kind n acc a h)

theorem unrepaired_tidy {s : State} (kind n : Nat) (hs : s.tidy = true) :
    (unrepaired s kind n).tidy = true := by
  unfold unrepaired
  try dsimp only
  repeat' first
    | with_reducible assumption | (with_reducible apply arrayFaulty_tidy) | (with_reducible apply tidy_ite)
    | (simp only [tidy_mk]) | (with_reducible apply parts_of) | intro _ | split

theorem marchMarch_tidy (fails : List Nat) {s : State} (r : Req) (hs : s.tidy = true) :
    (marchMarch fails s r).tidy = true := by
  unfold marchMarch
  try dsimp only
  repeat' first
    | with_reducible assumption | (with_reducible apply fail_tidy) | (with_reducible apply record_tidy)
    | (with_reducible apply takeFree_tidy) | (with_reducible refine takeFree_tidy_eq (by with_reducible assumption) ?_)
    | (with_reducible apply wipeSlice_tidy) | (with_reducible apply repairPlaces_tidy)
    | (with_reducible apply unrepaired_tidy) | (with_reducible apply tidy_foldl) | (with_reducible apply tidy_ite)
    | (simp only [tidy_mk]) | (with_reducible apply parts_of) | intro _ | split

theorem marchSwatch_tidy (pass : Bool) {s : State} (r : Req) (hs : s.tidy = true) :
    (marchSwatch pass s r).tidy = true := by
  unfold marchSwatch
  try dsimp only
  repeat' first
    | with_reducible assumption | (with_reducible apply fail_tidy) | (with_reducible apply swatchEnds_tidy)
    | (with_reducible apply tidy_ite) | (simp only [tidy_mk]) | (with_reducible apply parts_of) | intro _ | split

theorem marchEnds_tidy {s : State} (hs : s.tidy = true) :
    (marchEnds s).tidy = true := by
  unfold marchEnds
  try dsimp only
  repeat' first
    | with_reducible assumption | (with_reducible apply replyTo_tidy) | (with_reducible apply tidy_ite)
    | (simp only [tidy_mk]) | (with_reducible apply parts_of) | intro _ | split

theorem marchRetire_tidy {s : State} (r : Req) (hs : s.tidy = true) :
    (marchRetire s r).tidy = true := by
  unfold marchRetire
  try dsimp only
  repeat' first
    | with_reducible assumption | (with_reducible apply fail_tidy) | (with_reducible apply takeFree_tidy)
    | (with_reducible refine takeFree_tidy_eq (by with_reducible assumption) ?_) | (with_reducible apply failModule_tidy)
    | (with_reducible apply startRetire_tidy) | (with_reducible apply bankFails_tidy) | (with_reducible apply tidy_ite)
    | (simp only [tidy_mk]) | (with_reducible apply parts_of) | intro _ | split

theorem marchFullNext_tidy {s : State} (r : Req) (hs : s.tidy = true) :
    (marchFullNext s r).tidy = true := by
  unfold marchFullNext
  try dsimp only
  repeat' first
    | with_reducible assumption | (with_reducible apply fail_tidy) | (with_reducible apply tidy_ite) | (simp only [tidy_mk])
    | (with_reducible apply parts_of) | intro _ | split

theorem marchStatus_tidy {s : State} (r : Req) (hs : s.tidy = true) :
    (marchStatus s r).tidy = true := by
  unfold marchStatus
  try dsimp only
  repeat' first
    | with_reducible assumption | (with_reducible apply replyTo_tidy) | intro _ | split

theorem marchBgPeriod_tidy {s : State} (r : Req) (hs : s.tidy = true) :
    (marchBgPeriod s r).tidy = true := by
  unfold marchBgPeriod
  try dsimp only
  repeat' first
    | with_reducible assumption | (with_reducible apply fail_tidy) | (with_reducible apply tidy_ite) | (simp only [tidy_mk])
    | (with_reducible apply parts_of) | intro _ | split

theorem bgFinds_tidy {s : State} (g : Nat) (repaired : Bool) (hs : s.tidy = true) :
    (bgFinds s g repaired).tidy = true := by
  unfold bgFinds
  try dsimp only
  repeat' first
    | with_reducible assumption | (with_reducible apply arrayFaulty_tidy) | (with_reducible apply spareUsed_tidy)
    | (with_reducible apply withdrawRows_tidy) | (with_reducible apply bankFails_tidy) | (with_reducible apply tidy_ite)
    | (simp only [tidy_mk]) | (with_reducible apply parts_of) | intro _ | split

theorem bgTestRegion_tidy {s : State} (fails repaired : Bool) (hs : s.tidy = true) :
    (bgTestRegion s fails repaired).tidy = true := by
  unfold bgTestRegion
  try dsimp only
  repeat' first
    | with_reducible assumption | (with_reducible apply bgFinds_tidy) | (with_reducible apply tidy_ite)
    | (simp only [tidy_mk]) | (with_reducible apply parts_of) | intro _ | split

theorem unretried_tidy {s : State} (sideB : Bool) (line : Nat) (hs : s.tidy = true) :
    (unretried s sideB line).tidy = true := by
  unfold unretried
  try dsimp only
  repeat' first
    | with_reducible assumption | (with_reducible apply tidy_ite) | (simp only [tidy_mk]) | (with_reducible apply parts_of)
    | intro _ | split

theorem commonsRetry_tidy {s : State} (line : Nat) (k : Collision) (a b : Bytes) (hs : s.tidy = true) :
    (commonsRetry s line k a b).tidy = true := by
  unfold commonsRetry
  try dsimp only
  repeat' first
    | with_reducible assumption | (with_reducible apply bump_tidy) | (with_reducible apply st_tidy)
    | (with_reducible apply unretried_tidy) | (with_reducible apply tidy_ite) | (simp only [tidy_mk])
    | (with_reducible apply parts_of) | intro _ | split

theorem faultRingSave_tidy {s : State} (hs : s.tidy = true) :
    (faultRingSave s).tidy = true := by
  unfold faultRingSave
  try dsimp only
  repeat' first
    | with_reducible assumption | (with_reducible apply saveRing_tidy) | (with_reducible apply tidy_ite)
    | (simp only [tidy_mk]) | (with_reducible apply parts_of) | intro _ | split

theorem compareCfg_tidy {s : State} (hs : s.tidy = true) :
    (compareCfg s).tidy = true := by
  unfold compareCfg
  try dsimp only
  repeat' first
    | with_reducible assumption | (with_reducible apply setFld_tidy) | (with_reducible apply bump_tidy)
    | (with_reducible apply notify_tidy) | (with_reducible apply record_tidy) | (with_reducible apply tidy_ite)
    | (simp only [tidy_mk]) | (with_reducible apply parts_of) | intro _ | split

theorem cfgScan_tidy {s : State} (hs : s.tidy = true) :
    (cfgScan s).tidy = true := by
  unfold cfgScan
  try dsimp only
  repeat' first
    | with_reducible assumption | (with_reducible apply wr_tidy) | (with_reducible apply compareCfg_tidy)
    | (with_reducible apply tidy_ite) | (simp only [tidy_mk]) | (with_reducible apply parts_of) | intro _ | split

theorem cfgHoldExpire_tidy {s : State} (hs : s.tidy = true) :
    (cfgHoldExpire s).tidy = true := by
  unfold cfgHoldExpire
  try dsimp only
  repeat' first
    | with_reducible assumption | (with_reducible apply tidy_ite) | (simp only [tidy_mk]) | (with_reducible apply parts_of)
    | intro _ | split

end Sys2Proof.Machine
end

