-- ==== Sys2Proof/Laws/KeepsHardware.lean ====
section
/-! SUPPORT. Hardware: every function keeps the canonical form of the memories and the registers. -/

namespace Sys2Proof.Machine

theorem newestRecord_tidy {s : State} (hs : s.tidy = true) :
    (newestRecord s).2.tidy = true := by
  unfold newestRecord
  try dsimp only
  repeat' first
    | with_reducible assumption | (with_reducible apply takeFree_tidy)
    | (with_reducible refine takeFree_tidy_eq (by with_reducible assumption) ?_) | (simp only [tidy_mk])
    | (with_reducible apply parts_of) | intro _ | split
theorem newestRecord_tidy_eq {s : State} {x : Bytes} {t : State} (e : newestRecord s = (x, t)) (hs : s.tidy = true) :
    t.tidy = true := by
  have := newestRecord_tidy  hs; rw [e] at this; exact this

theorem smbAnswer_tidy {s : State} (d : Bytes) (hs : s.tidy = true) :
    (smbAnswer s d).tidy = true := by
  unfold smbAnswer
  try dsimp only
  repeat' first
    | with_reducible assumption | (with_reducible apply put1_tidy) | intro _ | split

theorem smbStatus_tidy {s : State} (hs : s.tidy = true) :
    (smbStatus s).tidy = true := by
  unfold smbStatus
  try dsimp only
  repeat' first
    | with_reducible assumption | (with_reducible apply newestRecord_tidy)
    | (with_reducible refine newestRecord_tidy_eq (by with_reducible assumption) ?_) | (with_reducible apply smbAnswer_tidy)
    | (with_reducible apply tidy_ite) | (simp only [tidy_mk]) | (with_reducible apply parts_of) | intro _ | split

theorem smbTelemetry_tidy {s : State} (hs : s.tidy = true) :
    (smbTelemetry s).tidy = true := by
  unfold smbTelemetry
  try dsimp only
  repeat' first
    | with_reducible assumption | (with_reducible apply smbAnswer_tidy) | (with_reducible apply tidy_ite) | intro _ | split

theorem smbIdentity_tidy {s : State} (hs : s.tidy = true) :
    (smbIdentity s).tidy = true := by
  unfold smbIdentity
  try dsimp only
  repeat' first
    | with_reducible assumption | (with_reducible apply smbAnswer_tidy) | (with_reducible apply tidy_ite) | intro _ | split

theorem smbLastFault_tidy {s : State} (hs : s.tidy = true) :
    (smbLastFault s).tidy = true := by
  unfold smbLastFault
  try dsimp only
  repeat' first
    | with_reducible assumption | (with_reducible apply newestRecord_tidy)
    | (with_reducible refine newestRecord_tidy_eq (by with_reducible assumption) ?_) | (with_reducible apply smbAnswer_tidy)
    | (with_reducible apply tidy_ite) | intro _ | split

theorem smbBindOff_tidy {s : State} (hs : s.tidy = true) :
    (smbBindOff s).tidy = true := by
  unfold smbBindOff
  try dsimp only
  repeat' first
    | with_reducible assumption | (with_reducible apply startBindOff_tidy) | (with_reducible apply tidy_ite) | intro _ | split

theorem tapLoad_tidy {s : State} (ir : Nat) (hs : s.tidy = true) :
    (tapLoad s ir).tidy = true := by
  unfold tapLoad
  try dsimp only
  repeat' first
    | with_reducible assumption | (simp only [tidy_mk]) | (with_reducible apply parts_of) | intro _ | split

theorem tapOut_tidy {s : State} (n v : Nat) (hs : s.tidy = true) :
    (tapOut s n v).tidy = true := by
  unfold tapOut
  try dsimp only
  repeat' first
    | with_reducible assumption | (with_reducible apply put1_tidy) | intro _ | split

theorem tapBypass_tidy {s : State} (hs : s.tidy = true) :
    (tapBypass s).tidy = true := by
  unfold tapBypass
  try dsimp only
  repeat' first
    | with_reducible assumption | (with_reducible apply tapOut_tidy) | intro _ | split

theorem tapFree_tidy {s : State} (hs : s.tidy = true) :
    (tapFree s).tidy = true := by
  unfold tapFree
  try dsimp only
  repeat' first
    | with_reducible assumption | (with_reducible apply takeFree_tidy)
    | (with_reducible refine takeFree_tidy_eq (by with_reducible assumption) ?_) | (with_reducible apply tapOut_tidy)
    | intro _ | split

theorem boundaryFree_tidy {s : State} (hs : s.tidy = true) :
    (boundaryFree s).tidy = true := by
  unfold boundaryFree
  try dsimp only
  repeat' first
    | with_reducible assumption | (with_reducible apply takeFree_tidy)
    | (with_reducible refine takeFree_tidy_eq (by with_reducible assumption) ?_) | (with_reducible apply boundary_tidy)
    | (simp only [tidy_mk]) | (with_reducible apply parts_of) | intro _ | split

theorem inReset_tidy {s : State} (act : State → State) (hs : s.tidy = true) (hact : ∀ s, s.tidy = true → (act s).tidy = true) :
    (inReset s act).tidy = true := by
  unfold inReset
  try dsimp only
  repeat' first
    | with_reducible assumption | (with_reducible apply hact) | (with_reducible apply tapBypass_tidy)
    | (with_reducible apply tidy_ite) | intro _ | split

theorem hbmSelect_tidy {s : State} (hs : s.tidy = true) :
    (hbmSelect s).tidy = true := by
  unfold hbmSelect
  try dsimp only
  repeat' first
    | with_reducible assumption | (with_reducible apply takeFree_tidy)
    | (with_reducible refine takeFree_tidy_eq (by with_reducible assumption) ?_) | (with_reducible apply tapOut_tidy)
    | (simp only [tidy_mk]) | (with_reducible apply parts_of) | intro _ | split

end Sys2Proof.Machine
end

