-- ==== Sys2Proof/Laws/KeepsSegments.lean ====
section
/-! SUPPORT. Segments: every function keeps the canonical form of the memories and the registers. -/

namespace Sys2Proof.Machine

theorem runs_nil : ∀ f ∈ ([] : List (State → Req → State)), ∀ s r, s.tidy = true → (f s r).tidy = true := by intro f hf; cases hf
theorem runs_cons {f : State → Req → State} {l : List (State → Req → State)} (hf : ∀ s r, s.tidy = true → (f s r).tidy = true)
    (hl : ∀ g ∈ l, ∀ s r, s.tidy = true → (g s r).tidy = true) : ∀ g ∈ f :: l, ∀ s r, s.tidy = true → (g s r).tidy = true := by
  intro g hg
  cases hg with
  | head => exact hf
  | tail _ h => exact hl g h
theorem byOp_tidy (op : Nat) (l : List (State → Req → State)) {s : State} (r : Req) (hs : s.tidy = true)
    (hl : ∀ f ∈ l, ∀ s r, s.tidy = true → (f s r).tidy = true) : (byOp op l s r).tidy = true := by
  unfold byOp
  split
  · rename_i f hf
    exact hl f (List.mem_of_getElem? hf) s r hs
  · exact fail_tidy _ _ _ hs

theorem marchFree_tidy {s : State} (r : Req) (hs : s.tidy = true) : (marchFree s r).tidy = true := by
  have hg : (takeFree (takeFree s).2).2.tidy = true := takeFree_tidy (takeFree_tidy hs)
  refine byOp_tidy _ _ _ hg ?_
  refine runs_cons (fun _ _ h => marchOp_tidy _ _ h fun _ _ h => marchMarch_tidy _ _ h) ?_
  refine runs_cons (fun _ _ h => marchOp_tidy _ _ h fun _ _ h => marchSwatch_tidy _ _ h) ?_
  refine runs_cons (fun _ _ h => marchOp_tidy _ _ h fun _ _ h => marchRetire_tidy _ h) ?_
  refine runs_cons (fun _ _ h => marchOp_tidy _ _ h fun _ _ h => marchFullNext_tidy _ h) ?_
  refine runs_cons (fun _ _ h => marchOp_tidy _ _ h fun _ _ h => marchStatus_tidy _ h) ?_
  exact runs_cons (fun _ _ h => marchOp_tidy _ _ h fun _ _ h => marchBgPeriod_tidy _ h) runs_nil

theorem opRun_tidy {s : State} (r : Req) (hs : s.tidy = true) : (opRun s r).tidy = true := by
  unfold opRun
  refine tidy_ite (fun _ => openContext_tidy _ hs) (fun _ => ?_)
  refine tidy_ite (fun _ => closeContext_tidy _ hs) (fun _ => ?_)
  refine tidy_ite (fun _ => queryCaps_tidy _ hs) (fun _ => ?_)
  refine tidy_ite (fun _ => writeMem_tidy _ hs) (fun _ => ?_)
  refine tidy_ite (fun _ => readMem_tidy _ hs) (fun _ => ?_)
  refine tidy_ite (fun _ => byOp_tidy _ _ _ hs (runs_cons (fun _ _ h => memGrant_tidy _ h) (runs_cons (fun _ _ h => memFree_tidy _ h) runs_nil))) (fun _ => ?_)
  refine tidy_ite (fun _ => modelInstall_tidy _ hs) (fun _ => ?_)
  refine tidy_ite (fun _ => loadWeights_tidy _ hs) (fun _ => ?_)
  refine tidy_ite (fun _ => byOp_tidy _ _ _ hs (runs_cons (fun _ _ h => graftRegister_tidy _ h) (runs_cons (fun _ _ h => graftUnregister_tidy _ h) runs_nil))) (fun _ => ?_)
  refine tidy_ite (fun _ => modelRemove_tidy _ hs) (fun _ => ?_)
  refine tidy_ite (fun _ => reqAdmit_tidy _ hs) (fun _ => ?_)
  refine tidy_ite (fun _ => tidy_ite (fun _ => reqAppendDraft_tidy _ hs) (fun _ => reqAppend_tidy _ hs)) (fun _ => ?_)
  refine tidy_ite (fun _ => reqPrune_tidy _ hs) (fun _ => ?_)
  refine tidy_ite (fun _ => reqAccept_tidy _ hs) (fun _ => ?_)
  refine tidy_ite (fun _ => reqQuery_tidy _ hs) (fun _ => ?_)
  refine tidy_ite (fun _ => byOp_tidy _ _ _ hs (runs_cons (fun _ _ h => submitGraph_tidy _ h) (runs_cons (fun _ _ h => submitInstalled_tidy _ h) runs_nil))) (fun _ => ?_)
  refine tidy_ite (fun _ => syncWait_tidy _ hs) (fun _ => ?_)
  refine tidy_ite (fun _ => byOp_tidy _ _ _ hs (runs_cons (fun _ _ h => syncSignal_tidy _ _ h fun _ _ _ h => addCtr_tidy _ _ h) (runs_cons (fun _ _ h => syncSignal_tidy _ _ h fun _ _ _ h => setCtr_tidy _ _ h) runs_nil))) (fun _ => ?_)
  refine tidy_ite (fun _ => byOp_tidy _ _ _ hs (runs_cons (fun _ _ h => syncAlloc_tidy _ h) (runs_cons (fun _ _ h => syncFree_tidy _ h) runs_nil))) (fun _ => ?_)
  refine tidy_ite (fun _ => regRead_tidy _ hs) (fun _ => ?_)
  refine tidy_ite (fun _ => regWrite_tidy _ hs) (fun _ => ?_)
  refine tidy_ite (fun _ => byOp_tidy _ _ _ hs (runs_cons (fun _ _ h => cfgCommit_tidy _ h) (runs_cons (fun _ _ h => cfgCommitRef_tidy _ h) runs_nil))) (fun _ => ?_)
  refine tidy_ite (fun _ => tidy_ite (fun _ => linkMapAdopt_tidy _ hs) (fun _ => linkMapCommit_tidy _ hs)) (fun _ => ?_)
  refine tidy_ite (fun _ => collectiveOpen_tidy _ hs) (fun _ => ?_)
  refine tidy_ite (fun _ => collectiveClose_tidy _ hs) (fun _ => ?_)
  refine tidy_ite (fun _ => byOp_tidy _ _ _ hs (runs_cons (fun _ _ h => holdActive_tidy _ h) (runs_cons (fun _ _ h => allowQuiet_tidy _ h) (runs_cons (fun _ _ h => bindOff_tidy _ h) runs_nil)))) (fun _ => ?_)
  refine tidy_ite (fun _ => timeRead_tidy _ hs) (fun _ => ?_)
  refine tidy_ite (fun _ => marchFree_tidy _ hs) (fun _ => ?_)
  refine tidy_ite (fun _ => byOp_tidy _ _ _ hs (runs_cons (fun _ _ h => hbmQuery_tidy _ h) (runs_cons (fun _ _ h => repairRow_tidy _ _ h) (runs_cons (fun _ _ h => repairRow_tidy _ _ h) (runs_cons (fun _ _ h => commitSoft_tidy _ h) (runs_cons (fun _ _ h => testAccess_tidy _ h) (runs_cons (fun _ _ h => maintEnter_tidy _ h) (runs_cons (fun _ _ h => maintExit_tidy _ h) (runs_cons (fun _ _ h => retireStack_tidy _ h) runs_nil))))))))) (fun _ => ?_)
  refine tidy_ite (fun _ => fwStage_tidy _ hs) (fun _ => ?_)
  refine tidy_ite (fun _ => byOp_tidy _ _ _ hs (runs_cons (fun _ _ h => activate_tidy _ h) (runs_cons (fun _ _ h => confirm_tidy _ h) (runs_cons (fun _ _ h => armTrusted_tidy _ h) (runs_cons (fun _ _ h => confirmTrusted_tidy _ h) (runs_cons (fun _ _ h => disarmTrusted_tidy _ h) runs_nil)))))) (fun _ => ?_)
  refine tidy_ite (fun _ => attest_tidy _ hs) (fun _ => ?_)
  refine tidy_ite (fun _ => eventSubscribe_tidy _ hs) (fun _ => ?_)
  exact eventUnsubscribe_tidy _ hs

theorem opFirst_tidy {s t : State} {r : Req} (e : opFirst r s = .ok t) (h : s.tidy = true) : t.tidy = true := by
  unfold opFirst at e
  split at e
  · exact writeFirst_tidy e h
  · split at e
    · exact stageFirst_tidy e h
    · cases e; exact h

theorem endWith_tidy {s : State} (x : InXfer) (status : Nat) (detail : Nat) (hs : s.tidy = true) :
    (endWith s x status detail).tidy = true := by
  unfold endWith
  try dsimp only
  repeat' first
    | with_reducible assumption | (with_reducible apply fail_tidy) | (with_reducible apply endIn_tidy) | intro _ | split

theorem placeSegment_tidy {s t : State} {x : InXfer} {i : Nat} {d : Bytes} (e : placeSegment s x i d = .ok t) (h : s.tidy = true) :
    t.tidy = true := by
  unfold placeSegment at e
  dsimp only at e
  repeat' split at e
  all_goals (first | (cases e; done) | (simp only [Except.ok.injEq] at e; subst e))
  all_goals repeat' first
    | with_reducible assumption | (with_reducible apply st_tidy) | (with_reducible apply writeData_tidy)
    | (with_reducible apply writeBank_tidy) | (with_reducible apply tidy_ite) | (simp only [tidy_mk])
    | (with_reducible apply parts_of) | intro _ | split

theorem finishIn_tidy {s : State} (x : InXfer) (hs : s.tidy = true) :
    (finishIn s x).tidy = true := by
  unfold finishIn
  try dsimp only
  repeat' first
    | with_reducible assumption | (with_reducible apply fail_tidy) | (with_reducible apply endIn_tidy)
    | (with_reducible apply cmdUe_tidy) | (with_reducible apply stageEnd_tidy) | (with_reducible apply opRun_tidy)
    | (with_reducible apply endWith_tidy) | (with_reducible apply tidy_ite) | (simp only [tidy_mk])
    | (with_reducible apply parts_of) | intro _ | split

theorem takeSegment_tidy {s : State} (x : InXfer) (p : Pkt) (hs : s.tidy = true) :
    (takeSegment s x p).tidy = true := by
  unfold takeSegment
  try dsimp only
  repeat' first
    | with_reducible assumption | (with_reducible apply arrived_tidy) | (with_reducible apply sendAck_tidy)
    | (with_reducible apply putIn_tidy) | (with_reducible apply endWith_tidy)
    | (with_reducible refine placeSegment_tidy (by with_reducible assumption) ?_) | (with_reducible apply finishIn_tidy)
    | (with_reducible apply tidy_ite) | (simp only [tidy_mk]) | (with_reducible apply parts_of) | intro _ | split

theorem segArrive_tidy {s : State} (r : Req) (hs : s.tidy = true) :
    (segArrive s r).tidy = true := by
  unfold segArrive
  try dsimp only
  repeat' first
    | with_reducible assumption | (with_reducible apply takeSegment_tidy) | (with_reducible apply tidy_ite)
    | (simp only [tidy_mk]) | (with_reducible apply parts_of) | intro _ | split

theorem putOut_tidy {s : State} (x : OutXfer) (hs : s.tidy = true) :
    (putOut s x).tidy = true := by
  unfold putOut
  try dsimp only
  repeat' first
    | with_reducible assumption | (with_reducible apply tidy_ite) | (simp only [tidy_mk]) | (with_reducible apply parts_of)
    | intro _ | split

theorem dropOut_tidy {s : State} (x : OutXfer) (hs : s.tidy = true) :
    (dropOut s x).tidy = true := by
  unfold dropOut
  try dsimp only
  repeat' first
    | with_reducible assumption | (simp only [tidy_mk]) | (with_reducible apply parts_of) | intro _ | split

theorem resendSeg_tidy {s t : State} {x y : OutXfer} {i : Nat} (e : resendSeg s x i = some (t, y)) (h : s.tidy = true) : t.tidy = true := by
  unfold resendSeg at e
  dsimp only at e
  split at e
  · cases e
  · simp only [Option.some.injEq, Prod.mk.injEq] at e
    rw [← e.1]; exact sendSegment_tidy _ _ h

theorem resendAll_tidy (l : List Nat) : ∀ {s t : State} {x y : OutXfer}, resendAll s x l = some (t, y) → s.tidy = true → t.tidy = true := by
  induction l with
  | nil => intro s t x y e h; cases e; exact h
  | cons a l ih =>
    intro s t x y e h
    simp only [resendAll] at e
    split at e
    · exact ih e (resendSeg_tidy (by assumption) h)
    · cases e

theorem abandonOut_tidy {s : State} (x : OutXfer) (hs : s.tidy = true) :
    (abandonOut s x).tidy = true := by
  unfold abandonOut
  try dsimp only
  repeat' first
    | with_reducible assumption | (with_reducible apply bump64_tidy) | (with_reducible apply dropOut_tidy) | intro _ | split

theorem takeAck_tidy {s : State} (x : OutXfer) (pl : Bytes) (hs : s.tidy = true) :
    (takeAck s x pl).tidy = true := by
  unfold takeAck
  try dsimp only
  repeat' first
    | with_reducible assumption | (with_reducible apply pump_tidy) | (with_reducible apply putOut_tidy)
    | (with_reducible apply dropOut_tidy) | (with_reducible refine resendAll_tidy _ (by with_reducible assumption) ?_)
    | (with_reducible apply abandonOut_tidy) | (with_reducible apply tidy_foldl) | (with_reducible apply tidy_ite)
    | (simp only [tidy_mk]) | (with_reducible apply parts_of) | intro _ | split

theorem ackArrive_tidy {s : State} (r : Req) (hs : s.tidy = true) :
    (ackArrive s r).tidy = true := by
  unfold ackArrive
  try dsimp only
  repeat' first
    | with_reducible assumption | (with_reducible apply takeAck_tidy) | (with_reducible apply tidy_ite)
    | (simp only [tidy_mk]) | (with_reducible apply parts_of) | intro _ | split

theorem receivePkt_tidy {s : State} (r : Req) (hs : s.tidy = true) :
    (receivePkt s r).tidy = true := by
  unfold receivePkt
  try dsimp only
  repeat' first
    | with_reducible assumption | (with_reducible apply arrived_tidy) | (with_reducible apply receiveWith_tidy)
    | (with_reducible apply opRun_tidy) | (with_reducible refine opFirst_tidy (by with_reducible assumption) ?_)
    | (with_reducible apply segArrive_tidy) | (with_reducible apply ackArrive_tidy) | (with_reducible apply tidy_ite)
    | intro _ | split

theorem replayBuffer_tidy {s : State} (hs : s.tidy = true) :
    (replayBuffer s).tidy = true := by
  unfold replayBuffer
  try dsimp only
  repeat' first
    | with_reducible assumption | (with_reducible apply bufferTaken_tidy) | (with_reducible apply receivePkt_tidy)
    | (with_reducible apply tidy_foldl) | intro _ | split

theorem receiveCheckFail_tidy {s : State} (r : Req) (hs : s.tidy = true) :
    (receiveCheckFail s r).tidy = true := by
  unfold receiveCheckFail
  try dsimp only
  repeat' first
    | with_reducible assumption | (with_reducible apply receivePkt_tidy) | (with_reducible apply tidy_ite)
    | (simp only [tidy_mk]) | (with_reducible apply parts_of) | intro _ | split

theorem ackTimer_tidy {s : State} (c : Nat) (q : W32) (hs : s.tidy = true) :
    (ackTimer s c q).tidy = true := by
  unfold ackTimer
  try dsimp only
  repeat' first
    | with_reducible assumption | (with_reducible apply sendAck_tidy) | (with_reducible apply putIn_tidy)
    | (with_reducible apply tidy_ite) | (simp only [tidy_mk]) | (with_reducible apply parts_of) | intro _ | split

theorem retransmit_tidy {s : State} (c : Nat) (q : W32) (hs : s.tidy = true) :
    (retransmit s c q).tidy = true := by
  unfold retransmit
  try dsimp only
  repeat' first
    | with_reducible assumption | (with_reducible apply putOut_tidy)
    | (with_reducible refine resendAll_tidy _ (by with_reducible assumption) ?_) | (with_reducible apply abandonOut_tidy)
    | (with_reducible apply tidy_ite) | (simp only [tidy_mk]) | (with_reducible apply parts_of) | intro _ | split

theorem transferTimeout_tidy {s : State} (c : Nat) (q : W32) (hs : s.tidy = true) :
    (transferTimeout s c q).tidy = true := by
  unfold transferTimeout
  try dsimp only
  repeat' first
    | with_reducible assumption | (with_reducible apply endWith_tidy) | (with_reducible apply tidy_ite)
    | (simp only [tidy_mk]) | (with_reducible apply parts_of) | intro _ | split

theorem rateRaise_tidy {s : State} (d : Endpoint) (hs : s.tidy = true) :
    (rateRaise s d).tidy = true := by
  unfold rateRaise
  try dsimp only
  repeat' first
    | with_reducible assumption | (with_reducible apply setRate_tidy) | (with_reducible apply tidy_ite)
    | (simp only [tidy_mk]) | (with_reducible apply parts_of) | intro _ | split

end Sys2Proof.Machine
end

