-- ==== Sys2Proof/Laws/KeepsHandover.lean ====
section
/-! SUPPORT. Handover: every function keeps the canonical form of the memories and the registers. -/

namespace Sys2Proof.Machine

theorem afterHandover_tidy {s : State} (hs : s.tidy = true) :
    (afterHandover s).tidy = true := by
  unfold afterHandover
  try dsimp only
  repeat' first
    | with_reducible assumption | (with_reducible apply answerMaint_tidy) | (with_reducible apply boundary_tidy)
    | (with_reducible apply finishBindOff_tidy) | (with_reducible apply replayBuffer_tidy) | intro _ | split

theorem handoverReady_tidy {s : State} (hs : s.tidy = true) :
    (handoverReady s).tidy = true := by
  unfold handoverReady
  try dsimp only
  repeat' first
    | with_reducible assumption | (with_reducible apply notify_tidy) | (with_reducible apply answerMaint_tidy)
    | (with_reducible apply formStep_tidy) | (with_reducible apply boundary_tidy) | (with_reducible apply dropNext_tidy)
    | (with_reducible apply finishBindOff_tidy) | (with_reducible apply replayBuffer_tidy) | (simp only [tidy_mk])
    | (with_reducible apply parts_of) | intro _ | split

theorem handoverFails_tidy {s : State} (hs : s.tidy = true) :
    (handoverFails s).tidy = true := by
  unfold handoverFails
  try dsimp only
  repeat' first
    | with_reducible assumption | (with_reducible apply record_tidy) | (with_reducible apply afterHandover_tidy)
    | (simp only [tidy_mk]) | (with_reducible apply parts_of) | intro _ | split

end Sys2Proof.Machine
end

