-- ==== Sys2Proof/Laws/KeepsTransport.lean ====
section
/-! SUPPORT. Transport: every function keeps the canonical form of the memories and the registers. -/

namespace Sys2Proof.Machine

theorem portLinkUp_tidy {s : State} (an : Bool) (lanes : Nat) (hs : s.tidy = true) :
    (portLinkUp s an lanes).tidy = true := by
  unfold portLinkUp
  try dsimp only
  repeat' first
    | with_reducible assumption | (with_reducible apply setFld_tidy) | (with_reducible apply portResumes_tidy)
    | (with_reducible apply dhcpRequest_tidy) | (with_reducible apply portSettle_tidy) | (with_reducible apply tidy_ite)
    | (simp only [tidy_mk]) | (with_reducible apply parts_of) | intro _ | split

theorem hostPortDown_tidy {s : State} (hs : s.tidy = true) :
    (hostPortDown s).tidy = true := by
  unfold hostPortDown
  try dsimp only
  repeat' first
    | with_reducible assumption | (with_reducible apply record_tidy) | (with_reducible apply tidy_ite) | (simp only [tidy_mk])
    | (with_reducible apply parts_of) | intro _ | split

theorem dhcpReply_tidy {s : State} (fam addr router : Nat) (hs : s.tidy = true) :
    (dhcpReply s fam addr router).tidy = true := by
  unfold dhcpReply
  try dsimp only
  repeat' first
    | with_reducible assumption | (with_reducible apply setFld_tidy) | (with_reducible apply portResumes_tidy)
    | (with_reducible apply portSettle_tidy) | (with_reducible apply tidy_ite) | (simp only [tidy_mk])
    | (with_reducible apply parts_of) | intro _ | split

theorem lldpTransmit_tidy {s : State} (hs : s.tidy = true) :
    (lldpTransmit s).tidy = true := by
  unfold lldpTransmit
  try dsimp only
  repeat' first
    | with_reducible assumption | (with_reducible apply put1_tidy) | (with_reducible apply tidy_ite) | (simp only [tidy_mk])
    | (with_reducible apply parts_of) | intro _ | split

theorem neighborAnswer_tidy {s : State} (fam target : Nat) (asker : Endpoint) (hs : s.tidy = true) :
    (neighborAnswer s fam target asker).tidy = true := by
  unfold neighborAnswer
  try dsimp only
  repeat' first
    | with_reducible assumption | (with_reducible apply hostSend_tidy) | (with_reducible apply tidy_ite) | intro _ | split

theorem echoAnswer_tidy {s : State} (fam target : Nat) (asker : Endpoint) (data : Bytes) (hs : s.tidy = true) :
    (echoAnswer s fam target asker data).tidy = true := by
  unfold echoAnswer
  try dsimp only
  repeat' first
    | with_reducible assumption | (with_reducible apply hostSend_tidy) | (with_reducible apply tidy_ite) | intro _ | split

theorem pfcPause_tidy {s : State} (prio : Nat) (on : Bool) (hs : s.tidy = true) :
    (pfcPause s prio on).tidy = true := by
  unfold pfcPause
  try dsimp only
  repeat' first
    | with_reducible assumption | (with_reducible apply portResumes_tidy) | (with_reducible apply portSettle_tidy)
    | (with_reducible apply tidy_ite) | (simp only [tidy_mk]) | (with_reducible apply parts_of) | intro _ | split

theorem relayReply_tidy {s : State} (n : Nat) (h : Hdr) (payload : Bytes) (hs : s.tidy = true) :
    (relayReply s n h payload).tidy = true := by
  unfold relayReply
  try dsimp only
  repeat' first
    | with_reducible assumption | (with_reducible apply hostSend_tidy) | (with_reducible apply tidy_ite)
    | (simp only [tidy_mk]) | (with_reducible apply parts_of) | intro _ | split

theorem relayEvent_tidy {s : State} (n : Nat) (dst : Endpoint) (h : Hdr) (payload : Bytes) (hs : s.tidy = true) :
    (relayEvent s n dst h payload).tidy = true := by
  unfold relayEvent
  try dsimp only
  repeat' first
    | with_reducible assumption | (with_reducible apply hostSend_tidy) | (simp only [tidy_mk])
    | (with_reducible apply parts_of) | intro _ | split

theorem proxyTake_tidy {s : State} (n : Nat) (p : Pkt) (hs : s.tidy = true) :
    (proxyTake s n p).tidy = true := by
  unfold proxyTake
  try dsimp only
  repeat' first
    | with_reducible assumption | (with_reducible apply wakeDevice_tidy) | (with_reducible apply receivePkt_tidy)
    | (with_reducible apply tidy_ite) | intro _ | split

theorem proxyTimeout_tidy {s : State} (slot : Nat) (q : W32) (hs : s.tidy = true) :
    (proxyTimeout s slot q).tidy = true := by
  unfold proxyTimeout
  try dsimp only
  repeat' first
    | with_reducible assumption | (with_reducible apply bareReply_tidy) | (with_reducible apply tidy_ite)
    | (simp only [tidy_mk]) | (with_reducible apply parts_of) | intro _ | split

theorem kctFromLink_tidy {s : State} (n : Nat) (b : Bytes) (hs : s.tidy = true) :
    (kctFromLink s n b).tidy = true := by
  unfold kctFromLink
  try dsimp only
  repeat' first
    | with_reducible assumption | (with_reducible apply takeFree_tidy)
    | (with_reducible refine takeFree_tidy_eq (by with_reducible assumption) ?_) | (with_reducible apply relayReply_tidy)
    | (with_reducible apply relayEvent_tidy) | (with_reducible apply proxyTake_tidy) | (with_reducible apply tidy_ite)
    | (simp only [tidy_mk]) | (with_reducible apply parts_of) | intro _ | split

end Sys2Proof.Machine
end

