-- ==== Sys2Proof/Laws/KeepsTick.lean ====
section
/-! SUPPORT. Tick: every function keeps the canonical form of the memories and the registers. -/

namespace Sys2Proof.Machine

theorem countTick_tidy {s : State} (hs : s.tidy = true) :
    (countTick s).tidy = true := by
  unfold countTick
  try dsimp only
  repeat' first
    | with_reducible assumption | (with_reducible apply bump64_tidy) | (with_reducible apply tidy_ite) | (simp only [tidy_mk])
    | (with_reducible apply parts_of) | intro _ | split

theorem countWaits_tidy {s : State} (hs : s.tidy = true) :
    (countWaits s).tidy = true := by
  unfold countWaits
  try dsimp only
  repeat' first
    | with_reducible assumption | (with_reducible apply bump64_tidy) | (with_reducible apply countWait_tidy)
    | (with_reducible apply tidy_foldl) | (with_reducible apply tidy_ite) | intro _ | split

theorem refillTick_tidy {s : State} (hs : s.tidy = true) :
    (refillTick s).tidy = true := by
  unfold refillTick
  try dsimp only
  repeat' first
    | with_reducible assumption | (with_reducible apply refill_tidy) | (with_reducible apply tidy_foldl) | intro _ | split

theorem pumpTick_tidy {s : State} (hs : s.tidy = true) :
    (pumpTick s).tidy = true := by
  unfold pumpTick
  try dsimp only
  repeat' first
    | with_reducible assumption | (with_reducible apply pumpLink_tidy) | (with_reducible apply tidy_foldl) | intro _ | split

theorem trustTick_tidy {s : State} (hs : s.tidy = true) :
    (trustTick s).tidy = true := by
  unfold trustTick
  try dsimp only
  repeat' first
    | with_reducible assumption | (with_reducible apply takeFree_tidy)
    | (with_reducible refine takeFree_tidy_eq (by with_reducible assumption) ?_) | (with_reducible apply signNext_tidy)
    | (with_reducible apply marchEnds_tidy) | (with_reducible apply tidy_ite) | intro _ | split

theorem idleTick_tidy {s : State} (hs : s.tidy = true) :
    (idleTick s).tidy = true := by
  unfold idleTick
  try dsimp only
  repeat' first
    | with_reducible assumption | (with_reducible apply dropPackages_tidy) | (with_reducible apply countTick_tidy)
    | (with_reducible apply countWaits_tidy) | (with_reducible apply refillTick_tidy) | (with_reducible apply pumpTick_tidy)
    | (with_reducible apply trustTick_tidy) | intro _ | split

end Sys2Proof.Machine
end

