-- ==== Sys2Proof/Laws/KeepsStep.lean ====
section
/-! SUPPORT. Step: every function keeps the canonical form of the memories and the registers. -/

namespace Sys2Proof.Machine

theorem State.withFetchWord_tidy {s : State} (nbits w : Nat) (hs : s.tidy = true) :
    (State.withFetchWord s nbits w).tidy = true := by
  unfold State.withFetchWord
  try dsimp only
  repeat' first
    | with_reducible assumption | (simp only [tidy_mk]) | (with_reducible apply parts_of) | intro _ | split

end Sys2Proof.Machine
end

