-- ==== Sys2Proof/WellFormed.lean ====
section
/-! DEFINITION. Well-formed commands: every field within the width its table gives it, every instance number one that the unit
has. `exec` does not need it; it says which terms stand for something that can arrive. -/

namespace Sys2Proof

/-- An endpoint: IPv4 or IPv6, an address and a port of the family's widths (R312). -/
def Endpoint.wf (e : Endpoint) : Bool :=
  (e.fam == 4 && e.addr < 2 ^ 32 || e.fam == 6 && e.addr < 2 ^ 128) && e.port < 65536

/-- A KCT header: each field fits its bits, the reserved bits number 34 (Table 13.2). -/
def Hdr.wf (h : Hdr) : Bool :=
  h.version < 256 && h.rsv < 2 ^ 34 && h.ctx < 4096 && h.opcode < 65536 && h.status < 256 && h.detail < 256 && h.plen < 65536
  && h.segment < 65536 && h.segLast < 65536 && h.credit < 65536 && h.proxySlot < 8

/-- A received packet: its endpoint, header and destination port fit, and header and payload fit one datagram at the largest MTU
(R312, R314). -/
def Pkt.wf (p : Pkt) : Bool :=
  p.src.wf && p.dport < 65536 && p.hdr.wf && p.payload.length ≤ 9156

/-- A verdict of the symbol code names a space and a 64-bit address. -/
def Ecc.wf : Ecc → Bool
  | .clean => true
  | .corrected sp a => sp < 4 && a < 2 ^ 64
  | .uncorrectable sp a => sp < 4 && a < 2 ^ 64

/-- A packet of the trellis: its fields fit, and it carries at most 8,368 bytes in one of three classes (R353, R368, Table 14.8). -/
def CollPkt.wf (c : CollPkt) : Bool :=
  c.kind < 256 && c.hops < 32 && c.part < 8 && c.src < 256 && c.dst < 256 && c.collId < 65536 && c.inst < 2 ^ 32
  && c.pktSeq < 2 ^ 32 && c.offset < 2 ^ 32 && c.length < 2 ^ 32 && c.block < 65536 && c.phase < 256 && c.cls < 3
  && c.data.length ≤ 8368 && c.poison < 2 ^ 523

/-- An identity record's fields fit (Table 14.5). -/
def Identity.wf (i : Identity) : Bool :=
  i.boardPos < 256 && i.slot < 256 && i.link < 256 && i.variant < 256 && i.lpMin < 256 && i.lpMax < 256

/-- A control flit's fields fit (Table 14.3). -/
def CtlFlit.wf (f : CtlFlit) : Bool :=
  f.freed.length == 3 && f.linkMask < 65536 && (match f.identity with
    | some i => i.wf
    | none => true)
  && (match f.verdict with
    | some v => v.1 < 256 && v.2 < 256
    | none => true)

/-- What the sensors read fits PWR_TELEM (Table 16.12). -/
def Sensors.wf (x : Sensors) : Bool :=
  x.watts < 65536 && x.meanW < 65536 && x.vin < 65536 && x.iin < 65536 && x.tDie < 256 && x.tSram < 256 && x.tHbm < 256
  && x.energy < 2 ^ 64

/-- A cast-on's facts: one of 8 slots and 8 board positions, masks of 8 stacks and 24 packages, units that exist. -/
def CastOn.wf (c : CastOn) : Bool :=
  c.slot < 8 && c.boardPos < 8 && c.stackMask < 256 && c.pkgMask < 2 ^ 24 && c.badArrays.all (· < 104) && c.badUnits.all (· < 18)
  && c.badBanks.all (· < 132) && c.trustedOk.length == 2 && c.untrustedOk.length == 2 && c.ticks < 2 ^ 64

/-- A task of the dispatch window sits in one of 16,384 slots. -/
def slotWf (n : Nat) : Bool := n < 16384

/-- Every operand of a command lies in the range the spec gives it. -/
def Instr.wf : Instr → Bool
  | .openContext p | .closeContext p | .queryCaps p | .writeMem p | .readMem p | .memAllocGrant p | .memAllocFree p
  | .modelInstall p | .loadWeights p | .graftRegister p | .graftUnregister p | .modelRemove p | .reqAdmit p | .reqAppend p
  | .reqAppendDraft p | .reqPrune p | .reqAccept p | .reqQuery p | .submitGraph p | .submitGraphInstalled p | .syncWait p
  | .syncSignalAdd p | .syncSignalSet p | .syncAllocAllocate p | .syncAllocFree p | .regRead p | .regWrite p | .cfgCommit p
  | .cfgCommitRef p | .linkMapCommit p | .linkMapAdopt p | .collectiveOpen p | .collectiveClose p | .holdActive p
  | .allowQuiet p | .bindOff p | .timeRead p | .marchRunSwatch p _ | .marchRunRetire p | .marchRunFullNext p
  | .marchRunStatus p | .marchRunBgPeriod p | .hbmQuery p | .softRow p | .hardRow p | .commitSoft p | .testAccess p
  | .maintEnter p | .maintExit p | .retireStack p | .fwStageUntrusted p | .fwStageTrusted p | .fwStagePortConfig p
  | .activate p | .confirm p | .armTrusted p | .confirmTrusted p | .disarmTrusted p | .attest p | .eventSubscribe p
  | .eventUnsubscribe p | .transferSegment p | .ackReceive p | .proxyForward p | .receiveCheckFail p => p.wf
  | .marchRunMarch p fails => p.wf && fails.all (· < 2 ^ 25)
  | .linkCtlRetrain p n _ => p.wf && n < 11
  | .linkCtlEnable p n _ => p.wf && n < 11
  | .bedCtlWake p b _ => p.wf && b < 13
  | .bedCtlTarget p b _ => p.wf && b < 13
  | .regulatorRateWrite p res part _ => p.wf && res < 4 && part < 8
  | .ackTimer c _ | .segmentRetransmitTimer c _ | .transferTimeout c _ | .syncWaitTimeout c _ => c < 4096
  | .ecnRateRaise d => d.wf
  | .arpNeighborDiscovery f t a | .icmpEcho f t a _ => ((f == 4 && t < 2 ^ 32) || (f == 6 && t < 2 ^ 128)) && a.wf
  | .pfcPauseReceive prio _ => prio < 8
  | .proxyReply n p | .proxyLinkReceive n p | .proxyEventRelay n p => n < 7 && p.wf
  | .proxyTimeout sl _ => sl < 8
  | .dhcpReply f a r => (f == 4 && a < 2 ^ 32 && r < 2 ^ 32) || (f == 6 && a < 2 ^ 128 && r < 2 ^ 128)
  | .lldpTransmit | .hostPortDown | .taskAdmit | .taskRelease | .deadlineCheck | .demoteSchedule | .handoverReady
  | .handoverTimeout | .stepFormOnDemand | .idleDeadlineScan | .backgroundSpill | .cfgScan | .cfgHoldExpire | .imageRelocate
  | .trialWatchdog | .quietEnter | .quietWakeTimer | .maintenanceWindow | .drainDeadline | .faultRingSave | .smbStatus
  | .smbTelemetry | .smbIdentity | .smbLastFault | .smbCaston | .smbBindOff | .extest | .idcode | .samplePreload | .clamp
  | .highz | .extestPulse | .extestTrain | .hbmSel | .hbmWir | .hbmWdr | .debug | .bypass | .hostPortLinkLoss
  | .trustedCoreWatchdog => true
  | .taskComplete n | .nullTask n | .stamp n | .arrayTask n | .collectiveTimeout n => slotWf n
  | .stallDetect n => n < 2 ^ 32
  | .tileLoad a e | .actBlockFetch a e => a < 104 && e.wf
  | .sliceWriteback a l => a < 104 && a * 2 ^ 19 ≤ l && l < (a + 1) * 2 ^ 19
  | .passEnd a _ _ => a < 104
  | .creditReturn a r => a < 104 && r < 64
  | .slotReduce n _ => n < 1024
  | .repairCopyComplete n e | .shadowRebuild n e => n < 96 && e.wf
  | .swatchRun k n _ => (k == 0 && n < 104) || (k == 1 && n < 18)
  | .sliceRepair a r _ _ => a < 104 && r < 8192
  | .bankCopyComplete b => b < 128
  | .bedIdleEntry b | .bedWake b | .bedEntryComplete b => b < 13
  | .bedReloadComplete b e => b < 13 && e.wf
  | .bedTargetPolicy f => f.all (· < 13)
  | .commonsRetry l _ a b => l < 2 ^ 22 && a.length == 64 && b.length == 64
  | .bgTestRegion _ _ => true
  | .spmMerge n e | .spmGather n e | .delta n e | .lookup n e | .embed n e | .vectorConvert n e | .vectorAdd n e
  | .vectorMul n e | .rmsnorm n e | .layernorm n e | .rope n e | .vectorAct n e | .gated n e | .softmax n e
  | .vectorReduce n e | .quant n e | .vectorGraft n e | .gemm n e | .samplerTask n e | .hashTask n e | .moverCopy n e
  | .moverFill n e | .moverGather n e | .moverCompress n e | .moverTransmit n e | .attend n e _ | .attnMerge n e
  | .append n e | .demote n e | .collectiveTask n e => slotWf n && e.wf
  | .collDataReceive n c | .collAbortReceive n c => n < 11 && c.wf
  | .replyGate _ _ => true
  | .stepBoundary _ => true
  | .boundaryExchangeTimeout m => m < 16
  | .boundaryExchangeRetry m _ _ => m < 16
  | .patrolScrub _ e => e.wf
  | .tierWriteback _ _ => true
  | .channelRecal .near d c _ => d < 8 && c < 32
  | .channelRecal .far d c _ => d < 24 && c < 4
  | .stackLoss k => k < 8
  | .packageLoss k => k < 24
  | .controlFlitReceive n f => n < 11 && f.wf
  | .linkLaneLock n | .linkTrainTimeout n | .linkVerdictTimeout n | .controlFlitSlot n
  | .laneLockLoss n | .controlFlitTimeout n | .retrainFail n | .linkDownTimer n | .linkRetryTimer n => n < 11
  | .dataFlitReceive n f => n < 11 && f.bytes.length == 256
  | .retrainDone n l => n < 11 && l < 16
  | .throttleUpdate x | .thermalTrip x | .inputVoltage x => x.wf
  | .powerCutoff _ | .mainSwitchClose _ _ _ => true
  | .castOn c => c.wf
  | .resetN _ _ | .castonN _ | .quietExit _ => true
  | .mailboxRequest _ | .protectedAccess _ => true
  | .hostPortLinkUp t => t.lanes < 16

end Sys2Proof
end

