-- ==== Sys2Proof/Laws/PerInstr.lean ====
section
/-! SUPPORT. A property of each command as syntax, one lemma per constructor: a well-formed command that carries a packet of the
host port carries a well-formed one (R312, R314). -/

namespace Sys2Proof.Laws.Carried

/-- The packet of the host port that a command carries. -/
def packet : Instr → Option Pkt
  | .openContext p => some p
  | .closeContext p => some p
  | .queryCaps p => some p
  | .writeMem p => some p
  | .readMem p => some p
  | .memAllocGrant p => some p
  | .memAllocFree p => some p
  | .modelInstall p => some p
  | .loadWeights p => some p
  | .graftRegister p => some p
  | .graftUnregister p => some p
  | .modelRemove p => some p
  | .reqAdmit p => some p
  | .reqAppend p => some p
  | .reqAppendDraft p => some p
  | .reqPrune p => some p
  | .reqAccept p => some p
  | .reqQuery p => some p
  | .submitGraph p => some p
  | .submitGraphInstalled p => some p
  | .syncWait p => some p
  | .syncSignalAdd p => some p
  | .syncSignalSet p => some p
  | .syncAllocAllocate p => some p
  | .syncAllocFree p => some p
  | .regRead p => some p
  | .regWrite p => some p
  | .linkCtlRetrain p _ _ => some p
  | .linkCtlEnable p _ _ => some p
  | .bedCtlWake p _ _ => some p
  | .bedCtlTarget p _ _ => some p
  | .regulatorRateWrite p _ _ _ => some p
  | .cfgCommit p => some p
  | .cfgCommitRef p => some p
  | .linkMapCommit p => some p
  | .linkMapAdopt p => some p
  | .collectiveOpen p => some p
  | .collectiveClose p => some p
  | .holdActive p => some p
  | .allowQuiet p => some p
  | .bindOff p => some p
  | .timeRead p => some p
  | .marchRunMarch p _ => some p
  | .marchRunSwatch p _ => some p
  | .marchRunRetire p => some p
  | .marchRunFullNext p => some p
  | .marchRunStatus p => some p
  | .marchRunBgPeriod p => some p
  | .hbmQuery p => some p
  | .softRow p => some p
  | .hardRow p => some p
  | .commitSoft p => some p
  | .testAccess p => some p
  | .maintEnter p => some p
  | .maintExit p => some p
  | .retireStack p => some p
  | .fwStageUntrusted p => some p
  | .fwStageTrusted p => some p
  | .fwStagePortConfig p => some p
  | .activate p => some p
  | .confirm p => some p
  | .armTrusted p => some p
  | .confirmTrusted p => some p
  | .disarmTrusted p => some p
  | .attest p => some p
  | .eventSubscribe p => some p
  | .eventUnsubscribe p => some p
  | .transferSegment p => some p
  | .ackReceive p => some p
  | .ackTimer _ _ => none
  | .segmentRetransmitTimer _ _ => none
  | .transferTimeout _ _ => none
  | .ecnRateRaise _ => none
  | .lldpTransmit => none
  | .arpNeighborDiscovery _ _ _ => none
  | .icmpEcho _ _ _ _ => none
  | .pfcPauseReceive _ _ => none
  | .proxyForward p => some p
  | .proxyReply _ p => some p
  | .proxyTimeout _ _ => none
  | .proxyLinkReceive _ p => some p
  | .proxyEventRelay _ p => some p
  | .hostPortDown => none
  | .taskAdmit => none
  | .taskRelease => none
  | .taskComplete _ => none
  | .deadlineCheck => none
  | .syncWaitTimeout _ _ => none
  | .stallDetect _ => none
  | .nullTask _ => none
  | .stamp _ => none
  | .arrayTask _ => none
  | .tileLoad _ _ => none
  | .sliceWriteback _ _ => none
  | .actBlockFetch _ _ => none
  | .passEnd _ _ _ => none
  | .creditReturn _ _ => none
  | .slotReduce _ _ => none
  | .repairCopyComplete _ _ => none
  | .swatchRun _ _ _ => none
  | .sliceRepair _ _ _ _ => none
  | .bankCopyComplete _ => none
  | .shadowRebuild _ _ => none
  | .bedIdleEntry _ => none
  | .bedWake _ => none
  | .bedReloadComplete _ _ => none
  | .bedTargetPolicy _ => none
  | .commonsRetry _ _ _ _ => none
  | .bgTestRegion _ _ => none
  | .spmMerge _ _ => none
  | .spmGather _ _ => none
  | .delta _ _ => none
  | .lookup _ _ => none
  | .embed _ _ => none
  | .vectorConvert _ _ => none
  | .vectorAdd _ _ => none
  | .vectorMul _ _ => none
  | .rmsnorm _ _ => none
  | .layernorm _ _ => none
  | .rope _ _ => none
  | .vectorAct _ _ => none
  | .gated _ _ => none
  | .softmax _ _ => none
  | .vectorReduce _ _ => none
  | .quant _ _ => none
  | .vectorGraft _ _ => none
  | .gemm _ _ => none
  | .samplerTask _ _ => none
  | .hashTask _ _ => none
  | .moverCopy _ _ => none
  | .moverFill _ _ => none
  | .moverGather _ _ => none
  | .moverCompress _ _ => none
  | .moverTransmit _ _ => none
  | .attend _ _ _ => none
  | .attnMerge _ _ => none
  | .append _ _ => none
  | .demote _ _ => none
  | .demoteSchedule => none
  | .collectiveTask _ _ => none
  | .collectiveTimeout _ => none
  | .collDataReceive _ _ => none
  | .collAbortReceive _ _ => none
  | .replyGate _ _ => none
  | .stepBoundary _ => none
  | .handoverReady => none
  | .handoverTimeout => none
  | .stepFormOnDemand => none
  | .idleDeadlineScan => none
  | .boundaryExchangeTimeout _ => none
  | .boundaryExchangeRetry _ _ _ => none
  | .backgroundSpill => none
  | .patrolScrub _ _ => none
  | .tierWriteback _ _ => none
  | .channelRecal _ _ _ _ => none
  | .stackLoss _ => none
  | .packageLoss _ => none
  | .linkLaneLock _ => none
  | .linkTrainTimeout _ => none
  | .linkVerdictTimeout _ => none
  | .controlFlitReceive _ _ => none
  | .controlFlitSlot _ => none
  | .dataFlitReceive _ _ => none
  | .laneLockLoss _ => none
  | .controlFlitTimeout _ => none
  | .retrainDone _ _ => none
  | .retrainFail _ => none
  | .linkDownTimer _ => none
  | .linkRetryTimer _ => none
  | .cfgScan => none
  | .cfgHoldExpire => none
  | .throttleUpdate _ => none
  | .thermalTrip _ => none
  | .inputVoltage _ => none
  | .powerCutoff _ => none
  | .mainSwitchClose _ _ _ => none
  | .castOn _ => none
  | .imageRelocate => none
  | .trialWatchdog => none
  | .resetN _ _ => none
  | .castonN _ => none
  | .quietEnter => none
  | .quietExit _ => none
  | .quietWakeTimer => none
  | .maintenanceWindow => none
  | .drainDeadline => none
  | .faultRingSave => none
  | .mailboxRequest _ => none
  | .protectedAccess _ => none
  | .smbStatus => none
  | .smbTelemetry => none
  | .smbIdentity => none
  | .smbLastFault => none
  | .smbCaston => none
  | .smbBindOff => none
  | .extest => none
  | .idcode => none
  | .samplePreload => none
  | .clamp => none
  | .highz => none
  | .extestPulse => none
  | .extestTrain => none
  | .hbmSel => none
  | .hbmWir => none
  | .hbmWdr => none
  | .debug => none
  | .bypass => none
  | .hostPortLinkUp _ => none
  | .hostPortLinkLoss => none
  | .dhcpReply _ _ _ => none
  | .bedEntryComplete _ => none
  | .trustedCoreWatchdog => none
  | .receiveCheckFail p => some p

/-- A well-formed command carries a well-formed packet. -/
def Statement (i : Instr) : Prop := i.wf = true → ∀ p, packet i = some p → p.wf = true

theorem none_carried {i : Instr} (h : packet i = none) : Statement i := fun _ _ e => by rw [h] at e; cases e

theorem openContext (p : Pkt) : Statement (.openContext p) := fun h q e => by cases e; exact h
theorem closeContext (p : Pkt) : Statement (.closeContext p) := fun h q e => by cases e; exact h
theorem queryCaps (p : Pkt) : Statement (.queryCaps p) := fun h q e => by cases e; exact h
theorem writeMem (p : Pkt) : Statement (.writeMem p) := fun h q e => by cases e; exact h
theorem readMem (p : Pkt) : Statement (.readMem p) := fun h q e => by cases e; exact h
theorem memAllocGrant (p : Pkt) : Statement (.memAllocGrant p) := fun h q e => by cases e; exact h
theorem memAllocFree (p : Pkt) : Statement (.memAllocFree p) := fun h q e => by cases e; exact h
theorem modelInstall (p : Pkt) : Statement (.modelInstall p) := fun h q e => by cases e; exact h
theorem loadWeights (p : Pkt) : Statement (.loadWeights p) := fun h q e => by cases e; exact h
theorem graftRegister (p : Pkt) : Statement (.graftRegister p) := fun h q e => by cases e; exact h
theorem graftUnregister (p : Pkt) : Statement (.graftUnregister p) := fun h q e => by cases e; exact h
theorem modelRemove (p : Pkt) : Statement (.modelRemove p) := fun h q e => by cases e; exact h
theorem reqAdmit (p : Pkt) : Statement (.reqAdmit p) := fun h q e => by cases e; exact h
theorem reqAppend (p : Pkt) : Statement (.reqAppend p) := fun h q e => by cases e; exact h
theorem reqAppendDraft (p : Pkt) : Statement (.reqAppendDraft p) := fun h q e => by cases e; exact h
theorem reqPrune (p : Pkt) : Statement (.reqPrune p) := fun h q e => by cases e; exact h
theorem reqAccept (p : Pkt) : Statement (.reqAccept p) := fun h q e => by cases e; exact h
theorem reqQuery (p : Pkt) : Statement (.reqQuery p) := fun h q e => by cases e; exact h
theorem submitGraph (p : Pkt) : Statement (.submitGraph p) := fun h q e => by cases e; exact h
theorem submitGraphInstalled (p : Pkt) : Statement (.submitGraphInstalled p) := fun h q e => by cases e; exact h
theorem syncWait (p : Pkt) : Statement (.syncWait p) := fun h q e => by cases e; exact h
theorem syncSignalAdd (p : Pkt) : Statement (.syncSignalAdd p) := fun h q e => by cases e; exact h
theorem syncSignalSet (p : Pkt) : Statement (.syncSignalSet p) := fun h q e => by cases e; exact h
theorem syncAllocAllocate (p : Pkt) : Statement (.syncAllocAllocate p) := fun h q e => by cases e; exact h
theorem syncAllocFree (p : Pkt) : Statement (.syncAllocFree p) := fun h q e => by cases e; exact h
theorem regRead (p : Pkt) : Statement (.regRead p) := fun h q e => by cases e; exact h
theorem regWrite (p : Pkt) : Statement (.regWrite p) := fun h q e => by cases e; exact h
theorem linkCtlRetrain (p : Pkt) (n : Nat) (v : W32) : Statement (.linkCtlRetrain p n v) := fun h q e => by cases e; exact ((Bool.and_eq_true _ _).mp h).1
theorem linkCtlEnable (p : Pkt) (n : Nat) (en : Bool) : Statement (.linkCtlEnable p n en) := fun h q e => by cases e; exact ((Bool.and_eq_true _ _).mp h).1
theorem bedCtlWake (p : Pkt) (b : Nat) (v : W32) : Statement (.bedCtlWake p b v) := fun h q e => by cases e; exact ((Bool.and_eq_true _ _).mp h).1
theorem bedCtlTarget (p : Pkt) (b : Nat) (v : W32) : Statement (.bedCtlTarget p b v) := fun h q e => by cases e; exact ((Bool.and_eq_true _ _).mp h).1
theorem regulatorRateWrite (p : Pkt) (res : Nat) (part : Nat) (v : W32) : Statement (.regulatorRateWrite p res part v) := fun h q e => by
  cases e; exact ((Bool.and_eq_true _ _).mp ((Bool.and_eq_true _ _).mp h).1).1
theorem cfgCommit (p : Pkt) : Statement (.cfgCommit p) := fun h q e => by cases e; exact h
theorem cfgCommitRef (p : Pkt) : Statement (.cfgCommitRef p) := fun h q e => by cases e; exact h
theorem linkMapCommit (p : Pkt) : Statement (.linkMapCommit p) := fun h q e => by cases e; exact h
theorem linkMapAdopt (p : Pkt) : Statement (.linkMapAdopt p) := fun h q e => by cases e; exact h
theorem collectiveOpen (p : Pkt) : Statement (.collectiveOpen p) := fun h q e => by cases e; exact h
theorem collectiveClose (p : Pkt) : Statement (.collectiveClose p) := fun h q e => by cases e; exact h
theorem holdActive (p : Pkt) : Statement (.holdActive p) := fun h q e => by cases e; exact h
theorem allowQuiet (p : Pkt) : Statement (.allowQuiet p) := fun h q e => by cases e; exact h
theorem bindOff (p : Pkt) : Statement (.bindOff p) := fun h q e => by cases e; exact h
theorem timeRead (p : Pkt) : Statement (.timeRead p) := fun h q e => by cases e; exact h
theorem marchRunMarch (p : Pkt) (fails : List Nat) : Statement (.marchRunMarch p fails) := fun h q e => by cases e; exact ((Bool.and_eq_true _ _).mp h).1
theorem marchRunSwatch (p : Pkt) (pass : Bool) : Statement (.marchRunSwatch p pass) := fun h q e => by cases e; exact h
theorem marchRunRetire (p : Pkt) : Statement (.marchRunRetire p) := fun h q e => by cases e; exact h
theorem marchRunFullNext (p : Pkt) : Statement (.marchRunFullNext p) := fun h q e => by cases e; exact h
theorem marchRunStatus (p : Pkt) : Statement (.marchRunStatus p) := fun h q e => by cases e; exact h
theorem marchRunBgPeriod (p : Pkt) : Statement (.marchRunBgPeriod p) := fun h q e => by cases e; exact h
theorem hbmQuery (p : Pkt) : Statement (.hbmQuery p) := fun h q e => by cases e; exact h
theorem softRow (p : Pkt) : Statement (.softRow p) := fun h q e => by cases e; exact h
theorem hardRow (p : Pkt) : Statement (.hardRow p) := fun h q e => by cases e; exact h
theorem commitSoft (p : Pkt) : Statement (.commitSoft p) := fun h q e => by cases e; exact h
theorem testAccess (p : Pkt) : Statement (.testAccess p) := fun h q e => by cases e; exact h
theorem maintEnter (p : Pkt) : Statement (.maintEnter p) := fun h q e => by cases e; exact h
theorem maintExit (p : Pkt) : Statement (.maintExit p) := fun h q e => by cases e; exact h
theorem retireStack (p : Pkt) : Statement (.retireStack p) := fun h q e => by cases e; exact h
theorem fwStageUntrusted (p : Pkt) : Statement (.fwStageUntrusted p) := fun h q e => by cases e; exact h
theorem fwStageTrusted (p : Pkt) : Statement (.fwStageTrusted p) := fun h q e => by cases e; exact h
theorem fwStagePortConfig (p : Pkt) : Statement (.fwStagePortConfig p) := fun h q e => by cases e; exact h
theorem activate (p : Pkt) : Statement (.activate p) := fun h q e => by cases e; exact h
theorem confirm (p : Pkt) : Statement (.confirm p) := fun h q e => by cases e; exact h
theorem armTrusted (p : Pkt) : Statement (.armTrusted p) := fun h q e => by cases e; exact h
theorem confirmTrusted (p : Pkt) : Statement (.confirmTrusted p) := fun h q e => by cases e; exact h
theorem disarmTrusted (p : Pkt) : Statement (.disarmTrusted p) := fun h q e => by cases e; exact h
theorem attest (p : Pkt) : Statement (.attest p) := fun h q e => by cases e; exact h
theorem eventSubscribe (p : Pkt) : Statement (.eventSubscribe p) := fun h q e => by cases e; exact h
theorem eventUnsubscribe (p : Pkt) : Statement (.eventUnsubscribe p) := fun h q e => by cases e; exact h
theorem transferSegment (p : Pkt) : Statement (.transferSegment p) := fun h q e => by cases e; exact h
theorem ackReceive (p : Pkt) : Statement (.ackReceive p) := fun h q e => by cases e; exact h
theorem ackTimer (ctx : Nat) (seq : W32) : Statement (.ackTimer ctx seq) := none_carried rfl
theorem segmentRetransmitTimer (ctx : Nat) (seq : W32) : Statement (.segmentRetransmitTimer ctx seq) := none_carried rfl
theorem transferTimeout (ctx : Nat) (seq : W32) : Statement (.transferTimeout ctx seq) := none_carried rfl
theorem ecnRateRaise (dst : Endpoint) : Statement (.ecnRateRaise dst) := none_carried rfl
theorem lldpTransmit : Statement .lldpTransmit := none_carried rfl
theorem arpNeighborDiscovery (fam : Nat) (target : Nat) (asker : Endpoint) : Statement (.arpNeighborDiscovery fam target asker) := none_carried rfl
theorem icmpEcho (fam : Nat) (target : Nat) (asker : Endpoint) (data : Bytes) : Statement (.icmpEcho fam target asker data) := none_carried rfl
theorem pfcPauseReceive (prio : Nat) (on : Bool) : Statement (.pfcPauseReceive prio on) := none_carried rfl
theorem proxyForward (p : Pkt) : Statement (.proxyForward p) := fun h q e => by cases e; exact h
theorem proxyReply (link : Nat) (p : Pkt) : Statement (.proxyReply link p) := fun h q e => by cases e; exact ((Bool.and_eq_true _ _).mp h).2
theorem proxyTimeout (slot : Nat) (seq : W32) : Statement (.proxyTimeout slot seq) := none_carried rfl
theorem proxyLinkReceive (link : Nat) (p : Pkt) : Statement (.proxyLinkReceive link p) := fun h q e => by cases e; exact ((Bool.and_eq_true _ _).mp h).2
theorem proxyEventRelay (link : Nat) (p : Pkt) : Statement (.proxyEventRelay link p) := fun h q e => by cases e; exact ((Bool.and_eq_true _ _).mp h).2
theorem hostPortDown : Statement .hostPortDown := none_carried rfl
theorem taskAdmit : Statement .taskAdmit := none_carried rfl
theorem taskRelease : Statement .taskRelease := none_carried rfl
theorem taskComplete (slot : Nat) : Statement (.taskComplete slot) := none_carried rfl
theorem deadlineCheck : Statement .deadlineCheck := none_carried rfl
theorem syncWaitTimeout (ctx : Nat) (seq : W32) : Statement (.syncWaitTimeout ctx seq) := none_carried rfl
theorem stallDetect (inst : Nat) : Statement (.stallDetect inst) := none_carried rfl
theorem nullTask (slot : Nat) : Statement (.nullTask slot) := none_carried rfl
theorem stamp (slot : Nat) : Statement (.stamp slot) := none_carried rfl
theorem arrayTask (slot : Nat) : Statement (.arrayTask slot) := none_carried rfl
theorem tileLoad (array : Nat) (ecc : Ecc) : Statement (.tileLoad array ecc) := none_carried rfl
theorem sliceWriteback (array : Nat) (line : Nat) : Statement (.sliceWriteback array line) := none_carried rfl
theorem actBlockFetch (array : Nat) (ecc : Ecc) : Statement (.actBlockFetch array ecc) := none_carried rfl
theorem passEnd (array : Nat) (residueOk : Bool) (timingOk : Bool) : Statement (.passEnd array residueOk timingOk) := none_carried rfl
theorem creditReturn (array : Nat) (row : Nat) : Statement (.creditReturn array row) := none_carried rfl
theorem slotReduce (slot : Nat) (residueOk : Bool) : Statement (.slotReduce slot residueOk) := none_carried rfl
theorem repairCopyComplete (logical : Nat) (ecc : Ecc) : Statement (.repairCopyComplete logical ecc) := none_carried rfl
theorem swatchRun (unitKind : Nat) (instance_ : Nat) (pass : Bool) : Statement (.swatchRun unitKind instance_ pass) := none_carried rfl
theorem sliceRepair (array : Nat) (region : Nat) (ue : Bool) (ok : Bool) : Statement (.sliceRepair array region ue ok) := none_carried rfl
theorem bankCopyComplete (bank : Nat) : Statement (.bankCopyComplete bank) := none_carried rfl
theorem shadowRebuild (logical : Nat) (ecc : Ecc) : Statement (.shadowRebuild logical ecc) := none_carried rfl
theorem bedIdleEntry (bed : Nat) : Statement (.bedIdleEntry bed) := none_carried rfl
theorem bedWake (bed : Nat) : Statement (.bedWake bed) := none_carried rfl
theorem bedReloadComplete (bed : Nat) (ecc : Ecc) : Statement (.bedReloadComplete bed ecc) := none_carried rfl
theorem bedTargetPolicy (forecast : List Nat) : Statement (.bedTargetPolicy forecast) := none_carried rfl
theorem commonsRetry (line : Nat) (kind : Collision) (aData bData : Bytes) : Statement (.commonsRetry line kind aData bData) := none_carried rfl
theorem bgTestRegion (fails : Bool) (repaired : Bool) : Statement (.bgTestRegion fails repaired) := none_carried rfl
theorem spmMerge (slot : Nat) (ecc : Ecc) : Statement (.spmMerge slot ecc) := none_carried rfl
theorem spmGather (slot : Nat) (ecc : Ecc) : Statement (.spmGather slot ecc) := none_carried rfl
theorem delta (slot : Nat) (ecc : Ecc) : Statement (.delta slot ecc) := none_carried rfl
theorem lookup (slot : Nat) (ecc : Ecc) : Statement (.lookup slot ecc) := none_carried rfl
theorem embed (slot : Nat) (ecc : Ecc) : Statement (.embed slot ecc) := none_carried rfl
theorem vectorConvert (slot : Nat) (ecc : Ecc) : Statement (.vectorConvert slot ecc) := none_carried rfl
theorem vectorAdd (slot : Nat) (ecc : Ecc) : Statement (.vectorAdd slot ecc) := none_carried rfl
theorem vectorMul (slot : Nat) (ecc : Ecc) : Statement (.vectorMul slot ecc) := none_carried rfl
theorem rmsnorm (slot : Nat) (ecc : Ecc) : Statement (.rmsnorm slot ecc) := none_carried rfl
theorem layernorm (slot : Nat) (ecc : Ecc) : Statement (.layernorm slot ecc) := none_carried rfl
theorem rope (slot : Nat) (ecc : Ecc) : Statement (.rope slot ecc) := none_carried rfl
theorem vectorAct (slot : Nat) (ecc : Ecc) : Statement (.vectorAct slot ecc) := none_carried rfl
theorem gated (slot : Nat) (ecc : Ecc) : Statement (.gated slot ecc) := none_carried rfl
theorem softmax (slot : Nat) (ecc : Ecc) : Statement (.softmax slot ecc) := none_carried rfl
theorem vectorReduce (slot : Nat) (ecc : Ecc) : Statement (.vectorReduce slot ecc) := none_carried rfl
theorem quant (slot : Nat) (ecc : Ecc) : Statement (.quant slot ecc) := none_carried rfl
theorem vectorGraft (slot : Nat) (ecc : Ecc) : Statement (.vectorGraft slot ecc) := none_carried rfl
theorem gemm (slot : Nat) (ecc : Ecc) : Statement (.gemm slot ecc) := none_carried rfl
theorem samplerTask (slot : Nat) (ecc : Ecc) : Statement (.samplerTask slot ecc) := none_carried rfl
theorem hashTask (slot : Nat) (ecc : Ecc) : Statement (.hashTask slot ecc) := none_carried rfl
theorem moverCopy (slot : Nat) (ecc : Ecc) : Statement (.moverCopy slot ecc) := none_carried rfl
theorem moverFill (slot : Nat) (ecc : Ecc) : Statement (.moverFill slot ecc) := none_carried rfl
theorem moverGather (slot : Nat) (ecc : Ecc) : Statement (.moverGather slot ecc) := none_carried rfl
theorem moverCompress (slot : Nat) (ecc : Ecc) : Statement (.moverCompress slot ecc) := none_carried rfl
theorem moverTransmit (slot : Nat) (ecc : Ecc) : Statement (.moverTransmit slot ecc) := none_carried rfl
theorem attend (slot : Nat) (ecc : Ecc) (residueOk : Bool) : Statement (.attend slot ecc residueOk) := none_carried rfl
theorem attnMerge (slot : Nat) (ecc : Ecc) : Statement (.attnMerge slot ecc) := none_carried rfl
theorem append (slot : Nat) (ecc : Ecc) : Statement (.append slot ecc) := none_carried rfl
theorem demote (slot : Nat) (ecc : Ecc) : Statement (.demote slot ecc) := none_carried rfl
theorem demoteSchedule : Statement .demoteSchedule := none_carried rfl
theorem collectiveTask (slot : Nat) (ecc : Ecc) : Statement (.collectiveTask slot ecc) := none_carried rfl
theorem collectiveTimeout (slot : Nat) : Statement (.collectiveTimeout slot) := none_carried rfl
theorem collDataReceive (link : Nat) (c : CollPkt) : Statement (.collDataReceive link c) := none_carried rfl
theorem collAbortReceive (link : Nat) (c : CollPkt) : Statement (.collAbortReceive link c) := none_carried rfl
theorem replyGate (results : List RowResult) (gateCtr : Option Nat) : Statement (.replyGate results gateCtr) := none_carried rfl
theorem stepBoundary (peers : List BoundaryRec) : Statement (.stepBoundary peers) := none_carried rfl
theorem handoverReady : Statement .handoverReady := none_carried rfl
theorem handoverTimeout : Statement .handoverTimeout := none_carried rfl
theorem stepFormOnDemand : Statement .stepFormOnDemand := none_carried rfl
theorem idleDeadlineScan : Statement .idleDeadlineScan := none_carried rfl
theorem boundaryExchangeTimeout (model : Nat) : Statement (.boundaryExchangeTimeout model) := none_carried rfl
theorem boundaryExchangeRetry (model : Nat) (peers : List BoundaryRec) (ok : Bool) : Statement (.boundaryExchangeRetry model peers ok) := none_carried rfl
theorem backgroundSpill : Statement .backgroundSpill := none_carried rfl
theorem patrolScrub (tier : Tier) (ecc : Ecc) : Statement (.patrolScrub tier ecc) := none_carried rfl
theorem tierWriteback (tier : Tier) (line : Nat) : Statement (.tierWriteback tier line) := none_carried rfl
theorem channelRecal (tier : Tier) (dev : Nat) (chan : Nat) (ok : Bool) : Statement (.channelRecal tier dev chan ok) := none_carried rfl
theorem stackLoss (stack : Nat) : Statement (.stackLoss stack) := none_carried rfl
theorem packageLoss (pkg : Nat) : Statement (.packageLoss pkg) := none_carried rfl
theorem linkLaneLock (n : Nat) : Statement (.linkLaneLock n) := none_carried rfl
theorem linkTrainTimeout (n : Nat) : Statement (.linkTrainTimeout n) := none_carried rfl
theorem linkVerdictTimeout (n : Nat) : Statement (.linkVerdictTimeout n) := none_carried rfl
theorem controlFlitReceive (n : Nat) (f : CtlFlit) : Statement (.controlFlitReceive n f) := none_carried rfl
theorem controlFlitSlot (n : Nat) : Statement (.controlFlitSlot n) := none_carried rfl
theorem dataFlitReceive (n : Nat) (f : DataFlit) : Statement (.dataFlitReceive n f) := none_carried rfl
theorem laneLockLoss (n : Nat) : Statement (.laneLockLoss n) := none_carried rfl
theorem controlFlitTimeout (n : Nat) : Statement (.controlFlitTimeout n) := none_carried rfl
theorem retrainDone (n : Nat) (lanes : Nat) : Statement (.retrainDone n lanes) := none_carried rfl
theorem retrainFail (n : Nat) : Statement (.retrainFail n) := none_carried rfl
theorem linkDownTimer (n : Nat) : Statement (.linkDownTimer n) := none_carried rfl
theorem linkRetryTimer (n : Nat) : Statement (.linkRetryTimer n) := none_carried rfl
theorem cfgScan : Statement .cfgScan := none_carried rfl
theorem cfgHoldExpire : Statement .cfgHoldExpire := none_carried rfl
theorem throttleUpdate (x : Sensors) : Statement (.throttleUpdate x) := none_carried rfl
theorem thermalTrip (x : Sensors) : Statement (.thermalTrip x) := none_carried rfl
theorem inputVoltage (x : Sensors) : Statement (.inputVoltage x) := none_carried rfl
theorem powerCutoff (c : Cutoff) : Statement (.powerCutoff c) := none_carried rfl
theorem mainSwitchClose (enMs : Nat) (precharged : Bool) (vin : Nat) : Statement (.mainSwitchClose enMs precharged vin) := none_carried rfl
theorem castOn (c : CastOn) : Statement (.castOn c) := none_carried rfl
theorem imageRelocate : Statement .imageRelocate := none_carried rfl
theorem trialWatchdog : Statement .trialWatchdog := none_carried rfl
theorem resetN (heldUs : Nat) (released : Bool) : Statement (.resetN heldUs released) := none_carried rfl
theorem castonN (heldUs : Nat) : Statement (.castonN heldUs) := none_carried rfl
theorem quietEnter : Statement .quietEnter := none_carried rfl
theorem quietExit (c : WakeCause) : Statement (.quietExit c) := none_carried rfl
theorem quietWakeTimer : Statement .quietWakeTimer := none_carried rfl
theorem maintenanceWindow : Statement .maintenanceWindow := none_carried rfl
theorem drainDeadline : Statement .drainDeadline := none_carried rfl
theorem faultRingSave : Statement .faultRingSave := none_carried rfl
theorem mailboxRequest (m : Mailbox) : Statement (.mailboxRequest m) := none_carried rfl
theorem protectedAccess (a : Access) : Statement (.protectedAccess a) := none_carried rfl
theorem smbStatus : Statement .smbStatus := none_carried rfl
theorem smbTelemetry : Statement .smbTelemetry := none_carried rfl
theorem smbIdentity : Statement .smbIdentity := none_carried rfl
theorem smbLastFault : Statement .smbLastFault := none_carried rfl
theorem smbCaston : Statement .smbCaston := none_carried rfl
theorem smbBindOff : Statement .smbBindOff := none_carried rfl
theorem extest : Statement .extest := none_carried rfl
theorem idcode : Statement .idcode := none_carried rfl
theorem samplePreload : Statement .samplePreload := none_carried rfl
theorem clamp : Statement .clamp := none_carried rfl
theorem highz : Statement .highz := none_carried rfl
theorem extestPulse : Statement .extestPulse := none_carried rfl
theorem extestTrain : Statement .extestTrain := none_carried rfl
theorem hbmSel : Statement .hbmSel := none_carried rfl
theorem hbmWir : Statement .hbmWir := none_carried rfl
theorem hbmWdr : Statement .hbmWdr := none_carried rfl
theorem debug : Statement .debug := none_carried rfl
theorem bypass : Statement .bypass := none_carried rfl
theorem hostPortLinkUp (train : PortTrain) : Statement (.hostPortLinkUp train) := none_carried rfl
theorem hostPortLinkLoss : Statement .hostPortLinkLoss := none_carried rfl
theorem dhcpReply (fam : Nat) (addr router : Nat) : Statement (.dhcpReply fam addr router) := none_carried rfl
theorem bedEntryComplete (bed : Nat) : Statement (.bedEntryComplete bed) := none_carried rfl
theorem trustedCoreWatchdog : Statement .trustedCoreWatchdog := none_carried rfl
theorem receiveCheckFail (p : Pkt) : Statement (.receiveCheckFail p) := fun h q e => by cases e; exact h

end Sys2Proof.Laws.Carried
end

