-- ==== Sys2Proof/Laws/State.lean ====
section
/-! SUPPORT. What each update of a state leaves of its other fields. -/

namespace Sys2Proof.Machine

@[simp] theorem wr_pending (s : State) (a v : Nat) : (wr s a v).pending = s.pending := rfl
@[simp] theorem wr_time (s : State) (a v : Nat) : (wr s a v).time = s.time := rfl
@[simp] theorem wr_fresh (s : State) (a v : Nat) : (wr s a v).fresh = s.fresh := rfl
@[simp] theorem wr_fuses (s : State) (a v : Nat) : (wr s a v).fuses = s.fuses := rfl
@[simp] theorem wr_mem (s : State) (a v : Nat) : (wr s a v).mem = s.mem := rfl
@[simp] theorem wr_blocks (s : State) (a v : Nat) : (wr s a v).blocks = s.blocks := rfl
@[simp] theorem wr_kct (s : State) (a v : Nat) : (wr s a v).kct = s.kct := rfl
@[simp] theorem wr_arr (s : State) (a v : Nat) : (wr s a v).arr = s.arr := rfl
@[simp] theorem wr_disp (s : State) (a v : Nat) : (wr s a v).disp = s.disp := rfl
@[simp] theorem wr_models (s : State) (a v : Nat) : (wr s a v).models = s.models := rfl
@[simp] theorem wr_graphs (s : State) (a v : Nat) : (wr s a v).graphs = s.graphs := rfl
@[simp] theorem wr_serve (s : State) (a v : Nat) : (wr s a v).serve = s.serve := rfl
@[simp] theorem wr_graft (s : State) (a v : Nat) : (wr s a v).graft = s.graft := rfl
@[simp] theorem wr_tier (s : State) (a v : Nat) : (wr s a v).tier = s.tier := rfl
@[simp] theorem wr_power (s : State) (a v : Nat) : (wr s a v).power = s.power := rfl
@[simp] theorem wr_link (s : State) (a v : Nat) : (wr s a v).link = s.link := rfl
@[simp] theorem wr_coll (s : State) (a v : Nat) : (wr s a v).coll = s.coll := rfl
@[simp] theorem wr_trust (s : State) (a v : Nat) : (wr s a v).trust = s.trust := rfl
@[simp] theorem wr_ras (s : State) (a v : Nat) : (wr s a v).ras = s.ras := rfl
@[simp] theorem wr_pins (s : State) (a v : Nat) : (wr s a v).pins = s.pins := rfl

@[simp] theorem setFld_pending (s : State) (a hi lo x : Nat) : (setFld s a hi lo x).pending = s.pending := rfl
@[simp] theorem setFld_time (s : State) (a hi lo x : Nat) : (setFld s a hi lo x).time = s.time := rfl
@[simp] theorem setFld_fresh (s : State) (a hi lo x : Nat) : (setFld s a hi lo x).fresh = s.fresh := rfl
@[simp] theorem setFld_fuses (s : State) (a hi lo x : Nat) : (setFld s a hi lo x).fuses = s.fuses := rfl
@[simp] theorem setFld_mem (s : State) (a hi lo x : Nat) : (setFld s a hi lo x).mem = s.mem := rfl
@[simp] theorem setFld_blocks (s : State) (a hi lo x : Nat) : (setFld s a hi lo x).blocks = s.blocks := rfl
@[simp] theorem setFld_kct (s : State) (a hi lo x : Nat) : (setFld s a hi lo x).kct = s.kct := rfl
@[simp] theorem setFld_arr (s : State) (a hi lo x : Nat) : (setFld s a hi lo x).arr = s.arr := rfl
@[simp] theorem setFld_disp (s : State) (a hi lo x : Nat) : (setFld s a hi lo x).disp = s.disp := rfl
@[simp] theorem setFld_models (s : State) (a hi lo x : Nat) : (setFld s a hi lo x).models = s.models := rfl
@[simp] theorem setFld_graphs (s : State) (a hi lo x : Nat) : (setFld s a hi lo x).graphs = s.graphs := rfl
@[simp] theorem setFld_serve (s : State) (a hi lo x : Nat) : (setFld s a hi lo x).serve = s.serve := rfl
@[simp] theorem setFld_graft (s : State) (a hi lo x : Nat) : (setFld s a hi lo x).graft = s.graft := rfl
@[simp] theorem setFld_tier (s : State) (a hi lo x : Nat) : (setFld s a hi lo x).tier = s.tier := rfl
@[simp] theorem setFld_power (s : State) (a hi lo x : Nat) : (setFld s a hi lo x).power = s.power := rfl
@[simp] theorem setFld_link (s : State) (a hi lo x : Nat) : (setFld s a hi lo x).link = s.link := rfl
@[simp] theorem setFld_coll (s : State) (a hi lo x : Nat) : (setFld s a hi lo x).coll = s.coll := rfl
@[simp] theorem setFld_trust (s : State) (a hi lo x : Nat) : (setFld s a hi lo x).trust = s.trust := rfl
@[simp] theorem setFld_ras (s : State) (a hi lo x : Nat) : (setFld s a hi lo x).ras = s.ras := rfl
@[simp] theorem setFld_pins (s : State) (a hi lo x : Nat) : (setFld s a hi lo x).pins = s.pins := rfl

@[simp] theorem bump_pending (s : State) (a hi lo n : Nat) : (bump s a hi lo n).pending = s.pending := rfl
@[simp] theorem bump_time (s : State) (a hi lo n : Nat) : (bump s a hi lo n).time = s.time := rfl
@[simp] theorem bump_fresh (s : State) (a hi lo n : Nat) : (bump s a hi lo n).fresh = s.fresh := rfl
@[simp] theorem bump_fuses (s : State) (a hi lo n : Nat) : (bump s a hi lo n).fuses = s.fuses := rfl
@[simp] theorem bump_mem (s : State) (a hi lo n : Nat) : (bump s a hi lo n).mem = s.mem := rfl
@[simp] theorem bump_blocks (s : State) (a hi lo n : Nat) : (bump s a hi lo n).blocks = s.blocks := rfl
@[simp] theorem bump_kct (s : State) (a hi lo n : Nat) : (bump s a hi lo n).kct = s.kct := rfl
@[simp] theorem bump_arr (s : State) (a hi lo n : Nat) : (bump s a hi lo n).arr = s.arr := rfl
@[simp] theorem bump_disp (s : State) (a hi lo n : Nat) : (bump s a hi lo n).disp = s.disp := rfl
@[simp] theorem bump_models (s : State) (a hi lo n : Nat) : (bump s a hi lo n).models = s.models := rfl
@[simp] theorem bump_graphs (s : State) (a hi lo n : Nat) : (bump s a hi lo n).graphs = s.graphs := rfl
@[simp] theorem bump_serve (s : State) (a hi lo n : Nat) : (bump s a hi lo n).serve = s.serve := rfl
@[simp] theorem bump_graft (s : State) (a hi lo n : Nat) : (bump s a hi lo n).graft = s.graft := rfl
@[simp] theorem bump_tier (s : State) (a hi lo n : Nat) : (bump s a hi lo n).tier = s.tier := rfl
@[simp] theorem bump_power (s : State) (a hi lo n : Nat) : (bump s a hi lo n).power = s.power := rfl
@[simp] theorem bump_link (s : State) (a hi lo n : Nat) : (bump s a hi lo n).link = s.link := rfl
@[simp] theorem bump_coll (s : State) (a hi lo n : Nat) : (bump s a hi lo n).coll = s.coll := rfl
@[simp] theorem bump_trust (s : State) (a hi lo n : Nat) : (bump s a hi lo n).trust = s.trust := rfl
@[simp] theorem bump_ras (s : State) (a hi lo n : Nat) : (bump s a hi lo n).ras = s.ras := rfl
@[simp] theorem bump_pins (s : State) (a hi lo n : Nat) : (bump s a hi lo n).pins = s.pins := rfl

@[simp] theorem wr64_pending (s : State) (a v : Nat) : (wr64 s a v).pending = s.pending := rfl
@[simp] theorem wr64_time (s : State) (a v : Nat) : (wr64 s a v).time = s.time := rfl
@[simp] theorem wr64_fresh (s : State) (a v : Nat) : (wr64 s a v).fresh = s.fresh := rfl
@[simp] theorem wr64_fuses (s : State) (a v : Nat) : (wr64 s a v).fuses = s.fuses := rfl
@[simp] theorem wr64_mem (s : State) (a v : Nat) : (wr64 s a v).mem = s.mem := rfl
@[simp] theorem wr64_blocks (s : State) (a v : Nat) : (wr64 s a v).blocks = s.blocks := rfl
@[simp] theorem wr64_kct (s : State) (a v : Nat) : (wr64 s a v).kct = s.kct := rfl
@[simp] theorem wr64_arr (s : State) (a v : Nat) : (wr64 s a v).arr = s.arr := rfl
@[simp] theorem wr64_disp (s : State) (a v : Nat) : (wr64 s a v).disp = s.disp := rfl
@[simp] theorem wr64_models (s : State) (a v : Nat) : (wr64 s a v).models = s.models := rfl
@[simp] theorem wr64_graphs (s : State) (a v : Nat) : (wr64 s a v).graphs = s.graphs := rfl
@[simp] theorem wr64_serve (s : State) (a v : Nat) : (wr64 s a v).serve = s.serve := rfl
@[simp] theorem wr64_graft (s : State) (a v : Nat) : (wr64 s a v).graft = s.graft := rfl
@[simp] theorem wr64_tier (s : State) (a v : Nat) : (wr64 s a v).tier = s.tier := rfl
@[simp] theorem wr64_power (s : State) (a v : Nat) : (wr64 s a v).power = s.power := rfl
@[simp] theorem wr64_link (s : State) (a v : Nat) : (wr64 s a v).link = s.link := rfl
@[simp] theorem wr64_coll (s : State) (a v : Nat) : (wr64 s a v).coll = s.coll := rfl
@[simp] theorem wr64_trust (s : State) (a v : Nat) : (wr64 s a v).trust = s.trust := rfl
@[simp] theorem wr64_ras (s : State) (a v : Nat) : (wr64 s a v).ras = s.ras := rfl
@[simp] theorem wr64_pins (s : State) (a v : Nat) : (wr64 s a v).pins = s.pins := rfl

@[simp] theorem bump64_pending (s : State) (a n : Nat) : (bump64 s a n).pending = s.pending := by unfold bump64; split; rfl; exact wr64_pending _ _ _
@[simp] theorem bump64_time (s : State) (a n : Nat) : (bump64 s a n).time = s.time := by unfold bump64; split; rfl; exact wr64_time _ _ _
@[simp] theorem bump64_fresh (s : State) (a n : Nat) : (bump64 s a n).fresh = s.fresh := by unfold bump64; split; rfl; exact wr64_fresh _ _ _
@[simp] theorem bump64_fuses (s : State) (a n : Nat) : (bump64 s a n).fuses = s.fuses := by unfold bump64; split; rfl; exact wr64_fuses _ _ _
@[simp] theorem bump64_mem (s : State) (a n : Nat) : (bump64 s a n).mem = s.mem := by unfold bump64; split; rfl; exact wr64_mem _ _ _
@[simp] theorem bump64_blocks (s : State) (a n : Nat) : (bump64 s a n).blocks = s.blocks := by unfold bump64; split; rfl; exact wr64_blocks _ _ _
@[simp] theorem bump64_kct (s : State) (a n : Nat) : (bump64 s a n).kct = s.kct := by unfold bump64; split; rfl; exact wr64_kct _ _ _
@[simp] theorem bump64_arr (s : State) (a n : Nat) : (bump64 s a n).arr = s.arr := by unfold bump64; split; rfl; exact wr64_arr _ _ _
@[simp] theorem bump64_disp (s : State) (a n : Nat) : (bump64 s a n).disp = s.disp := by unfold bump64; split; rfl; exact wr64_disp _ _ _
@[simp] theorem bump64_models (s : State) (a n : Nat) : (bump64 s a n).models = s.models := by unfold bump64; split; rfl; exact wr64_models _ _ _
@[simp] theorem bump64_graphs (s : State) (a n : Nat) : (bump64 s a n).graphs = s.graphs := by unfold bump64; split; rfl; exact wr64_graphs _ _ _
@[simp] theorem bump64_serve (s : State) (a n : Nat) : (bump64 s a n).serve = s.serve := by unfold bump64; split; rfl; exact wr64_serve _ _ _
@[simp] theorem bump64_graft (s : State) (a n : Nat) : (bump64 s a n).graft = s.graft := by unfold bump64; split; rfl; exact wr64_graft _ _ _
@[simp] theorem bump64_tier (s : State) (a n : Nat) : (bump64 s a n).tier = s.tier := by unfold bump64; split; rfl; exact wr64_tier _ _ _
@[simp] theorem bump64_power (s : State) (a n : Nat) : (bump64 s a n).power = s.power := by unfold bump64; split; rfl; exact wr64_power _ _ _
@[simp] theorem bump64_link (s : State) (a n : Nat) : (bump64 s a n).link = s.link := by unfold bump64; split; rfl; exact wr64_link _ _ _
@[simp] theorem bump64_coll (s : State) (a n : Nat) : (bump64 s a n).coll = s.coll := by unfold bump64; split; rfl; exact wr64_coll _ _ _
@[simp] theorem bump64_trust (s : State) (a n : Nat) : (bump64 s a n).trust = s.trust := by unfold bump64; split; rfl; exact wr64_trust _ _ _
@[simp] theorem bump64_ras (s : State) (a n : Nat) : (bump64 s a n).ras = s.ras := by unfold bump64; split; rfl; exact wr64_ras _ _ _
@[simp] theorem bump64_pins (s : State) (a n : Nat) : (bump64 s a n).pins = s.pins := by unfold bump64; split; rfl; exact wr64_pins _ _ _

@[simp] theorem st_pending (s : State) (sp a : Nat) (bs : Bytes) : (st s sp a bs).pending = s.pending := rfl
@[simp] theorem st_time (s : State) (sp a : Nat) (bs : Bytes) : (st s sp a bs).time = s.time := rfl
@[simp] theorem st_fresh (s : State) (sp a : Nat) (bs : Bytes) : (st s sp a bs).fresh = s.fresh := rfl
@[simp] theorem st_fuses (s : State) (sp a : Nat) (bs : Bytes) : (st s sp a bs).fuses = s.fuses := rfl
@[simp] theorem st_regs (s : State) (sp a : Nat) (bs : Bytes) : (st s sp a bs).regs = s.regs := rfl
@[simp] theorem st_blocks (s : State) (sp a : Nat) (bs : Bytes) : (st s sp a bs).blocks = s.blocks := rfl
@[simp] theorem st_kct (s : State) (sp a : Nat) (bs : Bytes) : (st s sp a bs).kct = s.kct := rfl
@[simp] theorem st_arr (s : State) (sp a : Nat) (bs : Bytes) : (st s sp a bs).arr = s.arr := rfl
@[simp] theorem st_disp (s : State) (sp a : Nat) (bs : Bytes) : (st s sp a bs).disp = s.disp := rfl
@[simp] theorem st_models (s : State) (sp a : Nat) (bs : Bytes) : (st s sp a bs).models = s.models := rfl
@[simp] theorem st_graphs (s : State) (sp a : Nat) (bs : Bytes) : (st s sp a bs).graphs = s.graphs := rfl
@[simp] theorem st_serve (s : State) (sp a : Nat) (bs : Bytes) : (st s sp a bs).serve = s.serve := rfl
@[simp] theorem st_graft (s : State) (sp a : Nat) (bs : Bytes) : (st s sp a bs).graft = s.graft := rfl
@[simp] theorem st_tier (s : State) (sp a : Nat) (bs : Bytes) : (st s sp a bs).tier = s.tier := rfl
@[simp] theorem st_power (s : State) (sp a : Nat) (bs : Bytes) : (st s sp a bs).power = s.power := rfl
@[simp] theorem st_link (s : State) (sp a : Nat) (bs : Bytes) : (st s sp a bs).link = s.link := rfl
@[simp] theorem st_coll (s : State) (sp a : Nat) (bs : Bytes) : (st s sp a bs).coll = s.coll := rfl
@[simp] theorem st_trust (s : State) (sp a : Nat) (bs : Bytes) : (st s sp a bs).trust = s.trust := rfl
@[simp] theorem st_ras (s : State) (sp a : Nat) (bs : Bytes) : (st s sp a bs).ras = s.ras := rfl
@[simp] theorem st_pins (s : State) (sp a : Nat) (bs : Bytes) : (st s sp a bs).pins = s.pins := rfl

@[simp] theorem wipeRange_pending (s : State) (sp a n : Nat) : (wipeRange s sp a n).pending = s.pending := rfl
@[simp] theorem wipeRange_time (s : State) (sp a n : Nat) : (wipeRange s sp a n).time = s.time := rfl
@[simp] theorem wipeRange_fresh (s : State) (sp a n : Nat) : (wipeRange s sp a n).fresh = s.fresh := rfl
@[simp] theorem wipeRange_fuses (s : State) (sp a n : Nat) : (wipeRange s sp a n).fuses = s.fuses := rfl
@[simp] theorem wipeRange_regs (s : State) (sp a n : Nat) : (wipeRange s sp a n).regs = s.regs := rfl
@[simp] theorem wipeRange_blocks (s : State) (sp a n : Nat) : (wipeRange s sp a n).blocks = s.blocks := rfl
@[simp] theorem wipeRange_kct (s : State) (sp a n : Nat) : (wipeRange s sp a n).kct = s.kct := rfl
@[simp] theorem wipeRange_arr (s : State) (sp a n : Nat) : (wipeRange s sp a n).arr = s.arr := rfl
@[simp] theorem wipeRange_disp (s : State) (sp a n : Nat) : (wipeRange s sp a n).disp = s.disp := rfl
@[simp] theorem wipeRange_models (s : State) (sp a n : Nat) : (wipeRange s sp a n).models = s.models := rfl
@[simp] theorem wipeRange_graphs (s : State) (sp a n : Nat) : (wipeRange s sp a n).graphs = s.graphs := rfl
@[simp] theorem wipeRange_serve (s : State) (sp a n : Nat) : (wipeRange s sp a n).serve = s.serve := rfl
@[simp] theorem wipeRange_graft (s : State) (sp a n : Nat) : (wipeRange s sp a n).graft = s.graft := rfl
@[simp] theorem wipeRange_tier (s : State) (sp a n : Nat) : (wipeRange s sp a n).tier = s.tier := rfl
@[simp] theorem wipeRange_power (s : State) (sp a n : Nat) : (wipeRange s sp a n).power = s.power := rfl
@[simp] theorem wipeRange_link (s : State) (sp a n : Nat) : (wipeRange s sp a n).link = s.link := rfl
@[simp] theorem wipeRange_coll (s : State) (sp a n : Nat) : (wipeRange s sp a n).coll = s.coll := rfl
@[simp] theorem wipeRange_trust (s : State) (sp a n : Nat) : (wipeRange s sp a n).trust = s.trust := rfl
@[simp] theorem wipeRange_ras (s : State) (sp a n : Nat) : (wipeRange s sp a n).ras = s.ras := rfl
@[simp] theorem wipeRange_pins (s : State) (sp a n : Nat) : (wipeRange s sp a n).pins = s.pins := rfl

@[simp] theorem markBad_pending (s : State) (sp l : Nat) : (markBad s sp l).pending = s.pending := by unfold markBad; split <;> rfl
@[simp] theorem markBad_time (s : State) (sp l : Nat) : (markBad s sp l).time = s.time := by unfold markBad; split <;> rfl
@[simp] theorem markBad_fresh (s : State) (sp l : Nat) : (markBad s sp l).fresh = s.fresh := by unfold markBad; split <;> rfl
@[simp] theorem markBad_fuses (s : State) (sp l : Nat) : (markBad s sp l).fuses = s.fuses := by unfold markBad; split <;> rfl
@[simp] theorem markBad_regs (s : State) (sp l : Nat) : (markBad s sp l).regs = s.regs := by unfold markBad; split <;> rfl
@[simp] theorem markBad_blocks (s : State) (sp l : Nat) : (markBad s sp l).blocks = s.blocks := by unfold markBad; split <;> rfl
@[simp] theorem markBad_kct (s : State) (sp l : Nat) : (markBad s sp l).kct = s.kct := by unfold markBad; split <;> rfl
@[simp] theorem markBad_arr (s : State) (sp l : Nat) : (markBad s sp l).arr = s.arr := by unfold markBad; split <;> rfl
@[simp] theorem markBad_disp (s : State) (sp l : Nat) : (markBad s sp l).disp = s.disp := by unfold markBad; split <;> rfl
@[simp] theorem markBad_models (s : State) (sp l : Nat) : (markBad s sp l).models = s.models := by unfold markBad; split <;> rfl
@[simp] theorem markBad_graphs (s : State) (sp l : Nat) : (markBad s sp l).graphs = s.graphs := by unfold markBad; split <;> rfl
@[simp] theorem markBad_serve (s : State) (sp l : Nat) : (markBad s sp l).serve = s.serve := by unfold markBad; split <;> rfl
@[simp] theorem markBad_graft (s : State) (sp l : Nat) : (markBad s sp l).graft = s.graft := by unfold markBad; split <;> rfl
@[simp] theorem markBad_tier (s : State) (sp l : Nat) : (markBad s sp l).tier = s.tier := by unfold markBad; split <;> rfl
@[simp] theorem markBad_power (s : State) (sp l : Nat) : (markBad s sp l).power = s.power := by unfold markBad; split <;> rfl
@[simp] theorem markBad_link (s : State) (sp l : Nat) : (markBad s sp l).link = s.link := by unfold markBad; split <;> rfl
@[simp] theorem markBad_coll (s : State) (sp l : Nat) : (markBad s sp l).coll = s.coll := by unfold markBad; split <;> rfl
@[simp] theorem markBad_trust (s : State) (sp l : Nat) : (markBad s sp l).trust = s.trust := by unfold markBad; split <;> rfl
@[simp] theorem markBad_ras (s : State) (sp l : Nat) : (markBad s sp l).ras = s.ras := by unfold markBad; split <;> rfl
@[simp] theorem markBad_pins (s : State) (sp l : Nat) : (markBad s sp l).pins = s.pins := by unfold markBad; split <;> rfl

/-- The marks copied leave whatever a mark leaves. -/
theorem copyMarks_keeps {α : Type} (f : State → α) (hf : ∀ s sp w, f (markBad s sp w) = f s) (bad : List (Nat × Nat))
    (sp a n dsp d : Nat) (s : State) : f (copyMarks s bad sp a n dsp d) = f s := by
  unfold copyMarks
  induction bad generalizing s with
  | nil => rfl
  | cons x l ih =>
    rw [List.foldl_cons, ih]
    split
    · exact hf _ _ _
    · rfl

@[simp] theorem copyMarks_pending (s : State) (bad : List (Nat × Nat)) (sp a n dsp d : Nat) : (copyMarks s bad sp a n dsp d).pending = s.pending := copyMarks_keeps (·.pending) markBad_pending bad sp a n dsp d s
@[simp] theorem copyMarks_time (s : State) (bad : List (Nat × Nat)) (sp a n dsp d : Nat) : (copyMarks s bad sp a n dsp d).time = s.time := copyMarks_keeps (·.time) markBad_time bad sp a n dsp d s
@[simp] theorem copyMarks_fresh (s : State) (bad : List (Nat × Nat)) (sp a n dsp d : Nat) : (copyMarks s bad sp a n dsp d).fresh = s.fresh := copyMarks_keeps (·.fresh) markBad_fresh bad sp a n dsp d s
@[simp] theorem copyMarks_fuses (s : State) (bad : List (Nat × Nat)) (sp a n dsp d : Nat) : (copyMarks s bad sp a n dsp d).fuses = s.fuses := copyMarks_keeps (·.fuses) markBad_fuses bad sp a n dsp d s
@[simp] theorem copyMarks_regs (s : State) (bad : List (Nat × Nat)) (sp a n dsp d : Nat) : (copyMarks s bad sp a n dsp d).regs = s.regs := copyMarks_keeps (·.regs) markBad_regs bad sp a n dsp d s
@[simp] theorem copyMarks_blocks (s : State) (bad : List (Nat × Nat)) (sp a n dsp d : Nat) : (copyMarks s bad sp a n dsp d).blocks = s.blocks := copyMarks_keeps (·.blocks) markBad_blocks bad sp a n dsp d s
@[simp] theorem copyMarks_kct (s : State) (bad : List (Nat × Nat)) (sp a n dsp d : Nat) : (copyMarks s bad sp a n dsp d).kct = s.kct := copyMarks_keeps (·.kct) markBad_kct bad sp a n dsp d s
@[simp] theorem copyMarks_arr (s : State) (bad : List (Nat × Nat)) (sp a n dsp d : Nat) : (copyMarks s bad sp a n dsp d).arr = s.arr := copyMarks_keeps (·.arr) markBad_arr bad sp a n dsp d s
@[simp] theorem copyMarks_disp (s : State) (bad : List (Nat × Nat)) (sp a n dsp d : Nat) : (copyMarks s bad sp a n dsp d).disp = s.disp := copyMarks_keeps (·.disp) markBad_disp bad sp a n dsp d s
@[simp] theorem copyMarks_models (s : State) (bad : List (Nat × Nat)) (sp a n dsp d : Nat) : (copyMarks s bad sp a n dsp d).models = s.models := copyMarks_keeps (·.models) markBad_models bad sp a n dsp d s
@[simp] theorem copyMarks_graphs (s : State) (bad : List (Nat × Nat)) (sp a n dsp d : Nat) : (copyMarks s bad sp a n dsp d).graphs = s.graphs := copyMarks_keeps (·.graphs) markBad_graphs bad sp a n dsp d s
@[simp] theorem copyMarks_serve (s : State) (bad : List (Nat × Nat)) (sp a n dsp d : Nat) : (copyMarks s bad sp a n dsp d).serve = s.serve := copyMarks_keeps (·.serve) markBad_serve bad sp a n dsp d s
@[simp] theorem copyMarks_graft (s : State) (bad : List (Nat × Nat)) (sp a n dsp d : Nat) : (copyMarks s bad sp a n dsp d).graft = s.graft := copyMarks_keeps (·.graft) markBad_graft bad sp a n dsp d s
@[simp] theorem copyMarks_tier (s : State) (bad : List (Nat × Nat)) (sp a n dsp d : Nat) : (copyMarks s bad sp a n dsp d).tier = s.tier := copyMarks_keeps (·.tier) markBad_tier bad sp a n dsp d s
@[simp] theorem copyMarks_power (s : State) (bad : List (Nat × Nat)) (sp a n dsp d : Nat) : (copyMarks s bad sp a n dsp d).power = s.power := copyMarks_keeps (·.power) markBad_power bad sp a n dsp d s
@[simp] theorem copyMarks_link (s : State) (bad : List (Nat × Nat)) (sp a n dsp d : Nat) : (copyMarks s bad sp a n dsp d).link = s.link := copyMarks_keeps (·.link) markBad_link bad sp a n dsp d s
@[simp] theorem copyMarks_coll (s : State) (bad : List (Nat × Nat)) (sp a n dsp d : Nat) : (copyMarks s bad sp a n dsp d).coll = s.coll := copyMarks_keeps (·.coll) markBad_coll bad sp a n dsp d s
@[simp] theorem copyMarks_trust (s : State) (bad : List (Nat × Nat)) (sp a n dsp d : Nat) : (copyMarks s bad sp a n dsp d).trust = s.trust := copyMarks_keeps (·.trust) markBad_trust bad sp a n dsp d s
@[simp] theorem copyMarks_ras (s : State) (bad : List (Nat × Nat)) (sp a n dsp d : Nat) : (copyMarks s bad sp a n dsp d).ras = s.ras := copyMarks_keeps (·.ras) markBad_ras bad sp a n dsp d s
@[simp] theorem copyMarks_pins (s : State) (bad : List (Nat × Nat)) (sp a n dsp d : Nat) : (copyMarks s bad sp a n dsp d).pins = s.pins := copyMarks_keeps (·.pins) markBad_pins bad sp a n dsp d s

@[simp] theorem copyRange_pending (s : State) (sp a n dsp d : Nat) : (copyRange s sp a n dsp d).pending = s.pending := copyMarks_pending _ _ _ _ _ _ _
@[simp] theorem copyRange_time (s : State) (sp a n dsp d : Nat) : (copyRange s sp a n dsp d).time = s.time := copyMarks_time _ _ _ _ _ _ _
@[simp] theorem copyRange_fresh (s : State) (sp a n dsp d : Nat) : (copyRange s sp a n dsp d).fresh = s.fresh := copyMarks_fresh _ _ _ _ _ _ _
@[simp] theorem copyRange_fuses (s : State) (sp a n dsp d : Nat) : (copyRange s sp a n dsp d).fuses = s.fuses := copyMarks_fuses _ _ _ _ _ _ _
@[simp] theorem copyRange_regs (s : State) (sp a n dsp d : Nat) : (copyRange s sp a n dsp d).regs = s.regs := copyMarks_regs _ _ _ _ _ _ _
@[simp] theorem copyRange_blocks (s : State) (sp a n dsp d : Nat) : (copyRange s sp a n dsp d).blocks = s.blocks := copyMarks_blocks _ _ _ _ _ _ _
@[simp] theorem copyRange_kct (s : State) (sp a n dsp d : Nat) : (copyRange s sp a n dsp d).kct = s.kct := copyMarks_kct _ _ _ _ _ _ _
@[simp] theorem copyRange_arr (s : State) (sp a n dsp d : Nat) : (copyRange s sp a n dsp d).arr = s.arr := copyMarks_arr _ _ _ _ _ _ _
@[simp] theorem copyRange_disp (s : State) (sp a n dsp d : Nat) : (copyRange s sp a n dsp d).disp = s.disp := copyMarks_disp _ _ _ _ _ _ _
@[simp] theorem copyRange_models (s : State) (sp a n dsp d : Nat) : (copyRange s sp a n dsp d).models = s.models := copyMarks_models _ _ _ _ _ _ _
@[simp] theorem copyRange_graphs (s : State) (sp a n dsp d : Nat) : (copyRange s sp a n dsp d).graphs = s.graphs := copyMarks_graphs _ _ _ _ _ _ _
@[simp] theorem copyRange_serve (s : State) (sp a n dsp d : Nat) : (copyRange s sp a n dsp d).serve = s.serve := copyMarks_serve _ _ _ _ _ _ _
@[simp] theorem copyRange_graft (s : State) (sp a n dsp d : Nat) : (copyRange s sp a n dsp d).graft = s.graft := copyMarks_graft _ _ _ _ _ _ _
@[simp] theorem copyRange_tier (s : State) (sp a n dsp d : Nat) : (copyRange s sp a n dsp d).tier = s.tier := copyMarks_tier _ _ _ _ _ _ _
@[simp] theorem copyRange_power (s : State) (sp a n dsp d : Nat) : (copyRange s sp a n dsp d).power = s.power := copyMarks_power _ _ _ _ _ _ _
@[simp] theorem copyRange_link (s : State) (sp a n dsp d : Nat) : (copyRange s sp a n dsp d).link = s.link := copyMarks_link _ _ _ _ _ _ _
@[simp] theorem copyRange_coll (s : State) (sp a n dsp d : Nat) : (copyRange s sp a n dsp d).coll = s.coll := copyMarks_coll _ _ _ _ _ _ _
@[simp] theorem copyRange_trust (s : State) (sp a n dsp d : Nat) : (copyRange s sp a n dsp d).trust = s.trust := copyMarks_trust _ _ _ _ _ _ _
@[simp] theorem copyRange_ras (s : State) (sp a n dsp d : Nat) : (copyRange s sp a n dsp d).ras = s.ras := copyMarks_ras _ _ _ _ _ _ _
@[simp] theorem copyRange_pins (s : State) (sp a n dsp d : Nat) : (copyRange s sp a n dsp d).pins = s.pins := copyMarks_pins _ _ _ _ _ _ _

@[simp] theorem putBlock_pending (s : State) (sp b : Nat) (x : Block) : (putBlock s sp b x).pending = s.pending := rfl
@[simp] theorem putBlock_time (s : State) (sp b : Nat) (x : Block) : (putBlock s sp b x).time = s.time := rfl
@[simp] theorem putBlock_fresh (s : State) (sp b : Nat) (x : Block) : (putBlock s sp b x).fresh = s.fresh := rfl
@[simp] theorem putBlock_fuses (s : State) (sp b : Nat) (x : Block) : (putBlock s sp b x).fuses = s.fuses := rfl
@[simp] theorem putBlock_regs (s : State) (sp b : Nat) (x : Block) : (putBlock s sp b x).regs = s.regs := rfl
@[simp] theorem putBlock_mem (s : State) (sp b : Nat) (x : Block) : (putBlock s sp b x).mem = s.mem := rfl
@[simp] theorem putBlock_kct (s : State) (sp b : Nat) (x : Block) : (putBlock s sp b x).kct = s.kct := rfl
@[simp] theorem putBlock_arr (s : State) (sp b : Nat) (x : Block) : (putBlock s sp b x).arr = s.arr := rfl
@[simp] theorem putBlock_disp (s : State) (sp b : Nat) (x : Block) : (putBlock s sp b x).disp = s.disp := rfl
@[simp] theorem putBlock_models (s : State) (sp b : Nat) (x : Block) : (putBlock s sp b x).models = s.models := rfl
@[simp] theorem putBlock_graphs (s : State) (sp b : Nat) (x : Block) : (putBlock s sp b x).graphs = s.graphs := rfl
@[simp] theorem putBlock_serve (s : State) (sp b : Nat) (x : Block) : (putBlock s sp b x).serve = s.serve := rfl
@[simp] theorem putBlock_graft (s : State) (sp b : Nat) (x : Block) : (putBlock s sp b x).graft = s.graft := rfl
@[simp] theorem putBlock_tier (s : State) (sp b : Nat) (x : Block) : (putBlock s sp b x).tier = s.tier := rfl
@[simp] theorem putBlock_power (s : State) (sp b : Nat) (x : Block) : (putBlock s sp b x).power = s.power := rfl
@[simp] theorem putBlock_link (s : State) (sp b : Nat) (x : Block) : (putBlock s sp b x).link = s.link := rfl
@[simp] theorem putBlock_coll (s : State) (sp b : Nat) (x : Block) : (putBlock s sp b x).coll = s.coll := rfl
@[simp] theorem putBlock_trust (s : State) (sp b : Nat) (x : Block) : (putBlock s sp b x).trust = s.trust := rfl
@[simp] theorem putBlock_ras (s : State) (sp b : Nat) (x : Block) : (putBlock s sp b x).ras = s.ras := rfl
@[simp] theorem putBlock_pins (s : State) (sp b : Nat) (x : Block) : (putBlock s sp b x).pins = s.pins := rfl

@[simp] theorem charge_pending (s : State) (res p b : Nat) : (charge s res p b).pending = s.pending := by unfold charge; split <;> rfl
@[simp] theorem charge_time (s : State) (res p b : Nat) : (charge s res p b).time = s.time := by unfold charge; split <;> rfl
@[simp] theorem charge_fresh (s : State) (res p b : Nat) : (charge s res p b).fresh = s.fresh := by unfold charge; split <;> rfl
@[simp] theorem charge_fuses (s : State) (res p b : Nat) : (charge s res p b).fuses = s.fuses := by unfold charge; split <;> rfl
@[simp] theorem charge_regs (s : State) (res p b : Nat) : (charge s res p b).regs = s.regs := by unfold charge; split <;> rfl
@[simp] theorem charge_mem (s : State) (res p b : Nat) : (charge s res p b).mem = s.mem := by unfold charge; split <;> rfl
@[simp] theorem charge_blocks (s : State) (res p b : Nat) : (charge s res p b).blocks = s.blocks := by unfold charge; split <;> rfl
@[simp] theorem charge_kct (s : State) (res p b : Nat) : (charge s res p b).kct = s.kct := by unfold charge; split <;> rfl
@[simp] theorem charge_arr (s : State) (res p b : Nat) : (charge s res p b).arr = s.arr := by unfold charge; split <;> rfl
@[simp] theorem charge_disp (s : State) (res p b : Nat) : (charge s res p b).disp = s.disp := by unfold charge; split <;> rfl
@[simp] theorem charge_models (s : State) (res p b : Nat) : (charge s res p b).models = s.models := by unfold charge; split <;> rfl
@[simp] theorem charge_graphs (s : State) (res p b : Nat) : (charge s res p b).graphs = s.graphs := by unfold charge; split <;> rfl
@[simp] theorem charge_serve (s : State) (res p b : Nat) : (charge s res p b).serve = s.serve := by unfold charge; split <;> rfl
@[simp] theorem charge_graft (s : State) (res p b : Nat) : (charge s res p b).graft = s.graft := by unfold charge; split <;> rfl
@[simp] theorem charge_power (s : State) (res p b : Nat) : (charge s res p b).power = s.power := by unfold charge; split <;> rfl
@[simp] theorem charge_link (s : State) (res p b : Nat) : (charge s res p b).link = s.link := by unfold charge; split <;> rfl
@[simp] theorem charge_coll (s : State) (res p b : Nat) : (charge s res p b).coll = s.coll := by unfold charge; split <;> rfl
@[simp] theorem charge_trust (s : State) (res p b : Nat) : (charge s res p b).trust = s.trust := by unfold charge; split <;> rfl
@[simp] theorem charge_ras (s : State) (res p b : Nat) : (charge s res p b).ras = s.ras := by unfold charge; split <;> rfl
@[simp] theorem charge_pins (s : State) (res p b : Nat) : (charge s res p b).pins = s.pins := by unfold charge; split <;> rfl

@[simp] theorem zeroBlock_pending (s : State) (sp b : Nat) : (zeroBlock s sp b).pending = s.pending := charge_pending _ _ _ _
@[simp] theorem zeroBlock_time (s : State) (sp b : Nat) : (zeroBlock s sp b).time = s.time := charge_time _ _ _ _
@[simp] theorem zeroBlock_fresh (s : State) (sp b : Nat) : (zeroBlock s sp b).fresh = s.fresh := charge_fresh _ _ _ _
@[simp] theorem zeroBlock_fuses (s : State) (sp b : Nat) : (zeroBlock s sp b).fuses = s.fuses := charge_fuses _ _ _ _
@[simp] theorem zeroBlock_regs (s : State) (sp b : Nat) : (zeroBlock s sp b).regs = s.regs := charge_regs _ _ _ _
@[simp] theorem zeroBlock_blocks (s : State) (sp b : Nat) : (zeroBlock s sp b).blocks = s.blocks := charge_blocks _ _ _ _
@[simp] theorem zeroBlock_kct (s : State) (sp b : Nat) : (zeroBlock s sp b).kct = s.kct := charge_kct _ _ _ _
@[simp] theorem zeroBlock_arr (s : State) (sp b : Nat) : (zeroBlock s sp b).arr = s.arr := charge_arr _ _ _ _
@[simp] theorem zeroBlock_disp (s : State) (sp b : Nat) : (zeroBlock s sp b).disp = s.disp := charge_disp _ _ _ _
@[simp] theorem zeroBlock_models (s : State) (sp b : Nat) : (zeroBlock s sp b).models = s.models := charge_models _ _ _ _
@[simp] theorem zeroBlock_graphs (s : State) (sp b : Nat) : (zeroBlock s sp b).graphs = s.graphs := charge_graphs _ _ _ _
@[simp] theorem zeroBlock_serve (s : State) (sp b : Nat) : (zeroBlock s sp b).serve = s.serve := charge_serve _ _ _ _
@[simp] theorem zeroBlock_graft (s : State) (sp b : Nat) : (zeroBlock s sp b).graft = s.graft := charge_graft _ _ _ _
@[simp] theorem zeroBlock_power (s : State) (sp b : Nat) : (zeroBlock s sp b).power = s.power := charge_power _ _ _ _
@[simp] theorem zeroBlock_link (s : State) (sp b : Nat) : (zeroBlock s sp b).link = s.link := charge_link _ _ _ _
@[simp] theorem zeroBlock_coll (s : State) (sp b : Nat) : (zeroBlock s sp b).coll = s.coll := charge_coll _ _ _ _
@[simp] theorem zeroBlock_trust (s : State) (sp b : Nat) : (zeroBlock s sp b).trust = s.trust := charge_trust _ _ _ _
@[simp] theorem zeroBlock_ras (s : State) (sp b : Nat) : (zeroBlock s sp b).ras = s.ras := charge_ras _ _ _ _
@[simp] theorem zeroBlock_pins (s : State) (sp b : Nat) : (zeroBlock s sp b).pins = s.pins := charge_pins _ _ _ _

@[simp] theorem setCtx_pending (s : State) (c : Nat) (x : Ctx) : (setCtx s c x).pending = s.pending := rfl
@[simp] theorem setCtx_time (s : State) (c : Nat) (x : Ctx) : (setCtx s c x).time = s.time := rfl
@[simp] theorem setCtx_fresh (s : State) (c : Nat) (x : Ctx) : (setCtx s c x).fresh = s.fresh := rfl
@[simp] theorem setCtx_fuses (s : State) (c : Nat) (x : Ctx) : (setCtx s c x).fuses = s.fuses := rfl
@[simp] theorem setCtx_regs (s : State) (c : Nat) (x : Ctx) : (setCtx s c x).regs = s.regs := rfl
@[simp] theorem setCtx_mem (s : State) (c : Nat) (x : Ctx) : (setCtx s c x).mem = s.mem := rfl
@[simp] theorem setCtx_blocks (s : State) (c : Nat) (x : Ctx) : (setCtx s c x).blocks = s.blocks := rfl
@[simp] theorem setCtx_arr (s : State) (c : Nat) (x : Ctx) : (setCtx s c x).arr = s.arr := rfl
@[simp] theorem setCtx_disp (s : State) (c : Nat) (x : Ctx) : (setCtx s c x).disp = s.disp := rfl
@[simp] theorem setCtx_models (s : State) (c : Nat) (x : Ctx) : (setCtx s c x).models = s.models := rfl
@[simp] theorem setCtx_graphs (s : State) (c : Nat) (x : Ctx) : (setCtx s c x).graphs = s.graphs := rfl
@[simp] theorem setCtx_serve (s : State) (c : Nat) (x : Ctx) : (setCtx s c x).serve = s.serve := rfl
@[simp] theorem setCtx_graft (s : State) (c : Nat) (x : Ctx) : (setCtx s c x).graft = s.graft := rfl
@[simp] theorem setCtx_tier (s : State) (c : Nat) (x : Ctx) : (setCtx s c x).tier = s.tier := rfl
@[simp] theorem setCtx_power (s : State) (c : Nat) (x : Ctx) : (setCtx s c x).power = s.power := rfl
@[simp] theorem setCtx_link (s : State) (c : Nat) (x : Ctx) : (setCtx s c x).link = s.link := rfl
@[simp] theorem setCtx_coll (s : State) (c : Nat) (x : Ctx) : (setCtx s c x).coll = s.coll := rfl
@[simp] theorem setCtx_trust (s : State) (c : Nat) (x : Ctx) : (setCtx s c x).trust = s.trust := rfl
@[simp] theorem setCtx_ras (s : State) (c : Nat) (x : Ctx) : (setCtx s c x).ras = s.ras := rfl
@[simp] theorem setCtx_pins (s : State) (c : Nat) (x : Ctx) : (setCtx s c x).pins = s.pins := rfl

@[simp] theorem modCtx_pending (s : State) (c : Nat) (f : Ctx → Ctx) : (modCtx s c f).pending = s.pending := rfl
@[simp] theorem modCtx_time (s : State) (c : Nat) (f : Ctx → Ctx) : (modCtx s c f).time = s.time := rfl
@[simp] theorem modCtx_fresh (s : State) (c : Nat) (f : Ctx → Ctx) : (modCtx s c f).fresh = s.fresh := rfl
@[simp] theorem modCtx_fuses (s : State) (c : Nat) (f : Ctx → Ctx) : (modCtx s c f).fuses = s.fuses := rfl
@[simp] theorem modCtx_regs (s : State) (c : Nat) (f : Ctx → Ctx) : (modCtx s c f).regs = s.regs := rfl
@[simp] theorem modCtx_mem (s : State) (c : Nat) (f : Ctx → Ctx) : (modCtx s c f).mem = s.mem := rfl
@[simp] theorem modCtx_blocks (s : State) (c : Nat) (f : Ctx → Ctx) : (modCtx s c f).blocks = s.blocks := rfl
@[simp] theorem modCtx_arr (s : State) (c : Nat) (f : Ctx → Ctx) : (modCtx s c f).arr = s.arr := rfl
@[simp] theorem modCtx_disp (s : State) (c : Nat) (f : Ctx → Ctx) : (modCtx s c f).disp = s.disp := rfl
@[simp] theorem modCtx_models (s : State) (c : Nat) (f : Ctx → Ctx) : (modCtx s c f).models = s.models := rfl
@[simp] theorem modCtx_graphs (s : State) (c : Nat) (f : Ctx → Ctx) : (modCtx s c f).graphs = s.graphs := rfl
@[simp] theorem modCtx_serve (s : State) (c : Nat) (f : Ctx → Ctx) : (modCtx s c f).serve = s.serve := rfl
@[simp] theorem modCtx_graft (s : State) (c : Nat) (f : Ctx → Ctx) : (modCtx s c f).graft = s.graft := rfl
@[simp] theorem modCtx_tier (s : State) (c : Nat) (f : Ctx → Ctx) : (modCtx s c f).tier = s.tier := rfl
@[simp] theorem modCtx_power (s : State) (c : Nat) (f : Ctx → Ctx) : (modCtx s c f).power = s.power := rfl
@[simp] theorem modCtx_link (s : State) (c : Nat) (f : Ctx → Ctx) : (modCtx s c f).link = s.link := rfl
@[simp] theorem modCtx_coll (s : State) (c : Nat) (f : Ctx → Ctx) : (modCtx s c f).coll = s.coll := rfl
@[simp] theorem modCtx_trust (s : State) (c : Nat) (f : Ctx → Ctx) : (modCtx s c f).trust = s.trust := rfl
@[simp] theorem modCtx_ras (s : State) (c : Nat) (f : Ctx → Ctx) : (modCtx s c f).ras = s.ras := rfl
@[simp] theorem modCtx_pins (s : State) (c : Nat) (f : Ctx → Ctx) : (modCtx s c f).pins = s.pins := rfl

@[simp] theorem put1_pending (s : State) (o : Out) : (put1 s o).pending = s.pending := rfl
@[simp] theorem put1_time (s : State) (o : Out) : (put1 s o).time = s.time := rfl
@[simp] theorem put1_fresh (s : State) (o : Out) : (put1 s o).fresh = s.fresh := rfl
@[simp] theorem put1_fuses (s : State) (o : Out) : (put1 s o).fuses = s.fuses := rfl
@[simp] theorem put1_regs (s : State) (o : Out) : (put1 s o).regs = s.regs := rfl
@[simp] theorem put1_mem (s : State) (o : Out) : (put1 s o).mem = s.mem := rfl
@[simp] theorem put1_blocks (s : State) (o : Out) : (put1 s o).blocks = s.blocks := rfl
@[simp] theorem put1_arr (s : State) (o : Out) : (put1 s o).arr = s.arr := rfl
@[simp] theorem put1_disp (s : State) (o : Out) : (put1 s o).disp = s.disp := rfl
@[simp] theorem put1_models (s : State) (o : Out) : (put1 s o).models = s.models := rfl
@[simp] theorem put1_graphs (s : State) (o : Out) : (put1 s o).graphs = s.graphs := rfl
@[simp] theorem put1_serve (s : State) (o : Out) : (put1 s o).serve = s.serve := rfl
@[simp] theorem put1_graft (s : State) (o : Out) : (put1 s o).graft = s.graft := rfl
@[simp] theorem put1_tier (s : State) (o : Out) : (put1 s o).tier = s.tier := rfl
@[simp] theorem put1_power (s : State) (o : Out) : (put1 s o).power = s.power := rfl
@[simp] theorem put1_link (s : State) (o : Out) : (put1 s o).link = s.link := rfl
@[simp] theorem put1_coll (s : State) (o : Out) : (put1 s o).coll = s.coll := rfl
@[simp] theorem put1_trust (s : State) (o : Out) : (put1 s o).trust = s.trust := rfl
@[simp] theorem put1_ras (s : State) (o : Out) : (put1 s o).ras = s.ras := rfl
@[simp] theorem put1_pins (s : State) (o : Out) : (put1 s o).pins = s.pins := rfl

@[simp] theorem wire_pending (s : State) (o : Out) : (wire s o).pending = s.pending := rfl
@[simp] theorem wire_time (s : State) (o : Out) : (wire s o).time = s.time := rfl
@[simp] theorem wire_fresh (s : State) (o : Out) : (wire s o).fresh = s.fresh := rfl
@[simp] theorem wire_fuses (s : State) (o : Out) : (wire s o).fuses = s.fuses := rfl
@[simp] theorem wire_regs (s : State) (o : Out) : (wire s o).regs = s.regs := rfl
@[simp] theorem wire_mem (s : State) (o : Out) : (wire s o).mem = s.mem := rfl
@[simp] theorem wire_blocks (s : State) (o : Out) : (wire s o).blocks = s.blocks := rfl
@[simp] theorem wire_arr (s : State) (o : Out) : (wire s o).arr = s.arr := rfl
@[simp] theorem wire_disp (s : State) (o : Out) : (wire s o).disp = s.disp := rfl
@[simp] theorem wire_models (s : State) (o : Out) : (wire s o).models = s.models := rfl
@[simp] theorem wire_graphs (s : State) (o : Out) : (wire s o).graphs = s.graphs := rfl
@[simp] theorem wire_serve (s : State) (o : Out) : (wire s o).serve = s.serve := rfl
@[simp] theorem wire_graft (s : State) (o : Out) : (wire s o).graft = s.graft := rfl
@[simp] theorem wire_tier (s : State) (o : Out) : (wire s o).tier = s.tier := rfl
@[simp] theorem wire_power (s : State) (o : Out) : (wire s o).power = s.power := rfl
@[simp] theorem wire_link (s : State) (o : Out) : (wire s o).link = s.link := rfl
@[simp] theorem wire_coll (s : State) (o : Out) : (wire s o).coll = s.coll := rfl
@[simp] theorem wire_trust (s : State) (o : Out) : (wire s o).trust = s.trust := rfl
@[simp] theorem wire_ras (s : State) (o : Out) : (wire s o).ras = s.ras := rfl
@[simp] theorem wire_pins (s : State) (o : Out) : (wire s o).pins = s.pins := rfl

@[simp] theorem setLink_pending (s : State) (n : Nat) (l : Link) : (setLink s n l).pending = s.pending := rfl
@[simp] theorem setLink_time (s : State) (n : Nat) (l : Link) : (setLink s n l).time = s.time := rfl
@[simp] theorem setLink_fresh (s : State) (n : Nat) (l : Link) : (setLink s n l).fresh = s.fresh := rfl
@[simp] theorem setLink_fuses (s : State) (n : Nat) (l : Link) : (setLink s n l).fuses = s.fuses := rfl
@[simp] theorem setLink_regs (s : State) (n : Nat) (l : Link) : (setLink s n l).regs = s.regs := rfl
@[simp] theorem setLink_mem (s : State) (n : Nat) (l : Link) : (setLink s n l).mem = s.mem := rfl
@[simp] theorem setLink_blocks (s : State) (n : Nat) (l : Link) : (setLink s n l).blocks = s.blocks := rfl
@[simp] theorem setLink_kct (s : State) (n : Nat) (l : Link) : (setLink s n l).kct = s.kct := rfl
@[simp] theorem setLink_arr (s : State) (n : Nat) (l : Link) : (setLink s n l).arr = s.arr := rfl
@[simp] theorem setLink_disp (s : State) (n : Nat) (l : Link) : (setLink s n l).disp = s.disp := rfl
@[simp] theorem setLink_models (s : State) (n : Nat) (l : Link) : (setLink s n l).models = s.models := rfl
@[simp] theorem setLink_graphs (s : State) (n : Nat) (l : Link) : (setLink s n l).graphs = s.graphs := rfl
@[simp] theorem setLink_serve (s : State) (n : Nat) (l : Link) : (setLink s n l).serve = s.serve := rfl
@[simp] theorem setLink_graft (s : State) (n : Nat) (l : Link) : (setLink s n l).graft = s.graft := rfl
@[simp] theorem setLink_tier (s : State) (n : Nat) (l : Link) : (setLink s n l).tier = s.tier := rfl
@[simp] theorem setLink_power (s : State) (n : Nat) (l : Link) : (setLink s n l).power = s.power := rfl
@[simp] theorem setLink_coll (s : State) (n : Nat) (l : Link) : (setLink s n l).coll = s.coll := rfl
@[simp] theorem setLink_trust (s : State) (n : Nat) (l : Link) : (setLink s n l).trust = s.trust := rfl
@[simp] theorem setLink_ras (s : State) (n : Nat) (l : Link) : (setLink s n l).ras = s.ras := rfl
@[simp] theorem setLink_pins (s : State) (n : Nat) (l : Link) : (setLink s n l).pins = s.pins := rfl

@[simp] theorem modLink_pending (s : State) (n : Nat) (f : Link → Link) : (modLink s n f).pending = s.pending := rfl
@[simp] theorem modLink_time (s : State) (n : Nat) (f : Link → Link) : (modLink s n f).time = s.time := rfl
@[simp] theorem modLink_fresh (s : State) (n : Nat) (f : Link → Link) : (modLink s n f).fresh = s.fresh := rfl
@[simp] theorem modLink_fuses (s : State) (n : Nat) (f : Link → Link) : (modLink s n f).fuses = s.fuses := rfl
@[simp] theorem modLink_regs (s : State) (n : Nat) (f : Link → Link) : (modLink s n f).regs = s.regs := rfl
@[simp] theorem modLink_mem (s : State) (n : Nat) (f : Link → Link) : (modLink s n f).mem = s.mem := rfl
@[simp] theorem modLink_blocks (s : State) (n : Nat) (f : Link → Link) : (modLink s n f).blocks = s.blocks := rfl
@[simp] theorem modLink_kct (s : State) (n : Nat) (f : Link → Link) : (modLink s n f).kct = s.kct := rfl
@[simp] theorem modLink_arr (s : State) (n : Nat) (f : Link → Link) : (modLink s n f).arr = s.arr := rfl
@[simp] theorem modLink_disp (s : State) (n : Nat) (f : Link → Link) : (modLink s n f).disp = s.disp := rfl
@[simp] theorem modLink_models (s : State) (n : Nat) (f : Link → Link) : (modLink s n f).models = s.models := rfl
@[simp] theorem modLink_graphs (s : State) (n : Nat) (f : Link → Link) : (modLink s n f).graphs = s.graphs := rfl
@[simp] theorem modLink_serve (s : State) (n : Nat) (f : Link → Link) : (modLink s n f).serve = s.serve := rfl
@[simp] theorem modLink_graft (s : State) (n : Nat) (f : Link → Link) : (modLink s n f).graft = s.graft := rfl
@[simp] theorem modLink_tier (s : State) (n : Nat) (f : Link → Link) : (modLink s n f).tier = s.tier := rfl
@[simp] theorem modLink_power (s : State) (n : Nat) (f : Link → Link) : (modLink s n f).power = s.power := rfl
@[simp] theorem modLink_coll (s : State) (n : Nat) (f : Link → Link) : (modLink s n f).coll = s.coll := rfl
@[simp] theorem modLink_trust (s : State) (n : Nat) (f : Link → Link) : (modLink s n f).trust = s.trust := rfl
@[simp] theorem modLink_ras (s : State) (n : Nat) (f : Link → Link) : (modLink s n f).ras = s.ras := rfl
@[simp] theorem modLink_pins (s : State) (n : Nat) (f : Link → Link) : (modLink s n f).pins = s.pins := rfl

@[simp] theorem pushRecord_pending (s : State) (b : Bytes) : (pushRecord s b).pending = s.pending := rfl
@[simp] theorem pushRecord_time (s : State) (b : Bytes) : (pushRecord s b).time = s.time := rfl
@[simp] theorem pushRecord_fresh (s : State) (b : Bytes) : (pushRecord s b).fresh = s.fresh := rfl
@[simp] theorem pushRecord_fuses (s : State) (b : Bytes) : (pushRecord s b).fuses = s.fuses := rfl
@[simp] theorem pushRecord_regs (s : State) (b : Bytes) : (pushRecord s b).regs = s.regs := rfl
@[simp] theorem pushRecord_mem (s : State) (b : Bytes) : (pushRecord s b).mem = s.mem := rfl
@[simp] theorem pushRecord_blocks (s : State) (b : Bytes) : (pushRecord s b).blocks = s.blocks := rfl
@[simp] theorem pushRecord_kct (s : State) (b : Bytes) : (pushRecord s b).kct = s.kct := rfl
@[simp] theorem pushRecord_arr (s : State) (b : Bytes) : (pushRecord s b).arr = s.arr := rfl
@[simp] theorem pushRecord_disp (s : State) (b : Bytes) : (pushRecord s b).disp = s.disp := rfl
@[simp] theorem pushRecord_models (s : State) (b : Bytes) : (pushRecord s b).models = s.models := rfl
@[simp] theorem pushRecord_graphs (s : State) (b : Bytes) : (pushRecord s b).graphs = s.graphs := rfl
@[simp] theorem pushRecord_serve (s : State) (b : Bytes) : (pushRecord s b).serve = s.serve := rfl
@[simp] theorem pushRecord_graft (s : State) (b : Bytes) : (pushRecord s b).graft = s.graft := rfl
@[simp] theorem pushRecord_tier (s : State) (b : Bytes) : (pushRecord s b).tier = s.tier := rfl
@[simp] theorem pushRecord_power (s : State) (b : Bytes) : (pushRecord s b).power = s.power := rfl
@[simp] theorem pushRecord_link (s : State) (b : Bytes) : (pushRecord s b).link = s.link := rfl
@[simp] theorem pushRecord_coll (s : State) (b : Bytes) : (pushRecord s b).coll = s.coll := rfl
@[simp] theorem pushRecord_trust (s : State) (b : Bytes) : (pushRecord s b).trust = s.trust := rfl
@[simp] theorem pushRecord_pins (s : State) (b : Bytes) : (pushRecord s b).pins = s.pins := rfl

@[simp] theorem endTask_pending (s : State) (slot x : Nat) : (endTask s slot x).pending = s.pending := rfl
@[simp] theorem endTask_time (s : State) (slot x : Nat) : (endTask s slot x).time = s.time := rfl
@[simp] theorem endTask_fresh (s : State) (slot x : Nat) : (endTask s slot x).fresh = s.fresh := rfl
@[simp] theorem endTask_fuses (s : State) (slot x : Nat) : (endTask s slot x).fuses = s.fuses := rfl
@[simp] theorem endTask_regs (s : State) (slot x : Nat) : (endTask s slot x).regs = s.regs := rfl
@[simp] theorem endTask_mem (s : State) (slot x : Nat) : (endTask s slot x).mem = s.mem := rfl
@[simp] theorem endTask_blocks (s : State) (slot x : Nat) : (endTask s slot x).blocks = s.blocks := rfl
@[simp] theorem endTask_kct (s : State) (slot x : Nat) : (endTask s slot x).kct = s.kct := rfl
@[simp] theorem endTask_arr (s : State) (slot x : Nat) : (endTask s slot x).arr = s.arr := rfl
@[simp] theorem endTask_models (s : State) (slot x : Nat) : (endTask s slot x).models = s.models := rfl
@[simp] theorem endTask_graphs (s : State) (slot x : Nat) : (endTask s slot x).graphs = s.graphs := rfl
@[simp] theorem endTask_serve (s : State) (slot x : Nat) : (endTask s slot x).serve = s.serve := rfl
@[simp] theorem endTask_graft (s : State) (slot x : Nat) : (endTask s slot x).graft = s.graft := rfl
@[simp] theorem endTask_tier (s : State) (slot x : Nat) : (endTask s slot x).tier = s.tier := rfl
@[simp] theorem endTask_power (s : State) (slot x : Nat) : (endTask s slot x).power = s.power := rfl
@[simp] theorem endTask_link (s : State) (slot x : Nat) : (endTask s slot x).link = s.link := rfl
@[simp] theorem endTask_coll (s : State) (slot x : Nat) : (endTask s slot x).coll = s.coll := rfl
@[simp] theorem endTask_trust (s : State) (slot x : Nat) : (endTask s slot x).trust = s.trust := rfl
@[simp] theorem endTask_ras (s : State) (slot x : Nat) : (endTask s slot x).ras = s.ras := rfl
@[simp] theorem endTask_pins (s : State) (slot x : Nat) : (endTask s slot x).pins = s.pins := rfl

@[simp] theorem setArr_pending (s : State) (n : Nat) (a : Arr) : (setArr s n a).pending = s.pending := rfl
@[simp] theorem setArr_time (s : State) (n : Nat) (a : Arr) : (setArr s n a).time = s.time := rfl
@[simp] theorem setArr_fresh (s : State) (n : Nat) (a : Arr) : (setArr s n a).fresh = s.fresh := rfl
@[simp] theorem setArr_fuses (s : State) (n : Nat) (a : Arr) : (setArr s n a).fuses = s.fuses := rfl
@[simp] theorem setArr_regs (s : State) (n : Nat) (a : Arr) : (setArr s n a).regs = s.regs := rfl
@[simp] theorem setArr_mem (s : State) (n : Nat) (a : Arr) : (setArr s n a).mem = s.mem := rfl
@[simp] theorem setArr_blocks (s : State) (n : Nat) (a : Arr) : (setArr s n a).blocks = s.blocks := rfl
@[simp] theorem setArr_kct (s : State) (n : Nat) (a : Arr) : (setArr s n a).kct = s.kct := rfl
@[simp] theorem setArr_disp (s : State) (n : Nat) (a : Arr) : (setArr s n a).disp = s.disp := rfl
@[simp] theorem setArr_models (s : State) (n : Nat) (a : Arr) : (setArr s n a).models = s.models := rfl
@[simp] theorem setArr_graphs (s : State) (n : Nat) (a : Arr) : (setArr s n a).graphs = s.graphs := rfl
@[simp] theorem setArr_serve (s : State) (n : Nat) (a : Arr) : (setArr s n a).serve = s.serve := rfl
@[simp] theorem setArr_graft (s : State) (n : Nat) (a : Arr) : (setArr s n a).graft = s.graft := rfl
@[simp] theorem setArr_tier (s : State) (n : Nat) (a : Arr) : (setArr s n a).tier = s.tier := rfl
@[simp] theorem setArr_power (s : State) (n : Nat) (a : Arr) : (setArr s n a).power = s.power := rfl
@[simp] theorem setArr_link (s : State) (n : Nat) (a : Arr) : (setArr s n a).link = s.link := rfl
@[simp] theorem setArr_coll (s : State) (n : Nat) (a : Arr) : (setArr s n a).coll = s.coll := rfl
@[simp] theorem setArr_trust (s : State) (n : Nat) (a : Arr) : (setArr s n a).trust = s.trust := rfl
@[simp] theorem setArr_ras (s : State) (n : Nat) (a : Arr) : (setArr s n a).ras = s.ras := rfl
@[simp] theorem setArr_pins (s : State) (n : Nat) (a : Arr) : (setArr s n a).pins = s.pins := rfl

end Sys2Proof.Machine
end

