-- ==== Sys2Proof/Laws/Registers.lean ====
section
/-! SUPPORT. Laws of bit fields and register words: what a store, a field's replacement and a count leave in every word. -/

namespace Sys2Proof.Machine

/-! ### Bit fields -/

theorem bits_lt (hi lo v : Nat) : bits hi lo v < 2 ^ (hi + 1 - lo) := Nat.mod_lt _ (Nat.two_pow_pos _)

/-- A number as what lies above a field, the field, and what lies below it. -/
theorem split_field (lo w v : Nat) : v = v / 2 ^ lo / 2 ^ w * 2 ^ w * 2 ^ lo + v / 2 ^ lo % 2 ^ w * 2 ^ lo + v % 2 ^ lo := by
  have h1 := Nat.div_add_mod v (2 ^ lo)
  have h2 := Nat.div_add_mod (v / 2 ^ lo) (2 ^ w)
  have h3 : v / 2 ^ lo * 2 ^ lo = v / 2 ^ lo / 2 ^ w * 2 ^ w * 2 ^ lo + v / 2 ^ lo % 2 ^ w * 2 ^ lo := by
    rw [← Nat.add_mul]; congr 1; rw [Nat.mul_comm (v / 2 ^ lo / 2 ^ w)]; exact h2.symm
  rw [← h3, Nat.mul_comm]; exact h1.symm

theorem setBits_eq (hi lo v x : Nat) :
    setBits hi lo v x = v / 2 ^ lo / 2 ^ (hi + 1 - lo) * 2 ^ (hi + 1 - lo) * 2 ^ lo + x % 2 ^ (hi + 1 - lo) * 2 ^ lo + v % 2 ^ lo := by
  have h := split_field lo (hi + 1 - lo) v
  simp only [setBits, bits]
  generalize hA : v / 2 ^ lo / 2 ^ (hi + 1 - lo) * 2 ^ (hi + 1 - lo) * 2 ^ lo = A at h ⊢
  generalize hB : v / 2 ^ lo % 2 ^ (hi + 1 - lo) * 2 ^ lo = B at h ⊢
  generalize hC : v % 2 ^ lo = C at h ⊢
  generalize x % 2 ^ (hi + 1 - lo) * 2 ^ lo = D
  omega

/-- What a field holds after it is replaced. -/
theorem bits_setBits_self (hi lo v x : Nat) : bits hi lo (setBits hi lo v x) = x % 2 ^ (hi + 1 - lo) := by
  rw [setBits_eq]
  have hp : 0 < 2 ^ lo := Nat.two_pow_pos _
  have hw : 0 < 2 ^ (hi + 1 - lo) := Nat.two_pow_pos _
  simp only [bits]
  rw [← Nat.add_mul, Nat.add_comm _ (v % 2 ^ lo), Nat.add_mul_div_right _ _ hp, Nat.div_eq_of_lt (Nat.mod_lt v hp), Nat.zero_add,
    Nat.add_comm, Nat.add_mul_mod_self_right, Nat.mod_mod]

theorem setBits_lt {hi lo v : Nat} (x : Nat) (hv : v < 2 ^ 32) (hl : lo ≤ hi) (hh : hi < 32) : setBits hi lo v x < 2 ^ 32 := by
  rw [setBits_eq]
  have hp : 0 < 2 ^ lo := Nat.two_pow_pos _
  have hr : v % 2 ^ lo < 2 ^ lo := Nat.mod_lt v hp
  have hx : x % 2 ^ (hi + 1 - lo) < 2 ^ (hi + 1 - lo) := Nat.mod_lt _ (Nat.two_pow_pos _)
  have hq : v / 2 ^ lo / 2 ^ (hi + 1 - lo) < 2 ^ (31 - hi) := by
    rw [Nat.div_div_eq_div_mul, ← Nat.pow_add]
    apply Nat.div_lt_of_lt_mul
    rw [← Nat.pow_add]
    have : lo + (hi + 1 - lo) + (31 - hi) = 32 := by omega
    rw [this]; exact hv
  have e : 2 ^ 32 = 2 ^ (31 - hi) * 2 ^ (hi + 1 - lo) * 2 ^ lo := by
    rw [← Nat.pow_add, ← Nat.pow_add]; congr 1; omega
  rw [e]
  generalize v / 2 ^ lo / 2 ^ (hi + 1 - lo) = q at *
  generalize 2 ^ (31 - hi) = Q at *
  generalize 2 ^ (hi + 1 - lo) = W at *
  generalize 2 ^ lo = L at *
  have h1 : (q + 1) * W * L ≤ Q * W * L := Nat.mul_le_mul_right _ (Nat.mul_le_mul_right _ hq)
  have h2 : (x % W + 1) * L ≤ W * L := Nat.mul_le_mul_right _ hx
  have h3 : (q + 1) * W * L = q * W * L + W * L := by rw [Nat.add_mul, Nat.one_mul, Nat.add_mul]
  have h4 : (x % W + 1) * L = x % W * L + L := by rw [Nat.add_mul, Nat.one_mul]
  omega

theorem testBit_setBits (hi lo v x i : Nat) :
    (setBits hi lo v x).testBit i =
      if i < lo then v.testBit i else if i < lo + (hi + 1 - lo) then x.testBit (i - lo) else v.testBit i := by
  have e : setBits hi lo v x =
      2 ^ lo * (2 ^ (hi + 1 - lo) * (v / 2 ^ lo / 2 ^ (hi + 1 - lo)) + x % 2 ^ (hi + 1 - lo)) + v % 2 ^ lo := by
    rw [setBits_eq, Nat.mul_add, Nat.mul_comm (2 ^ lo), Nat.mul_comm (2 ^ lo) (x % _), Nat.mul_comm (2 ^ (hi + 1 - lo)) (v / _ / _)]
  rw [e, Nat.testBit_two_pow_mul_add _ (Nat.mod_lt _ (Nat.two_pow_pos _))]
  by_cases h1 : i < lo
  · simp [h1, Nat.testBit_mod_two_pow]
  · rw [if_neg h1, if_neg h1, Nat.testBit_two_pow_mul_add _ (Nat.mod_lt _ (Nat.two_pow_pos _))]
    by_cases h2 : i - lo < hi + 1 - lo
    · have h3 : i < lo + (hi + 1 - lo) := by omega
      simp [h2, h3, Nat.testBit_mod_two_pow]
    · have h3 : ¬ i < lo + (hi + 1 - lo) := by omega
      rw [if_neg h2, if_neg h3]
      simp only [Nat.testBit_div_two_pow]
      congr 1
      omega

theorem testBit_bits (hi lo v i : Nat) : (bits hi lo v).testBit i = (decide (i < hi + 1 - lo) && v.testBit (lo + i)) := by
  simp [bits, Nat.testBit_mod_two_pow, Nat.testBit_div_two_pow, Nat.add_comm]

/-- A field below or above the replaced one keeps its value. -/
theorem bits_setBits_ne {hi lo hi' lo' : Nat} (v x : Nat) (h : hi' < lo ∨ hi < lo') :
    bits hi' lo' (setBits hi lo v x) = bits hi' lo' v := by
  apply Nat.eq_of_testBit_eq
  intro i
  rw [testBit_bits, testBit_bits, testBit_setBits]
  by_cases h1 : i < hi' + 1 - lo'
  · by_cases h2 : lo' + i < lo
    · simp [h2]
    · have h3 : ¬ lo' + i < lo + (hi + 1 - lo) := by omega
      simp [h2, h3]
  · simp [h1]

/-! ### Register words -/

/-- The register file is in canonical form: part of `State.tidy`. -/
theorem rd_wr {s : State} (h : s.tidy = true) (a v i : Nat) : rd (wr s a v) i = if i = a then v % 2 ^ 32 else rd s i :=
  peekReg_pokeReg (wf_regs h) a v i

theorem rd_lt (s : State) (a : Nat) : rd s a < 2 ^ 32 := peekReg_lt s.regs a

theorem rd_setFld {s : State} (h : s.tidy = true) {a hi lo : Nat} (x i : Nat) (hl : lo ≤ hi) (hh : hi < 32) :
    rd (setFld s a hi lo x) i = if i = a then setBits hi lo (rd s a) x else rd s i := by
  rw [setFld, rd_wr h]
  by_cases hi' : i = a
  · rw [if_pos hi', if_pos hi', Nat.mod_eq_of_lt (setBits_lt x (rd_lt s a) hl hh)]
  · rw [if_neg hi', if_neg hi']

theorem fld_setFld {s : State} (h : s.tidy = true) {a hi lo : Nat} (x : Nat) (hl : lo ≤ hi) (hh : hi < 32) :
    fld (setFld s a hi lo x) a hi lo = x % 2 ^ (hi + 1 - lo) := by
  rw [fld, rd_setFld h x a hl hh, if_pos rfl, bits_setBits_self]

theorem fld_setFld_ne {s : State} (h : s.tidy = true) {a hi lo i hi' lo' : Nat} (x : Nat) (hl : lo ≤ hi) (hh : hi < 32)
    (hd : i ≠ a ∨ hi' < lo ∨ hi < lo') : fld (setFld s a hi lo x) i hi' lo' = fld s i hi' lo' := by
  rw [fld, rd_setFld h x i hl hh]
  by_cases hi' : i = a
  · subst hi'; rw [if_pos rfl, bits_setBits_ne _ _ (hd.resolve_left fun h => h rfl)]; rfl
  · rw [if_neg hi']; rfl

theorem rd_bump_ne {s : State} (h : s.tidy = true) {a i : Nat} (hi lo n : Nat) (hne : i ≠ a) : rd (bump s a hi lo n) i = rd s i := by
  rw [bump, setFld, rd_wr h, if_neg hne]

theorem wr_tidy' {s : State} (h : s.tidy = true) (a v : Nat) : (wr s a v).tidy = true :=
  parts_regs h (regsWf_pokeReg (wf_regs h) _ _)

theorem rd_wr64_ne {s : State} (h : s.tidy = true) {a i : Nat} (v : Nat) (h1 : i ≠ a) (h2 : i ≠ a + 4) :
    rd (wr64 s a v) i = rd s i := by
  rw [wr64, rd_wr (wr_tidy' h _ _), if_neg h2, rd_wr h, if_neg h1]

theorem rd_bump64_ne {s : State} (h : s.tidy = true) {a i : Nat} (n : Nat) (h1 : i ≠ a) (h2 : i ≠ a + 4) :
    rd (bump64 s a n) i = rd s i := by
  have gen : ∀ c : Prop, ∀ _ : Decidable c, ∀ v, rd (if c then s else wr64 s a v) i = rd s i := by
    intro c _ v
    split
    · exact Eq.refl _
    · exact rd_wr64_ne h v h1 h2
  exact gen _ _ _

end Sys2Proof.Machine
end

