-- ==== Sys2Proof/Laws/Port.lean ====
section
/-! SUPPORT. Laws of the host port's commands: what acceptance and the one reply change. -/

namespace Sys2Proof.Machine

/-! ### Contexts -/

theorem ctxOf_setCtx_ne (s : State) {c d : Nat} (x : Ctx) (h : d ≠ c) : ctxOf (setCtx s c x) d = ctxOf s d := look_put_ne _ _ h

theorem ctxOf_modCtx_ne (s : State) {c d : Nat} (f : Ctx → Ctx) (h : d ≠ c) : ctxOf (modCtx s c f) d = ctxOf s d := by
  simp only [ctxOf, modCtx, modify]
  split
  · exact look_put_ne _ _ h
  · rfl

theorem ctxOf_modCtx (s : State) (c : Nat) (f : Ctx → Ctx) : ctxOf (modCtx s c f) c = (ctxOf s c).map f := by
  simp only [ctxOf, modCtx, modify]
  split
  · rename_i v hv; simp [hv]
  · rename_i hv; simp [hv]

/-! ### Acceptance -/

theorem wakeDevice_shape (s : State) : wakeDevice s = { s with power := (wakeDevice s).power } := by
  unfold wakeDevice; split <;> rfl

@[simp] theorem wakeDevice_regs (s : State) : (wakeDevice s).regs = s.regs := by unfold wakeDevice; split <;> rfl
@[simp] theorem wakeDevice_kct (s : State) : (wakeDevice s).kct = s.kct := by unfold wakeDevice; split <;> rfl

theorem setRate_shape (s : State) (x : Rate) : setRate s x = { s with kct := (setRate s x).kct } := rfl

theorem halveRate_shape (s : State) (d : Endpoint) : halveRate s d = { s with kct := (halveRate s d).kct } := by
  unfold halveRate
  dsimp only
  split
  · rfl
  · split <;> rfl

theorem halveRate_ctxs (s : State) (d : Endpoint) : (halveRate s d).kct.ctxs = s.kct.ctxs := by
  unfold halveRate
  dsimp only
  split
  · rfl
  · split <;> rfl

theorem halveRate_out (s : State) (d : Endpoint) :
    (halveRate s d).kct.sent = s.kct.sent ∧ (halveRate s d).kct.waiting = s.kct.waiting ∧ (halveRate s d).kct.paused = s.kct.paused := by
  unfold halveRate
  dsimp only
  split
  · exact ⟨rfl, rfl, rfl⟩
  · split <;> exact ⟨rfl, rfl, rfl⟩

theorem bump64_shape (s : State) (a n : Nat) : bump64 s a n = { s with regs := (bump64 s a n).regs } := by
  have gen : ∀ c : Prop, ∀ _ : Decidable c, ∀ v, (if c then s else wr64 s a v) = { s with regs := (if c then s else wr64 s a v).regs } := by
    intro c _ v
    split
    · exact Eq.refl _
    · exact Eq.refl _
  exact gen _ _ _

theorem fecCount_shape (s : State) (p : Pkt) : fecCount s p = { s with regs := (fecCount s p).regs } := by
  unfold fecCount
  split
  · rfl
  · rw [bump64_shape, bump64_shape s]

@[simp] theorem fecCount_kct (s : State) (p : Pkt) : (fecCount s p).kct = s.kct := by rw [fecCount_shape]
@[simp] theorem fecCount_power (s : State) (p : Pkt) : (fecCount s p).power = s.power := by rw [fecCount_shape]

/-- A word of no count of the port. -/
theorem not_portCount {a : Nat} (h : a ∉ portCounts) :
    a ≠ rHP_PERF ∧ a ≠ rHP_PERF + 4 ∧ a ≠ rHP_PERF + 8 ∧ a ≠ rHP_PERF + 12 ∧ a ≠ rHP_PERF + 32 ∧ a ≠ rHP_PERF + 36 ∧
      a ≠ rHP_PERF + 40 ∧ a ≠ rHP_PERF + 44 := by
  simpa only [portCounts, List.mem_cons, List.not_mem_nil, or_false, not_or] using h

theorem fecCount_regs {s : State} (h : s.tidy = true) (p : Pkt) {a : Nat} (ha : a ∉ portCounts) : rd (fecCount s p) a = rd s a := by
  obtain ⟨_, _, _, _, h1, h2, h3, h4⟩ := not_portCount ha
  unfold fecCount
  split
  · rfl
  · rw [rd_bump64_ne (bump64_tidy _ _ h) _ h3 (by simpa using h4), rd_bump64_ne h _ h1 (by simpa using h2)]

/-- Acceptance changes the transport's state, the port's counts and the power state. -/
theorem arrived_shape (s : State) (r : Req) :
    arrived s r = { s with kct := (arrived s r).kct, regs := (arrived s r).regs, power := (arrived s r).power } := by
  unfold arrived
  split
  · rfl
  · dsimp only
    generalize hb : bump64 (fecCount (wakeDevice s) r.pkt) rHP_PERF (32 + r.pkt.payload.length) = b
    have hb' : b = { s with regs := b.regs, power := b.power } := by
      rw [← hb, bump64_shape, fecCount_shape, wakeDevice_shape]
    split
    · rw [halveRate_shape]
      split
      · rw [hb']
      · rw [hb']
    · split
      · rw [hb']
      · rw [hb']

theorem arrived_regs {s : State} (h : s.tidy = true) (r : Req) {a : Nat} (ha : a ∉ portCounts) :
    rd (arrived s r) a = rd s a := by
  obtain ⟨h1, h2, _⟩ := not_portCount ha
  unfold arrived
  split
  · rfl
  · dsimp only
    have hw : (wakeDevice s).tidy = true := wakeDevice_tidy h
    have e := rd_bump64_ne (fecCount_tidy r.pkt hw) (32 + r.pkt.payload.length) h1 h2
    generalize bump64 (fecCount (wakeDevice s) r.pkt) rHP_PERF (32 + r.pkt.payload.length) = b at e ⊢
    have e2 : rd b a = rd s a := by rw [e, fecCount_regs hw r.pkt ha, rd, wakeDevice_regs]; rfl
    split
    · rw [halveRate_shape]
      split <;> exact e2
    · split <;> exact e2

/-- Acceptance leaves every context's entry and what the port was given. -/
theorem arrived_kct (s : State) (r : Req) :
    (arrived s r).kct.ctxs = s.kct.ctxs ∧ (arrived s r).kct.sent = s.kct.sent ∧ (arrived s r).kct.waiting = s.kct.waiting ∧
      (arrived s r).kct.paused = s.kct.paused := by
  unfold arrived
  split
  · exact ⟨rfl, rfl, rfl, rfl⟩
  · dsimp only
    have hb : (bump64 (fecCount (wakeDevice s) r.pkt) rHP_PERF (32 + r.pkt.payload.length)).kct = s.kct := by simp
    generalize bump64 (fecCount (wakeDevice s) r.pkt) rHP_PERF (32 + r.pkt.payload.length) = b at hb ⊢
    split
    · rw [halveRate_ctxs]
      obtain ⟨e1, e2, e3⟩ := halveRate_out (if (r.pkt.ce && !b.kct.ece.contains r.pkt.src) = true then
        { b with kct := { b.kct with ece := r.pkt.src :: b.kct.ece } } else b) r.pkt.src
      rw [e1, e2, e3]
      split <;> simp [hb]
    · split <;> simp [hb]

theorem accepted_shape (s : State) (r : Req) :
    accepted s r = { s with kct := (accepted s r).kct, regs := (accepted s r).regs, power := (accepted s r).power } := by
  have e := arrived_shape s r
  unfold accepted modCtx
  rw [e]

theorem accepted_regs {s : State} (h : s.tidy = true) (r : Req) {a : Nat} (ha : a ∉ portCounts) :
    rd (accepted s r) a = rd s a := arrived_regs h r ha

theorem accepted_ctx_ne (s : State) (r : Req) {d : Nat} (h : d ≠ r.pkt.hdr.ctx) : ctxOf (accepted s r) d = ctxOf s d := by
  rw [accepted, ctxOf_modCtx_ne _ _ h]
  simp only [ctxOf, (arrived_kct s r).1]

theorem accepted_out (s : State) (r : Req) :
    (accepted s r).kct.sent = s.kct.sent ∧ (accepted s r).kct.waiting = s.kct.waiting ∧ (accepted s r).kct.paused = s.kct.paused :=
  (arrived_kct s r).2

theorem arrived_power (s : State) (r : Req) (hv : r.via = none) : (arrived s r).power = (wakeDevice s).power := by
  unfold arrived
  rw [hv]
  dsimp only [Option.isSome]
  have hb : (bump64 (fecCount (wakeDevice s) r.pkt) rHP_PERF (32 + r.pkt.payload.length)).power = (wakeDevice s).power := by simp
  generalize bump64 (fecCount (wakeDevice s) r.pkt) rHP_PERF (32 + r.pkt.payload.length) = b at hb ⊢
  rw [if_neg (by simp)]
  split
  · rw [halveRate_shape]
    split <;> exact hb
  · split <;> exact hb

theorem accepted_power (s : State) (r : Req) (hv : r.via = none) : (accepted s r).power = (wakeDevice s).power := arrived_power s r hv

/-! ### The port -/

theorem hostSend_shape (s : State) (o : Out) : hostSend s o = { s with kct := (hostSend s o).kct, regs := (hostSend s o).regs } := by
  unfold hostSend
  split
  · rfl
  · split
    · rfl
    · rw [bump64_shape]; rfl

theorem hostSend_regs {s : State} (h : s.tidy = true) (o : Out) {a : Nat} (h1 : a ≠ rHP_PERF + 8) (h2 : a ≠ rHP_PERF + 8 + 4) :
    rd (hostSend s o) a = rd s a := by
  unfold hostSend
  split
  · rfl
  · split
    · rfl
    · rw [rd_bump64_ne (wire_tidy _ h) _ h1 h2]; rfl

theorem hostSend_ctxs (s : State) (o : Out) : (hostSend s o).kct.ctxs = s.kct.ctxs := by
  unfold hostSend
  split
  · rfl
  · split
    · rfl
    · rw [bump64_kct]; rfl

theorem sendSegment_shape (s : State) (x : OutXfer) (i : Nat) (hv : x.via = none) :
    sendSegment s x i = { s with kct := (sendSegment s x i).kct, regs := (sendSegment s x i).regs } := by
  unfold sendSegment emit
  dsimp only
  rw [hv]
  dsimp only
  rw [hostSend_shape]
  rfl

theorem shape_trans {s t u : State} (h1 : t = { s with kct := t.kct, regs := t.regs }) (h2 : u = { t with kct := u.kct, regs := u.regs }) :
    u = { s with kct := u.kct, regs := u.regs } := by
  rw [h1] at h2; exact h2

theorem pump_shape (n : Nat) : ∀ (s : State) (x : OutXfer), x.via = none →
    (pump s x n).1 = { s with kct := (pump s x n).1.kct, regs := (pump s x n).1.regs } := by
  induction n with
  | zero => intros; rfl
  | succ n ih =>
    intro s x hv
    unfold pump
    split
    · exact shape_trans (sendSegment_shape s x x.next hv) (ih _ _ hv)
    · rfl

/-- The reply of a command of the host port changes the transport's state and the port's counts. -/
theorem replyTo_shape (s : State) (r : Req) (st d : Nat) (pl : Bytes) (hv : r.via = none) :
    replyTo s r st d pl = { s with kct := (replyTo s r st d pl).kct, regs := (replyTo s r st d pl).regs } := by
  have hm : ∀ (s : State) (f : Ctx → Ctx), modCtx s r.pkt.hdr.ctx f = { s with kct := (modCtx s r.pkt.hdr.ctx f).kct } := fun _ _ => rfl
  unfold replyTo
  dsimp only
  generalize hs1 : modCtx s r.pkt.hdr.ctx (fun x => { x with started := x.started.erase r.pkt.hdr.seq }) = s1
  have e1 : s1 = { s with kct := s1.kct } := by rw [← hs1, hm]
  split
  · unfold emit
    dsimp only
    rw [hv]
    dsimp only
    rw [hostSend_shape]
    split
    · rw [hm]; unfold takeEce; dsimp only; rw [e1]
    · unfold takeEce; dsimp only; rw [e1]
  · split
    · unfold emit
      dsimp only
      rw [hv]
      dsimp only
      rw [hostSend_shape]
      unfold takeEce
      dsimp only
      rw [e1]
    · unfold beginXfer
      dsimp only
      rw [pump_shape _ _ _ hv]
      rw [e1]

/-- The fields of the transport that a reply does not move. -/
theorem emit_regs {s : State} (h : s.tidy = true) (o : OutPkt) (hv : o.via = none) {a : Nat} (h1 : a ≠ rHP_PERF + 8) (h2 : a ≠ rHP_PERF + 8 + 4) :
    rd (emit s o) a = rd s a := by
  unfold emit; rw [hv]; exact hostSend_regs h _ h1 h2

theorem emit_ctxs (s : State) (o : OutPkt) (hv : o.via = none) : (emit s o).kct.ctxs = s.kct.ctxs := by
  unfold emit; rw [hv]; exact hostSend_ctxs _ _

theorem takeEce_tidy' {s : State} (h : s.tidy = true) (d : Endpoint) : (takeEce s d).2.tidy = true := tidy_of_eq h rfl rfl

theorem pump_regs (n : Nat) : ∀ {s : State} (x : OutXfer), s.tidy = true → x.via = none → ∀ {a : Nat}, a ≠ rHP_PERF + 8 → a ≠ rHP_PERF + 8 + 4 →
    rd (pump s x n).1 a = rd s a := by
  induction n with
  | zero => intros; rfl
  | succ n ih =>
    intro s x h hv a h1 h2
    unfold pump
    split
    · rw [ih { x with next := x.next + 1 } (sendSegment_tidy x x.next h) hv h1 h2]
      unfold sendSegment
      exact emit_regs (takeEce_tidy' h _) _ hv h1 h2
    · rfl

theorem pump_ctxs (n : Nat) : ∀ {s : State} (x : OutXfer), x.via = none → (pump s x n).1.kct.ctxs = s.kct.ctxs := by
  induction n with
  | zero => intros; rfl
  | succ n ih =>
    intro s x hv
    unfold pump
    split
    · rw [ih { x with next := x.next + 1 } hv]
      unfold sendSegment
      exact emit_ctxs _ _ hv
    · rfl

theorem replyTo_regs {s : State} (h : s.tidy = true) (r : Req) (st d : Nat) (pl : Bytes) (hv : r.via = none) {a : Nat}
    (h1 : a ≠ rHP_PERF + 8) (h2 : a ≠ rHP_PERF + 8 + 4) : rd (replyTo s r st d pl) a = rd s a := by
  unfold replyTo
  dsimp only
  have e1 : (modCtx s r.pkt.hdr.ctx fun x => { x with started := x.started.erase r.pkt.hdr.seq }).tidy = true := tidy_of_eq h rfl rfl
  have e2 : rd (modCtx s r.pkt.hdr.ctx fun x => { x with started := x.started.erase r.pkt.hdr.seq }) a = rd s a := rfl
  generalize (modCtx s r.pkt.hdr.ctx fun x => { x with started := x.started.erase r.pkt.hdr.seq }) = s1 at e1 e2 ⊢
  split
  · rw [emit_regs ?_ _ hv h1 h2]
    · split <;> exact e2
    · split
      · exact tidy_of_eq e1 rfl rfl
      · exact takeEce_tidy' e1 _
  · split
    · rw [emit_regs (takeEce_tidy' e1 _) _ hv h1 h2]; exact e2
    · unfold beginXfer
      dsimp only
      rw [← e2]
      exact pump_regs 257 _ e1 hv h1 h2

theorem replyTo_ctx_ne (s : State) (r : Req) (st d : Nat) (pl : Bytes) (hv : r.via = none) {c : Nat} (hc : c ≠ r.pkt.hdr.ctx) :
    ctxOf (replyTo s r st d pl) c = ctxOf s c := by
  unfold replyTo
  dsimp only
  have e1 : ctxOf (modCtx s r.pkt.hdr.ctx fun x => { x with started := x.started.erase r.pkt.hdr.seq }) c = ctxOf s c := ctxOf_modCtx_ne _ _ hc
  generalize (modCtx s r.pkt.hdr.ctx fun x => { x with started := x.started.erase r.pkt.hdr.seq }) = s1 at e1 ⊢
  split
  · rw [ctxOf, emit_ctxs _ _ hv]
    split
    · exact (ctxOf_modCtx_ne _ _ hc).trans e1
    · exact e1
  · split
    · rw [ctxOf, emit_ctxs _ _ hv]; exact e1
    · unfold beginXfer
      dsimp only
      rw [← e1]
      simp only [ctxOf]
      rw [pump_ctxs _ _ hv]

/-- What the host port is given last by a packet it may send or must keep. -/
theorem lastOut_hostSend {s : State} (h : s.tidy = true) (o : Out) (hp : portUp s = true) (ha : hasAddr s = true) :
    lastOut (hostSend s o) = some o := by
  unfold hostSend
  rw [hp, ha]
  simp only [Bool.not_true, Bool.or_self, Bool.false_eq_true, if_false]
  by_cases hq : paused s = true
  · have e : paused { s with kct := { s.kct with waiting := s.kct.waiting ++ [o] } } = true := hq
    rw [if_pos hq, lastOut, if_pos e]
    simp
  · have e0 : rd (bump64 (wire s o) (rHP_PERF + 8) (outBytes o)) rHP_CFG = rd s rHP_CFG := by
      rw [rd_bump64_ne (wire_tidy _ h) _ (by decide) (by decide)]; rfl
    have e : paused (bump64 (wire s o) (rHP_PERF + 8) (outBytes o)) = paused s := by
      simp only [paused, hpFld, hpWord, e0, bump64_kct]; rfl
    rw [if_neg hq, lastOut, e, if_neg hq, bump64_kct]
    rfl

/-- A reply that fits one packet. -/
theorem replyTo_answered {s : State} (h : s.tidy = true) (op : Nat) (p : Pkt) (st d : Nat) (pl : Bytes) (hp : portUp s = true)
    (ha : hasAddr s = true) (hf : pl.length ≤ pathMax s p.src) : Answered (replyTo s (rowReq op p) st d pl) op p st d pl := by
  unfold replyTo
  dsimp only
  have e1 : (modCtx s (rowReq op p).pkt.hdr.ctx fun x => { x with started := x.started.erase (rowReq op p).pkt.hdr.seq }).tidy = true :=
    tidy_of_eq h rfl rfl
  have e2 : portUp (modCtx s (rowReq op p).pkt.hdr.ctx fun x => { x with started := x.started.erase (rowReq op p).pkt.hdr.seq }) = true := hp
  have e3 : hasAddr (modCtx s (rowReq op p).pkt.hdr.ctx fun x => { x with started := x.started.erase (rowReq op p).pkt.hdr.seq }) = true := ha
  have e4 : pathMax (modCtx s (rowReq op p).pkt.hdr.ctx fun x => { x with started := x.started.erase (rowReq op p).pkt.hdr.seq }) p.src =
      pathMax s p.src := rfl
  generalize (modCtx s (rowReq op p).pkt.hdr.ctx fun x => { x with started := x.started.erase (rowReq op p).pkt.hdr.seq }) = s1 at e1 e2 e3 e4 ⊢
  have hf' : pl.length ≤ pathMax s1 (rowReq op p).pkt.src := by
    show pl.length ≤ pathMax s1 p.src
    rw [e4]; exact hf
  rw [if_pos hf']
  unfold emit
  dsimp only [rowReq]
  refine ⟨_, lastOut_hostSend ?_ _ ?_ ?_, ?_⟩
  · split
    · exact tidy_of_eq e1 rfl rfl
    · exact takeEce_tidy' e1 _
  · split <;> exact e2
  · split <;> exact e3
  · unfold IsReply
    exact ⟨rfl, rfl, rfl, rfl, rfl, rfl, rfl, rfl, rfl, rfl, rfl, rfl, rfl, rfl⟩

/-! ### Commands of the host port -/

theorem bits_bit_lt (i v : Nat) : bits i i v < 2 := by
  have := bits_lt i i v
  have e : i + 1 - i = 1 := by omega
  rw [e] at this; exact this

/-- A command that runs came through a port that is up and has an address, of a device that is not Off. -/
theorem runs_port {s : State} {op : Nat} {p : Pkt} (h : Runs s op p) : portUp s = true ∧ hasAddr s = true ∧ s.power.dev ≠ .off := by
  have hv := h.2.1
  unfold verdict at hv
  simp only [rowReq, Option.isSome, Bool.false_eq_true, if_false] at hv
  split at hv
  · cases hv
  · rename_i hn
    simp only [Bool.or_eq_true, beq_iff_eq, Bool.not_eq_true', not_or] at hn
    refine ⟨by simpa using hn.1.2, ?_, by simpa using hn.1.1⟩
    have := bits_bit_lt 3 (rd s rHP_STAT)
    have h0 : fld s rHP_STAT 3 3 ≠ 0 := hn.2
    simp only [hasAddr, beq_iff_eq]
    simp only [fld] at h0 ⊢
    omega

theorem atRun_tidy {s : State} (h : s.tidy = true) (op : Nat) (p : Pkt) : (atRun s op p).tidy = true := accepted_tidy _ h

theorem atRun_port {s : State} (h : s.tidy = true) {op : Nat} {p : Pkt} (hr : Runs s op p) :
    portUp (atRun s op p) = true ∧ hasAddr (atRun s op p) = true := by
  have e : rd (atRun s op p) rHP_STAT = rd s rHP_STAT := accepted_regs h _ (by decide)
  obtain ⟨h1, h2, _⟩ := runs_port hr
  exact ⟨by simpa only [portUp, fld, e] using h1, by simpa only [hasAddr, fld, e] using h2⟩

/-- The run of a command that is received and run at once. -/
theorem receive_runs {s : State} {op : Nat} {p : Pkt} (h : Runs s op p) (run : State → Req → State) :
    receive s op p run = run (atRun s op p) (rowReq op p) := by
  obtain ⟨h1, h2, h3⟩ := h
  unfold receive receiveWith
  rw [h1, h2]
  simp only [Option.isSome, Bool.false_eq_true, if_false]
  have e : (rowReq op p).pkt.hdr.seg = false := h3
  simp only [e, Bool.false_and, Bool.false_eq_true, if_false]
  rfl

/-! ### What carries a command -/

/-- The part of the transport that a packet sent may change. -/
def sameTransport (k l : Kct) : Prop :=
  l = { k with ctxs := l.ctxs, outX := l.outX, rates := l.rates, ece := l.ece, waiting := l.waiting, sent := l.sent, tags := l.tags }

theorem sameTransport_refl (k : Kct) : sameTransport k k := rfl

theorem sameTransport_trans {k l m : Kct} (h1 : sameTransport k l) (h2 : sameTransport l m) : sameTransport k m := by
  unfold sameTransport at *; rw [h1] at h2; exact h2

theorem arrived_transport (s : State) (r : Req) : sameTransport s.kct (arrived s r).kct := by
  unfold arrived
  split
  · rfl
  · dsimp only
    have hb : (bump64 (fecCount (wakeDevice s) r.pkt) rHP_PERF (32 + r.pkt.payload.length)).kct = s.kct := by simp
    generalize bump64 (fecCount (wakeDevice s) r.pkt) rHP_PERF (32 + r.pkt.payload.length) = b at hb ⊢
    have hh : ∀ x : State, sameTransport x.kct (halveRate x r.pkt.src).kct := by
      intro x
      unfold halveRate
      dsimp only
      split
      · rfl
      · split <;> rfl
    rw [← hb]
    split
    · refine sameTransport_trans ?_ (hh _)
      split <;> rfl
    · split <;> rfl

theorem hostSend_transport (s : State) (o : Out) : sameTransport s.kct (hostSend s o).kct := by
  unfold hostSend
  split
  · rfl
  · split
    · rfl
    · rw [bump64_kct]; rfl

theorem sendSegment_transport (s : State) (x : OutXfer) (i : Nat) (hv : x.via = none) : sameTransport s.kct (sendSegment s x i).kct := by
  unfold sendSegment emit
  dsimp only
  rw [hv]
  exact sameTransport_trans (k := s.kct) (l := (takeEce s x.dst).2.kct) rfl (hostSend_transport _ _)

theorem pump_transport (n : Nat) : ∀ (s : State) (x : OutXfer), x.via = none → sameTransport s.kct (pump s x n).1.kct := by
  induction n with
  | zero => intros; rfl
  | succ n ih =>
    intro s x hv
    unfold pump
    split
    · exact sameTransport_trans (sendSegment_transport s x x.next hv) (ih _ _ hv)
    · rfl

theorem replyTo_transport (s : State) (r : Req) (st d : Nat) (pl : Bytes) (hv : r.via = none) :
    sameTransport s.kct (replyTo s r st d pl).kct := by
  unfold replyTo
  dsimp only
  generalize hs1 : modCtx s r.pkt.hdr.ctx (fun x => { x with started := x.started.erase r.pkt.hdr.seq }) = s1
  have e1 : sameTransport s.kct s1.kct := by rw [← hs1]; rfl
  refine sameTransport_trans e1 ?_
  split
  · unfold emit
    dsimp only
    rw [hv]
    refine sameTransport_trans ?_ (hostSend_transport _ _)
    split <;> rfl
  · split
    · unfold emit
      dsimp only
      rw [hv]
      exact sameTransport_trans (k := s1.kct) (l := (takeEce s1 r.pkt.src).2.kct) rfl (hostSend_transport _ _)
    · unfold beginXfer
      dsimp only
      exact sameTransport_trans (pump_transport 257 _ _ hv) rfl

theorem map_core_modCtx (s : State) (c : Nat) (f : Ctx → Ctx) (h : ∀ x, ctxCore (f x) = ctxCore x) :
    (ctxOf (modCtx s c f) c).map ctxCore = (ctxOf s c).map ctxCore := by
  rw [ctxOf_modCtx, Option.map_map]
  congr 1
  funext x; exact h x

theorem accepted_core (s : State) (r : Req) :
    (ctxOf (accepted s r) r.pkt.hdr.ctx).map ctxCore = (ctxOf s r.pkt.hdr.ctx).map ctxCore := by
  unfold accepted
  rw [map_core_modCtx _ _ _ (by intro x; rfl)]
  simp only [ctxOf, (arrived_kct s r).1]

theorem replyTo_core (s : State) (r : Req) (st d : Nat) (pl : Bytes) (hv : r.via = none) :
    (ctxOf (replyTo s r st d pl) r.pkt.hdr.ctx).map ctxCore = (ctxOf s r.pkt.hdr.ctx).map ctxCore := by
  unfold replyTo
  dsimp only
  have e1 : (ctxOf (modCtx s r.pkt.hdr.ctx fun x => { x with started := x.started.erase r.pkt.hdr.seq }) r.pkt.hdr.ctx).map ctxCore =
      (ctxOf s r.pkt.hdr.ctx).map ctxCore := map_core_modCtx _ _ _ (by intro x; rfl)
  generalize (modCtx s r.pkt.hdr.ctx fun x => { x with started := x.started.erase r.pkt.hdr.seq }) = s1 at e1 ⊢
  rw [← e1]
  split
  · rw [ctxOf, emit_ctxs _ _ hv]
    split
    · exact map_core_modCtx _ _ _ (by intro x; rfl)
    · rfl
  · split
    · rw [ctxOf, emit_ctxs _ _ hv]; rfl
    · unfold beginXfer
      dsimp only
      simp only [ctxOf]
      rw [pump_ctxs _ _ hv]

theorem accepted_transport (s : State) (r : Req) : sameTransport s.kct (accepted s r).kct :=
  sameTransport_trans (arrived_transport s r) rfl

theorem atRun_held (s : State) (op : Nat) (p : Pkt) : (atRun s op p).kct.held = s.kct.held := by
  have e := accepted_transport s (rowReq op p)
  unfold sameTransport at e
  unfold atRun
  rw [e]

theorem atRun_hpFld {s : State} (h : s.tidy = true) (op : Nat) (p : Pkt) {a : Nat} (ha : a ∉ portCounts) (hi lo : Nat) :
    hpFld (atRun s op p) a hi lo = hpFld s a hi lo := by
  have e : rd (atRun s op p) a = rd s a := accepted_regs h _ ha
  simp only [hpFld, hpWord, e, atRun_held]

theorem atRun_pathMax {s : State} (h : s.tidy = true) (op : Nat) (p : Pkt) (d : Endpoint) :
    pathMax (atRun s op p) d = pathMax s d := by
  simp only [pathMax, atRun_hpFld h op p (show rHP_CFG2 ∉ portCounts by decide)]

/-- Acceptance only carries. -/
theorem atRun_carried {s : State} (h : s.tidy = true) (op : Nat) (p : Pkt) : OnlyCarried s (atRun s op p) p := by
  refine ⟨?_, ?_, ?_, ?_⟩
  · have e1 := accepted_shape s (rowReq op p)
    rw [accepted_power s (rowReq op p) rfl] at e1
    have e2 := accepted_transport s (rowReq op p)
    unfold atRun
    unfold sameTransport at e2
    generalize accepted s (rowReq op p) = t at e1 e2 ⊢
    rw [← e2]
    exact e1
  · intro a ha
    exact accepted_regs h _ ha
  · intro c hc; exact accepted_ctx_ne s (rowReq op p) hc
  · exact accepted_core s (rowReq op p)

/-- A reply to what only carried still only carries. -/
theorem replyTo_carried {u v : State} {p : Pkt} (h : v.tidy = true) (hc : OnlyCarried u v p) (op st d : Nat) (pl : Bytes) :
    OnlyCarried u (replyTo v (rowReq op p) st d pl) p := by
  obtain ⟨h1, h2, h3, h4⟩ := hc
  refine ⟨?_, ?_, ?_, ?_⟩
  · have e1 := replyTo_shape v (rowReq op p) st d pl rfl
    have e2 := replyTo_transport v (rowReq op p) st d pl rfl
    have e3 : sameTransport u.kct v.kct := by
      unfold sameTransport
      have := congrArg State.kct h1
      exact this
    have e4 := sameTransport_trans e3 e2
    unfold sameTransport at e4
    generalize replyTo v (rowReq op p) st d pl = t at e1 e4 ⊢
    rw [← e4, e1, h1]
  · intro a ha
    have hn := not_portCount ha
    rw [replyTo_regs h _ _ _ _ rfl hn.2.2.1 (by simpa using hn.2.2.2.1)]
    exact h2 a ha
  · intro c hcc
    rw [replyTo_ctx_ne _ _ _ _ _ rfl hcc]
    exact h3 c hcc
  · exact (replyTo_core v (rowReq op p) st d pl rfl).trans h4

/-- A command that only answers. -/
theorem reply_only {s : State} (h : s.tidy = true) {op : Nat} {p : Pkt} (hr : Runs s op p) (st d : Nat) (pl : Bytes)
    (hf : pl.length ≤ pathMax s p.src) :
    Answered (replyTo (atRun s op p) (rowReq op p) st d pl) op p st d pl ∧
      OnlyCarried s (replyTo (atRun s op p) (rowReq op p) st d pl) p := by
  obtain ⟨hp, ha⟩ := atRun_port h hr
  exact ⟨replyTo_answered (atRun_tidy h op p) op p st d pl hp ha (by rw [atRun_pathMax h]; exact hf),
    replyTo_carried (atRun_tidy h op p) (atRun_carried h op p) op st d pl⟩

/-- A command whose effect turns `s` into `u` and what acceptance left into `v`, then answers OK. -/
theorem done_of {u v : State} {op : Nat} {p : Pkt} (h : v.tidy = true) (hc : OnlyCarried u v p) (hp : portUp v = true)
    (ha : hasAddr v = true) (pl : Bytes) (hf : pl.length ≤ pathMax v p.src) :
    Done (replyTo v (rowReq op p) stOK 0 pl) op p u pl :=
  ⟨replyTo_answered h op p stOK 0 pl hp ha hf, replyTo_carried h hc op stOK 0 pl⟩

end Sys2Proof.Machine
end

