-- ==== Sys2Proof/Tests/Slice0.lean ====
section
/-! SUPPORT. Tests. For each statement with hypotheses a state and operands that meet them, clause by clause; a term that is not
well formed for each check of `Instr.wf`; and values of the spec's tables and formulas. -/

namespace Sys2Proof.Tests

set_option Elab.async false

open Sys2Proof.Machine

/-! ### A module in service -/

/-- The host of these tests, an IPv4 endpoint. -/
def host : Endpoint := { fam := 4, addr := 0x0A000009, port := 50000 }

/-- A header in context `c` with a sequence. -/
def hdr (c seq n : Nat) : Hdr :=
  { version := 1, reply := false, event := false, ack := false, seg := false, stream := false, ece := false, proxy := false, rsv := 0,
    ctx := c, token := 0, seq := BitVec.ofNat 32 seq, opcode := 0, status := 0, detail := 0, hostTag := 0, plen := n, segment := 0,
    segLast := 0, credit := 0, proxySlot := 0 }

/-- A good packet in context 0 with sequence 1. -/
def pkt (pl : Bytes) : Pkt :=
  { src := host, dport := 0xB8CF, frame := .good, ce := false, hdr := hdr 0 1 pl.length, payload := pl }

/-- A packet with an opcode in its header. -/
def opPkt (op : Nat) (pl : Bytes) : Pkt := { pkt pl with hdr := { hdr 0 1 pl.length with opcode := op } }

/-- Bytes of a list of numbers. -/
def bytes (l : List Nat) : Bytes := l.map (BitVec.ofNat 8)

/-- `n` bytes of 0 with fields written in: offset, width in bytes, value. -/
def mk (n : Nat) (fs : List (Nat × Nat × Nat)) : Bytes :=
  fs.foldl (fun b f => b.take f.1 ++ toLE f.2.1 f.2.2 ++ b.drop (f.1 + f.2.1)) (zeros n)

/-- A module with its host port up, the whole of both tiers in service, in slot 2 at board position 1. -/
def up : State :=
  { State.reset with
    regs := [(0x10004, 0xA04B0), (0x20000, 0xFF), (0x20004, 0xB8CF0000), (0x20008, 0x2400), (0x30300, 0xA0101), (0x40000, 0x10080FF),
             (0x50000, 0x18FFFFFF), (0x90000, 0x10001000), (0xA0000, 0x10000032), (0xA0004, 0x800), (0xA0008, 0x4000)]
    power := { Power.zero with dev := .active, due := false }
    trust := { Trust.zero with ready := true } }

/-- A register word given another value. -/
def withReg (s : State) (a v : Nat) : State := wr s a v

/-- Bytes stored in a memory of the module. -/
def withMem (s : State) (sp a : Nat) (b : Bytes) : State := st s sp a b

/-- Blocks 0 to `n - 1` of a space granted to a context. -/
def withBlocks (s : State) (c sp n : Nat) : State :=
  (List.range n).foldl (fun s b => putBlock s sp b { owner := some c, granted := true, withdrawn := false, repaired := false }) s

/-- A word that does not decode: line `l` of a space. -/
def withBad (s : State) (sp l : Nat) : State := { s with mem := { s.mem with bad := [(sp, l)] } }

/-- Instance 1 of context 0, of `n` tasks, its image at near-tier address 0. -/
def inst1 (n : Nat) : Inst :=
  { (default : Inst) with num := 1, tier := 1, hdr := { (default : GHdr) with fmt := 1, tasks := n }, failTask := 0xFFFFFFFF }

/-- A task of instance 1 in slot 0 of the window, ready. -/
def slot1 (d : Bytes) (rel : Bool) (res : Option Nat) : Slot :=
  { inst := 1, index := 0, desc := d, ready := true, released := rel, forceRef := false, result := res }

/-- That task released, its descriptor `d`, in an instance of two tasks. -/
def withTask (s : State) (d : Bytes) : State :=
  { s with disp := { s.disp with insts := [{ inst1 2 with admitted := 2 }], window := [(0, slot1 d true none)], nextNum := 2 } }

/-! ### The step -/

theorem test_stepRunsFrontCommand_premises : ({ up with pending := [.bypass] } : State).pending = .bypass :: [] := by decide +kernel

theorem test_idleTick_premises :
    up.tidy = true ∧ up.pending = [] ∧ up.trust.attests = [] ∧ up.ras.march = none ∧ up.power.dev ≠ .quiet ∧
      look up.tier.buckets 0 = none ∧ pinLoss up = none ∧ up.link.links = [] ∧ up.disp.window = [] ∧ ({ up with power := { up.power with dev := .quiet } } : State).power.dev = .quiet := by
  decide +kernel

theorem test_keepsTidy_premises : State.reset.tidy = true ∧ ∃ t, step State.reset = .next t := ⟨by decide +kernel, _, rfl⟩

/-! ### The host port's commands -/

/-- Context 0 with H at 5000. -/
def far5000 : State := { up with kct := { up.kct with ctxs := [(0, { Ctx.zero with h := 5000, seen := [5000] })] } }

theorem test_receiveChecks_premises :
    let good := fun p : Pkt => p.frame = .good ∧ p.dport = hpFld up rHP_CFG 31 16 ∧ p.payload.length = p.hdr.plen ∧ p.hdr.plen ≤ 8192
    let current := fun p : Pkt => up.trust.running.kctMin ≤ p.hdr.version ∧ p.hdr.version ≤ up.trust.running.kctMax
    up.tidy = true ∧ up.trust.handover = none ∧ up.power.dev ≠ .off ∧ portUp up = true ∧ hasAddr up = true ∧
    (pkt []).vlan = hpFld up rHP_CFG 15 4 ∧ ({ pkt [] with vlan := 9 } : Pkt).vlan ≠ hpFld up rHP_CFG 15 4 ∧
    ({ pkt [] with frame := .badFrame } : Pkt).frame = .badFrame ∧
    (good { pkt [] with hdr := hdr 9 1 0 } ∧ current (pkt []) ∧ ctxOf up 9 = none) ∧
    (ctxOf up 0 = some Ctx.zero ∧ Ctx.zero.closing = [] ∧ up.trust.recovery = false ∧ good (pkt []) ∧
      ({ hdr 0 1 0 with token := 7 } : Hdr).token ≠ tokenOf up 0 ∧ (pkt []).hdr.token = tokenOf up 0 ∧
      headerClean { hdr 0 1 0 with status := 1 } = false ∧ headerClean (hdr 0 1 0) = true) ∧
    (permitted up 0 (opPkt 0x7F [0]).hdr.opcode = false ∧ permitted up 0 opTIME = true ∧ lengthOk opTIME [0] = false) ∧
    (far5000.tidy = true ∧ (ctxOf far5000 0).map (·.h) = some 5000 ∧ 1024 ≤ ((5000 : W32) - 3976).toNat ∧
      2 ^ 31 ≤ ((3976 : W32) - 5000).toNat) := by
  decide +kernel

theorem test_noCommandRunsTwice_premises : up.tidy = true ∧ Runs up opTIME (pkt []) := by unfold Runs; decide +kernel

theorem test_aheadSequence_premises :
    let c : Ctx := { Ctx.zero with h := 2000, seen := [2000, 1500] }
    (1 ≤ ((2 ^ 31 + 1999 : W32) - c.h).toNat ∧ ((2 ^ 31 + 1999 : W32) - c.h).toNat ≤ 2 ^ 31 - 1) ∧
    (¬ (1 ≤ ((976 : W32) - c.h).toNat ∧ ((976 : W32) - c.h).toNat ≤ 2 ^ 31 - 1) ∧ (c.h - 976).toNat = 1024) ∧
    (¬ (1 ≤ ((977 : W32) - c.h).toNat ∧ ((977 : W32) - c.h).toNat ≤ 2 ^ 31 - 1) ∧ (c.h - 977).toNat = 1023 ∧ (977 : W32) ∉ c.seen) ∧
    (¬ (1 ≤ ((1500 : W32) - c.h).toNat ∧ ((1500 : W32) - c.h).toNat ≤ 2 ^ 31 - 1) ∧ (c.h - 1500).toNat ≤ 1023 ∧ (1500 : W32) ∈ c.seen) := by
  decide +kernel

/-- The payload of MARCH_RUN with OP 4 (Table 13.20). -/
def marchStatus : Pkt := pkt (zeros 16)

theorem test_readCommands_premises :
    up.tidy = true ∧ 64 ≤ pathMax up host ∧ Runs up opTIME (pkt []) ∧ Runs up opCAPS (pkt []) ∧
      Runs up opMARCH (withByte marchStatus 0 4) ∧ up.ras.march = none ∧ allZero (withByte marchStatus 0 4).payload 6 2 = true := by
  unfold Runs; decide +kernel

/-- OPEN_CONTEXT of a class 1 context with 16 counters, 4 requests and 64 blocks (Table 13.4). -/
def openPkt : Pkt := pkt (mk 32 [(0, 1, 1), (1, 1, 1), (2, 2, 16), (4, 4, 4), (16, 4, 64), (20, 4, 9)])

theorem test_contexts_premises :
    (Runs up opOPEN openPkt ∧ openOk openPkt.payload = true ∧ up.kct.ctxs.length < 4096 ∧
      reserveFits up (num openPkt.payload 8 4) (num openPkt.payload 12 4) = true ∧ 8 ≤ pathMax up host ∧ num openPkt.payload 20 4 ≠ 0) ∧
    (let s : State := { up with kct := { up.kct with ctxs := [(0, Ctx.zero), (4095, Ctx.zero)] } }
     let p := pkt (bytes [0xFF, 0x0F, 0, 0])
     s.tidy = true ∧ Runs s opCLOSE p ∧ num p.payload 2 2 = 0 ∧ num p.payload 0 2 = 4095 ∧ p.hdr.ctx = 0 ∧
      ctxOf s 4095 = some Ctx.zero ∧ Ctx.zero.closing = []) ∧
    (let p := pkt (bytes [5, 0, 0, 0])
     let x : Ctx := { Ctx.zero with closing := [rowReq opCLOSE p] }
     let s : State := { up with kct := { up.kct with ctxs := [(0, Ctx.zero), (5, x)] } }
     keysAbove none s.kct.ctxs = true ∧ ctxOf s 5 = some x ∧ s.disp.insts = [] ∧ s.serve.reqs = [] ∧ portUp s = true ∧ hasAddr s = true) := by
  unfold Runs; decide +kernel

/-! ### Memory and registers -/

theorem test_memoryCommands_premises :
    (let p := pkt (mk 16 [(0, 1, 1), (8, 8, 2 ^ 38 - 2)] ++ [5, 6])
     Runs up opWRITE p ∧ writeFault up 0 p.payload 2 = none) ∧
    (let p := pkt (mk 16 [(0, 1, 1), (4, 4, 64), (8, 8, 2 ^ 39 - 64)])
     up.tidy = true ∧ Runs up opREAD p ∧ allZero p.payload 1 3 = true ∧ spaceFault up 1 = none ∧ num p.payload 8 8 + 64 ≤ capOf up 1 ∧
      mayName up 0 1 (num p.payload 8 8) 64 = true ∧ firstBad up 1 (num p.payload 8 8) 64 = none ∧ 64 ≤ pathMax up host) ∧
    (let p := pkt (mk 16 [(0, 1, 2), (4, 4, 10000)])
     Runs up opREAD p ∧ spaceFault up 2 = none ∧ 10000 ≤ capOf up 2 ∧ mayName up 0 2 0 10000 = true ∧ firstBad up 2 0 10000 = none ∧
      pathMax up host < 10000 ∧ 10000 ≤ 65536 * segSize up host) := by
  unfold Runs; decide +kernel

/-- MEM_ALLOC of two blocks of the commons, OP 0. -/
def allocPkt : Pkt := withByte (pkt (mk 16 [(4, 4, 2)])) 0 0

theorem findRun_some {s : State} {c sp n b : Nat}
    (h : (sortBy id (0 :: (((reservedOf s sp).1 + (reservedOf s sp).2) / 65536)
      :: s.blocks.filterMap fun x => if x.1 / 2 ^ 32 == sp then some (x.1 % 2 ^ 32 + 1) else none)).find?
        (fun b => freeRun s sp b n && untouched s c sp b n) = some b) :
    ∃ b, findRun s c sp n = some b := by
  unfold findRun
  dsimp only
  split
  · exact ⟨_, rfl⟩
  · exact ⟨b, h⟩

theorem test_memoryGrants_premises :
    (up.tidy = true ∧ Runs up opALLOC allocPkt ∧ allocFault up allocPkt.payload = none ∧ 8 ≤ pathMax up host ∧
      blocksHeld up 0 + 2 ≤ Ctx.zero.memQuota) ∧ ctxOf up 0 = some Ctx.zero ∧
    (let s := withBlocks up 0 0 2
     let p' := withByte allocPkt 0 1
     s.tidy = true ∧ Runs s opALLOC p' ∧ allocFault s p'.payload = none ∧ num p'.payload 8 8 % 65536 = 0 ∧
      ownsRange s 0 0 (num p'.payload 8 8) (2 * 65536) = true ∧ 8 ≤ pathMax s host) := by
  unfold Runs; decide +kernel

theorem test_memoryGrants_run : ∃ b, findRun up 0 0 2 = some b := findRun_some (b := 0) (by decide +kernel)

theorem test_uncorrectableWord_premises :
    let s := withBad up 0 20
    let p := pkt (mk 16 [(4, 4, 128), (8, 8, 300)])
    s.tidy = true ∧ Runs s opREAD p ∧ num p.payload 0 1 = 0 ∧ allZero p.payload 1 3 = true ∧ mayName s 0 0 300 128 = true ∧
      firstBad s 0 300 128 = some 320 := by
  unfold Runs; decide +kernel

theorem test_registerAliases_premises :
    (0xFFFFC % 4 = 0 ∧ 0xFFFFC ≤ 0xFFFFC ∧ 31 < 32) ∧ isAlias 0x41FFFFFC = true ∧ 0x41FFFFFC % 4 = 0 ∧ isAlias 0x40000000 = true := by
  decide +kernel

theorem test_registerReads_premises :
    (let p := pkt (toLE 4 1 ++ toLE 4 0x10004)
     up.tidy = true ∧ Runs up opRREAD p ∧ num p.payload 0 4 = 1 ∧ (words32 p.payload 4 1).any (fun a => !goodAddr a) = false ∧
      (words32 p.payload 4 1).all (fun a => !portCounts.contains (wordOf a)) = true ∧ 4 ≤ pathMax up host) ∧
    (let p := pkt (toLE 4 1 ++ toLE 4 2)
     Runs up opRREAD p ∧ (words32 p.payload 4 1).any (fun a => !goodAddr a) = true) ∧
    (let s : State := { up with kct := { up.kct with ctxs := [(0, Ctx.zero), (5, Ctx.zero)] } }
     let p := { pkt (toLE 4 1 ++ toLE 4 0x10004) with hdr := hdr 5 1 8 }
     s.tidy = true ∧ Runs s opRREAD p ∧ p.hdr.ctx ≠ 0 ∧ (words32 p.payload 4 1).any restricted = false) := by
  unfold Runs; decide +kernel

theorem test_registerWrites_premises :
    (let p := pkt (toLE 4 1 ++ toLE 4 0xA0004 ++ toLE 4 64)
     up.tidy = true ∧ Runs up opRWRITE p ∧ num p.payload 0 4 = 1) ∧
    (storeReg up 0xA0004 64).isSome = true ∧ isCovered 0xA0004 = true ∧ (regRow 0x2000C).rw = allBits ∧ storesNothing up 0x2000C = false ∧
    (storeReg up 0x2000C 9).isSome = true ∧
    storeReg up 0xA0004 0 = none ∧ goodAddr 0x100000 = false ∧ (storeReg up 0xFFFFC 0).isSome = true ∧ storeReg up 0xD0000 1 = none := by
  unfold Runs; decide +kernel

/-- Bed 2 in Idle, its arrays spare. -/
def idleBed : State := withReg (withReg up (rBED_STAT 2) 1) (rBED_CTL 2) 0xD

theorem test_linkBedAndRate_premises :
    idleBed.tidy = true ∧ Runs idleBed opRWRITE (onePair (pkt []) (rLINK_CTL 10) (b2n false)) ∧ linkThere idleBed 10 = true ∧
    linkThere { up with fuses := { up.fuses with variantB := true } } 10 = false ∧
    (Runs idleBed opRWRITE (onePair (pkt []) (rLINK_CTL 0) (setBits 1 1 (1 : W32).toNat 1)) ∧ (1 : W32).toNat < 4) ∧
    (Runs idleBed opRWRITE (onePair (pkt []) (rBED_CTL 2) (setBits 7 7 (0xF : W32).toNat 0)) ∧ Nat.land (0xF : W32).toNat 0xFFFFFF60 = 0 ∧
      bits 1 0 (0xF : W32).toNat = 3 ∧ bedMayOff (withReg idleBed (rARRAY_STAT 0) 0) 0 = false ∧
      bedMayOff ((List.range 8).foldl (fun s i => withReg s (rARRAY_STAT (16 + i)) 0xFE00) idleBed) 2 = true) ∧
    (Runs idleBed opRWRITE (onePair (pkt []) (rBED_CTL 2) (setBits 7 7 (0xD : W32).toNat 1)) ∧ bits 1 0 (0xD : W32).toNat ≠ 3 ∧
      moveOf idleBed 2 = .still ∧ bedState idleBed 2 = 1 ∧ bedState idleBed 3 = 0 ∧ moveOf idleBed 3 = .still) ∧
    (Runs idleBed opRWRITE (onePair (pkt []) (rREG 2 7) (256 : W32).toNat) ∧ (256 : W32).toNat ≤ 0xFFFFF ∧
      rd idleBed (rREG 2 7) ≤ 0xFFFFF ∧ 4 ≤ pathMax idleBed host ∧
      sumOf ((List.range 8).map fun k => if k = 7 then 256 else rd idleBed (rREG 2 k)) ≤ capNow idleBed 2 ∧
      capNow idleBed 2 < sumOf ((List.range 8).map fun k => if k = 7 then 0xFFFFF else rd idleBed (rREG 2 k))) := by
  unfold Runs; decide +kernel

theorem test_configurationCommits_premises :
    up.tidy = true ∧ 4 ≤ pathMax up host ∧ Runs up opCFG (withByte (pkt (zeros 8)) 0 0) ∧ Runs up opCFG (withByte (pkt (zeros 8)) 0 1) ∧
      allZero (withByte (pkt (zeros 8)) 0 1).payload 1 3 = true := by
  unfold Runs; decide +kernel

/-- The reference of MODE 1 may be the check value, or another number. -/
theorem test_configurationCommit_refs :
    let p := pkt (zeros 4 ++ toLE 4 (checkValue up))
    Runs up opCFG (withByte p 0 1) ∧ num (withByte p 0 1).payload 4 4 = checkValue up ∧ (checkValue up ≠ 0 ∨ checkValue up ≠ 1) :=
  ⟨⟨rfl, rfl, rfl⟩, ofLE_toLE 4 _ (checkValue_lt up), by omega⟩

/-! ### Models, grafts and requests -/

/-- A model with 16 tiles in array 0, one graph, and one projection of point ATTN_IN, of width 128. -/
def model7 : Model :=
  { modelId := 7, fmt := 1, ctxLimit := 4096, ranges := [(0, 0, 16)], graphs := [0], images := [], sites := [(0, 0, 0, 128)],
    projs := [(0, 0, 128, 128)], mirror := [], removing := false, lost := false }

/-- The manifest of that model, its graph at near-tier address 0. -/
def manifest : Bytes :=
  mk 64 [(0, 2, 1), (2, 2, 1), (4, 4, 7), (8, 4, 4096), (12, 1, 1), (14, 2, 1), (16, 2, 1)] ++ mk 8 [(4, 2, 16)] ++ mk 16 [(0, 1, 1)]
    ++ mk 8 [(6, 2, 128)] ++ mk 12 [(4, 4, 128), (8, 4, 128)]

/-- The near tier with a graph image of one NULL task at address 0, in a block of context 0. -/
def withImage : State := withMem (withBlocks up 0 1 2) 1 0 (mk 64 [(0, 2, 1), (4, 4, 1)])

/-- That module with the model installed. -/
def withModel : State :=
  { withImage with models := [(0, model7)], graphs := [(0, { model := 0, tier := 1, addr := 0, bases := [0, 0] })] }

theorem test_models_premises :
    (let s := withImage
     let p := pkt manifest
     let m := manifestOf manifest
     s.tidy = true ∧ Runs s opINSTALL p ∧ s.power.bindOff = none ∧ manifest.length = manifestLen manifest ∧ manifestOk s manifest m = true ∧
      s.fuses.variantB = false ∧ (∀ i ∈ m.images, i.2.1 ≤ 1) ∧ (∀ g ∈ m.graphs, g.1 ≤ 1) ∧ s.graphs.length + m.graphs.length ≤ 16 ∧
      manifestUe s m = none ∧ m.images.all (imageOk s) = true ∧ (∀ g ∈ m.graphs, installFault s g = none) ∧
      mirrorUe s m = none ∧ unitsLeft s 5 32 ≠ 0 ∧
      (foldOpt (fun acc g => enterGraph 0 acc g) m.graphs (atRun s opINSTALL p, [])).isSome = true ∧ 17 ≤ pathMax s host) ∧
    (let p := pkt (zeros 4)
     withModel.tidy = true ∧ Runs withModel opREMOVE p ∧ allZero p.payload 1 3 = true ∧ look withModel.models 0 = some model7) := by
  unfold Runs; decide +kernel

/-- LOAD_WEIGHTS of one skein record of five lines, for tile 15 of array 0. -/
def weights : Bytes := mk 8 [(4, 4, 1)] ++ mk 8 [(2, 2, 15), (4, 4, 261)] ++ zeros 640

theorem test_weights_premises :
    let s := withReg withModel (rARRAY_MAP 0) 0x80
    Runs s opWEIGHTS (pkt weights) ∧ s.tidy = true ∧ s.power.bindOff = none ∧ look s.models 0 = some model7 ∧ fmtOk s model7.fmt = true ∧ allZero weights 1 3 = true ∧
      walkEntries 1 (weights.drop 8) = true ∧
      (tileRecs 1 (weights.drop 8)).map (fun ts => ts.all (tileOk model7) && decide (ts.length = 1)) = some true ∧ 15 < sliceSlots ∧
      stackCount s ≠ 0 ∧ fld s (rARRAY_MAP 0) 7 7 = 1 ∧ bedState s (physOf s 0 / 8) ≠ 3 ∧ moveOf s (physOf s 0 / 8) ≠ .entering 3 := by
  unfold Runs; decide +kernel

/-- A vector graft image with one BIAS entry for site 0, at near-tier address 4096. -/
def graftImage (n : Nat) : Bytes := mk 64 [(0, 2, 1), (4, 4, 7), (8, 4, 2048), (12, 2, n)] ++ mk 16 [(1, 1, 1), (4, 4, 128)]

/-- A registered vector graft of context 0. -/
def graft1 : Graft :=
  { delta := false, gen := 1, model := 0, ctx := 0, tier := 1, addr := 0, size := 2048, mirror := none, unreg := false }

/-- A copy of a graft or an artefact finds a block in the far tier; without one it needs none. -/
theorem test_mirrors_run : (∃ b, findRun (withMem withModel 1 4096 (graftImage 1)) 0 2 1 = some b) ∧
    (let s : State := { withImage with fuses := { withImage.fuses with variantB := true } }
     let m := manifestOf manifest
     (foldOpt (fun acc g => enterGraph 0 acc g) m.graphs (atRun s opINSTALL (pkt manifest), [])).any
       fun x => (mirrorAll x.1 (nearParts s m.graphs m.images)).isSome) :=
  ⟨findRun_some (b := 0) (by decide +kernel), by decide +kernel⟩

theorem test_grafts_premises :
    (∀ n < 2,
      let s := withMem withModel 1 4096 (graftImage n)
      let p' := withByte (pkt (mk 16 [(1, 1, 1), (8, 8, 4096)])) 0 0
      let h := ld s 1 4096 64
      4 ≤ pathMax s host ∧ s.tidy = true ∧ Runs s opGRAFT p' ∧ num p'.payload 2 2 = 0 ∧ mayName s 0 1 4096 64 = true ∧
        firstBad s 1 4096 64 = none ∧ num h 2 1 ≠ 1 ∧ graftHeadOk s 1 h = true ∧ mayName s 0 1 4096 (num h 8 4) = true ∧
        firstBad s 1 4096 (num h 8 4) = none ∧ modelById s (num h 4 4) = some (0, model7) ∧ entriesOk s model7 1 4096 h = true ∧
        num h 12 2 = n ∧ s.graft.reg.length < 65536) ∧
    (let s : State := { withModel with graft := { withModel.graft with reg := [(0, graft1)] } }
     let p' := withByte (pkt (mk 16 [(4, 4, 65536)])) 0 1
     Runs s opGRAFT p' ∧ num p'.payload 2 2 = 0 ∧ findGraft s 65536 = some (0, graft1)) := by
  unfold Runs; decide +kernel

/-- A module whose model's graph is in place, and a REQ_ADMIT of a prompt of three tokens. -/
def admitPkt : Pkt := pkt (mk 64 [(24, 4, 100), (28, 4, 3), (56, 4, 0x3F800000)] ++ toLE 4 11 ++ toLE 4 12 ++ toLE 4 13)

/-- What the statement assumes of an admission, and whether the request fits. -/
def AdmitPremises (s : State) (m : Model) (fit : Bool) : Prop :=
  let u := (probe s m 0 0 (tokensAt admitPkt.payload 64 3)).2
  let need := pagesNeeded (layersOf m) 3 (probe s m 0 0 (tokensAt admitPkt.payload 64 3)).1.length
  s.tidy = true ∧ 16 ≤ pathMax s host ∧ (s.trust.handover = none ∧ verdict s opADMIT (rowReq opADMIT admitPkt) = .accept) ∧
    moduleFailed s = false ∧ s.power.bindOff = none ∧ admitFault s (rowReq opADMIT admitPkt) = none ∧ look s.models 0 = some m ∧
    ctxOf s 0 = some Ctx.zero ∧ heldEntries s 0 < Ctx.zero.reqQuota ∧ neverFits u 0 Ctx.zero.cls need = false ∧ entriesUsed s < 32768 ∧
    (withinReserve u 0 Ctx.zero.cls need || fits u Ctx.zero.cls need) = fit ∧ 1 ≤ mayEntries u Ctx.zero.cls ∧
    s.serve.queue.length < fld s rSERVE_CTL 31 16

/-- A model of 3,712 layers, and a module whose near tier is lost and that has 400 blocks of the commons granted. -/
def deepModel : Model := { model7 with projs := [(3711, 0, 128, 128)] }
def crowded : State :=
  { withReg withModel 0x40000 0 with
    models := [(0, deepModel)]
    blocks := (List.range 400).map fun b => (b, { owner := some 0, granted := true, withdrawn := false, repaired := false }) }

theorem test_admission_premises : AdmitPremises withModel model7 true ∧ AdmitPremises crowded deepModel false := by
  unfold AdmitPremises; decide +kernel

/-- Every entry in use by context 5, the request of entry 0 ending; context 0 GUARANTEED, with entries and pages reserved. -/
def fullReqs : List (Nat × Request) :=
  (0, { (default : Request) with ctx := 5, ending := some 2 }) :: (List.range 32767).map fun i => (i + 1, { (default : Request) with ctx := 5 })
def tableFull : State :=
  { withModel with
    kct := { withModel.kct with ctxs := [(0, { Ctx.zero with cls := 0, reqReserve := 1, pageReserve := 4 }), (5, Ctx.zero)] }
    serve := { withModel.serve with reqs := fullReqs } }

theorem fullReqs_in : (fullReqs.filter fun r => r.1 < 32768) = fullReqs := by
  rw [List.filter_eq_self]
  intro r h
  simp only [fullReqs, List.mem_cons, List.mem_map, List.mem_range] at h
  obtain rfl | ⟨i, hi, rfl⟩ := h
  · rfl
  · simp; omega

theorem fullReqs_held : (fullReqs.filter fun r => r.1 < 32768 && r.2.ctx == 0) = [] := by
  rw [List.filter_eq_nil_iff]
  intro r h
  simp only [fullReqs, List.mem_cons, List.mem_map] at h
  obtain rfl | ⟨i, _, rfl⟩ := h <;> simp

theorem test_tableFull_premises :
    let u := (probe tableFull model7 0 0 (tokensAt admitPkt.payload 64 3)).2
    (32768 ≤ entriesUsed tableFull ∧ heldEntries tableFull 0 < Ctx.zero.reqQuota ∧ tableFull.tidy = true ∧ Runs tableFull opADMIT admitPkt ∧
      pagesNeeded (layersOf model7) 3 (probe tableFull model7 0 0 (tokensAt admitPkt.payload 64 3)).1.length = 1) ∧
    yieldedEntry u = some 0 ∧ neverFits u 0 0 1 = false ∧ withinReserve u 0 0 1 = true := by
  have h0 : heldEntries tableFull 0 = 0 := by
    simp only [heldEntries, show tableFull.serve.reqs = fullReqs from rfl, fullReqs_held]; rfl
  have h1 : entriesUsed tableFull = 32768 := by
    rw [entriesUsed, show tableFull.serve.reqs = fullReqs from rfl, fullReqs_in]; simp [fullReqs]
  have hu : ∀ u : State, u.serve.reqs = fullReqs → u.serve.owed = [] → u.kct = tableFull.kct → u.serve.pages = [] →
      yieldedEntry u = some 0 ∧ withinReserve u 0 0 1 = true := by
    intro u a b c e
    constructor
    · simp [yieldedEntry, a, b, fullReqs, look]
    · have : heldEntries u 0 = 0 := by simp only [heldEntries, a, b, fullReqs_held]; rfl
      simp [withinReserve, this, heldPages, e, ctxOf, c, tableFull, look, Ctx.zero]
  refine ⟨⟨Nat.le_of_eq h1.symm, by rw [h0]; decide, rfl, ⟨rfl, rfl, rfl⟩, by decide +kernel⟩, ?_⟩
  have := hu (probe tableFull model7 0 0 (tokensAt admitPkt.payload 64 3)).2 rfl rfl rfl rfl
  exact ⟨this.1, by decide +kernel, this.2⟩

/-- A request of context 0 in a state, with 5 tokens held, its page table with room for 512 tokens. -/
def req (st : Nat) : Request :=
  { (default : Request) with gen := 1, state := st, tokens := [1, 2, 3, 4, 5], seqLen := 4, ptCap := 16, maxTokens := 100, sampled := [(7, 0), (8, 0)] }

def withReq (st : Nat) : State := { up with serve := { up.serve with reqs := [(0, req st)] } }

theorem test_requestCommands_premises :
    (let p' := withByte (pkt (mk 12 [(0, 4, 32768), (8, 4, 2)] ++ zeros 8)) 4 0
     (withReq 2).tidy = true ∧ Runs (withReq 2) opAPPEND p' ∧ num p'.payload 4 1 < 2 ∧ allZero p'.payload 5 3 = true ∧ num p'.payload 8 4 = 2 ∧
      (namedReq (withReq 2) (rowReq opAPPEND p')).toOption = some (0, req 2) ∧ (req 2).tokens.length + (req 2).appended.length + 2 ≤ (req 2).ptCap * 32) ∧
    (let p' := withByte (pkt (mk 12 [(0, 4, 32768), (8, 4, 15)] ++ zeros 60)) 4 1
     Runs (withReq 3) opAPPEND p' ∧ num p'.payload 4 1 < 2 ∧ allZero p'.payload 5 3 = true ∧ num p'.payload 8 4 = 15 ∧
      (namedReq (withReq 3) (rowReq opAPPEND p')).toOption = some (0, req 3) ∧ 15 + (req 3).drafts.length ≤ 15 ∧
      (req 3).seqLen + 1 + (req 3).drafts.length + 15 ≤ (req 3).ptCap * 32) ∧
    (let p := pkt (mk 4 [(0, 4, 32768)])
     Runs (withReq 5) opPRUNE p ∧ (namedReq (withReq 5) (rowReq opPRUNE p)).toOption = some (0, req 5)) ∧
    (let p := pkt (mk 8 [(0, 4, 32768), (4, 4, 1)])
     Runs (withReq 4) opACCEPT p ∧ (namedReq (withReq 4) (rowReq opACCEPT p)).toOption = some (0, req 4) ∧ 1 < (req 4).sampled.length) ∧
    (let p := pkt (mk 12 [(0, 4, 32768), (4, 4, 1), (8, 4, 3)])
     Runs (withReq 5) opQUERY p ∧ (namedReq (withReq 5) (rowReq opQUERY p)).toOption = some (0, req 5) ∧ 1 + 3 ≤ (req 5).seqLen ∧
      128 + 4 * 3 ≤ pathMax up host) := by
  unfold Runs; decide +kernel

/-! ### Graphs, counters and tasks -/

theorem test_graphsAreSubmitted_premises :
    (let s := withImage
     let p' := withByte (pkt (mk 16 [(1, 1, 1)])) 0 0
     let h := hdrOf (ld s 1 0 64)
     let u := chargeNear s 1 (partOf s 0) (64 + 64 * h.tasks)
     s.tidy = true ∧ 4 ≤ pathMax s host ∧ Runs s opSUBMIT p' ∧ num p'.payload 3 1 = 0 ∧ num p'.payload 4 4 ≤ 256 ∧ maintHolds s = false ∧
      imageNamed s 0 1 0 = true ∧ firstBad s 1 0 64 = none ∧
     imagePlaced s 0 1 0 false = true ∧ imageUe s 1 0 = none ∧ graphFault u 0 h (imageTasks u 1 0 h none) (fun _ _ => false) = none ∧
      localRangeOk u 0 h = true ∧ s.disp.insts.length < 1024 ∧ h.tasks ≠ 0) ∧
    (let s := withMem withImage 1 0 (mk 64 [(0, 2, 1)])
     let h := hdrOf (ld s 1 0 64)
     s.tidy = true ∧ imagePlaced s 0 1 0 false = true ∧ graphFault s 0 h (imageTasks s 1 0 h none) (fun _ _ => false) = none ∧ h.tasks = 0 ∧
      (∀ j ∈ s.disp.insts, j.num < s.disp.nextNum)) ∧
    (let s := withModel
     let p' := withByte (pkt (mk 16 [])) 0 1
     let h := hdrOf (ld s 1 0 64)
     let u := chargeNear s 1 (partOf s 0) (64 + 64 * h.tasks)
     Runs s opSUBMIT p' ∧ (look s.graphs 0).isSome = true ∧ imageNamed s 0 1 0 = true ∧ firstBad s 1 0 64 = none ∧ imageUe s 1 0 = none ∧ (∀ x ∈ patchesOf s 1 0 h, x.param < 0) ∧
      imagePlaced s 0 1 0 true = true ∧ graphFault u 0 h (imageTasks u 1 0 h (some [])) (fun _ _ => false) = none ∧
      localRangeOk u 0 h = true ∧ h.tasks ≠ 0) := by
  unfold Runs; decide +kernel

/-- Counter 3 at a value, held by context 0. -/
def withCtr (v : Nat) : State :=
  { up with disp := { up.disp with ctrs := [(3, BitVec.ofNat 32 v)], owners := [(3, 0)] } }

theorem test_counters_premises :
    (withCtr 0xFFFFFFFF).tidy = true ∧ keysAbove none (withCtr 0xFFFFFFFF).disp.ctrs = true ∧
      (∀ w ∈ (withCtr 5).disp.waits, w.req.via = none) ∧ ctrVal (withCtr 0xFFFFFFFF) 3 = 0xFFFFFFFF ∧ ctrVal (withCtr 0xFFFFFFFE) 3 < 0xFFFFFFFF ∧
      0xFFFFFFFF < ctrVal (withCtr 0xFFFFFFFE) 3 + 2 ∧ ctrVal (withCtr 0xFFFFFFFE) 3 + 1 ≤ 0xFFFFFFFF ∧ keysAbove none up.arr.arrays = true := by
  decide +kernel

/-- A SYNC_WAIT of context 0 on counter 3, and the module in which it waits until time 0. -/
def waitPkt (v : Nat) : Pkt := pkt (mk 16 [(0, 2, 3), (4, 4, v)])
def waiting : State :=
  { withCtr 5 with disp := { (withCtr 5).disp with waits := [{ req := rowReq opWAIT (waitPkt 6), ctr := 3, value := 6, expires := some 0 }] } }

theorem test_syncCommands_premises :
    (Runs (withCtr 5) opWAIT (waitPkt 5) ∧ allZero (waitPkt 5).payload 2 2 = true ∧ ctrFault (withCtr 5) 0 3 = none ∧
      num (waitPkt 5).payload 4 4 ≤ ctrVal (withCtr 5) 3) ∧
    (Runs (withCtr 5) opWAIT (waitPkt 6) ∧ ctrVal (withCtr 5) 3 < num (waitPkt 6).payload 4 4 ∧ (withCtr 5).disp.waits.length < 1024) ∧
    (let s : State := { withCtr 5 with disp := { (withCtr 5).disp with waits := List.replicate 1024 { req := rowReq opWAIT (waitPkt 7), ctr := 3, value := 7, expires := none } } }
     s.tidy = true ∧ Runs s opWAIT (waitPkt 6) ∧ ctrVal s 3 < 6 ∧ 1024 ≤ s.disp.waits.length) ∧
    (let p' := withByte (pkt (mk 8 [(0, 2, 3)])) 2 0
     Runs (withCtr 5) opSIGNAL p' ∧ num p'.payload 3 1 = 0 ∧ num p'.payload 4 4 = 0) ∧
    ((rowReq opWAIT (waitPkt 6)).via = none ∧ 4 ≤ pathMax waiting host) ∧
    (∀ b < 2,
      let p' := withByte (pkt (mk 8 [(0, 2, 3), (4, 4, 9)])) 2 b
      (withCtr 5).tidy = true ∧ Runs (withCtr 5) opSIGNAL p' ∧ num p'.payload 3 1 = 0 ∧ ctrFault (withCtr 5) 0 (num p'.payload 0 2) = none ∧
        num p'.payload 4 4 ≠ 0) ∧
    (waiting.tidy = true ∧ (waiting.disp.waits.find? fun w => w.req.pkt.hdr.ctx == 0 && w.req.pkt.hdr.seq == 1) = waiting.disp.waits.head? ∧
      waiting.disp.waits.head?.map (fun w => (w.expires, w.req)) = some (some 0, rowReq opWAIT (waitPkt 6)) ∧ 0 ≤ waiting.time ∧
      portUp waiting = true ∧ hasAddr waiting = true) := by
  unfold Runs; decide +kernel

theorem test_counterAllocation_premises :
    (let p' := withByte (pkt (mk 8 [(2, 2, 16384)])) 0 0
     up.tidy = true ∧ Runs up opSALLOC p' ∧ num p'.payload 1 1 = 0 ∧ num p'.payload 6 2 = 0 ∧ num p'.payload 2 2 = 16384 ∧
      freeCtrRun up 16384 = some 0) ∧
    (let p' := withByte (pkt (mk 8 [(2, 2, 1), (4, 2, 3)])) 0 1
     let s := withCtr 5
     s.tidy = true ∧ Runs s opSALLOC p' ∧ num p'.payload 1 1 = 0 ∧ num p'.payload 6 2 = 0 ∧ num p'.payload 2 2 = 1 ∧ num p'.payload 4 2 = 3 ∧
      look s.disp.owners 3 = some 0 ∧ ctrsInUse s 3 1 = false ∧ (∀ w ∈ s.disp.waits, w.ctr ≠ 3)) ∧
    (let p' := withByte (pkt (mk 8 [(2, 2, 2), (4, 2, 3)])) 0 1
     Runs (withCtr 5) opSALLOC p' ∧ num p'.payload 2 2 = 2 ∧ num p'.payload 4 2 = 3 ∧ look (withCtr 5).disp.owners 4 ≠ some 0) := by
  unfold Runs; decide +kernel

theorem test_dispatcher_premises :
    (let s : State := { withImage with disp := { withImage.disp with insts := [inst1 1], nextNum := 2 } }
     s.tidy = true ∧ chooseEntry s = some (inst1 1) ∧ instOf s 1 = some (inst1 1) ∧ firstBad s 1 (taskAddr 0 0) 64 = none ∧
      entryFault s (inst1 1) (taskOf s (inst1 1) 0) = none ∧ chooseEntry (admitTask s (inst1 1)) = none) ∧
    (let s : State := { up with disp := { up.disp with insts := [inst1 1], window := [(0, slot1 (zeros 64) false none)], nextNum := 2 } }
     s.tidy = true ∧ releasable s = s.disp.window) := by
  decide +kernel

theorem test_taskEnds_premises :
    (∃ x, released (withTask up (zeros 64)) 0 0 (fun _ => true) = some x) ∧
    (∃ x, released (withTask up (mk 64 [(0, 1, 10), (16, 4, 0x1000)])) 0 10 (fun _ => true) = some x) :=
  ⟨⟨(slot1 (zeros 64) true none, { inst1 2 with admitted := 2 }), by decide +kernel⟩,
    ⟨(slot1 (mk 64 [(0, 1, 10), (16, 4, 0x1000)]) true none, { inst1 2 with admitted := 2 }), by decide +kernel⟩⟩

/-- A task of instance 1 whose engine has ended with a status, in an instance of which one task has ended already. -/
def ended1 (h : GHdr) (n st : Nat) : State :=
  { up with disp := { up.disp with insts := [{ inst1 n with hdr := { h with fmt := 1, tasks := n }, admitted := n, ended := 1 }]
                                   window := [(0, slot1 (zeros 64) true (some st))], nextNum := 2 } }

/-- A header that asks for a completion record at 64 of the commons. -/
def statusHdr : GHdr := { (default : GHdr) with statusEn := true, statusAddr := 64 }

theorem test_taskCompletes_premises :
    (ended1 default 3 0).tidy = true ∧ look (ended1 default 3 0).disp.window 0 = some (slot1 (zeros 64) true (some stOK)) ∧
      (instOf (ended1 default 3 0) 1).map (fun i => (i.ended + 1, i.hdr.tasks, i.closing)) = some (2, 3, false) ∧
      (instOf (ended1 statusHdr 2 0) 1).map (fun i => (i.ended + 1, i.hdr.tasks, i.closing, i.hdr.statusEn)) = some (2, 2, false, true) ∧
      (instOf (ended1 statusHdr 2 0) 1).map (fun i => (i.status, i.suspect, i.hdr.deadline)) = some (0, none, 0) ∧ recordPlaceOk (ended1 statusHdr 2 0) 0 0 64 = true ∧
      (instOf (ended1 default 2 0) 1).map (fun i => (i.ended + 1, i.hdr.tasks, i.hdr.statusEn)) = some (2, 2, false) ∧
      look (ended1 default 3 stFault).disp.window 0 = some (slot1 (zeros 64) true (some stFault)) ∧ stFault ≠ stOK := by
  decide +kernel

/-- Instance 1 with its only array task done and a slot that expects two partials. -/
def starved : State :=
  { up with
    disp := { up.disp with insts := [{ inst1 2 with admitted := 2, ended := 1 }], window := [(0, slot1 (mk 64 [(0, 1, 1)]) true none)] }
    arr := { up.arr with slots := [(5, { contrib := 2, tokens := 1, parts := [{ (default : Part) with inst := 1 }] })] } }

theorem test_stall_premises : (instOf starved 1).map (fun i => stalled starved i) = some true := by decide +kernel

theorem test_lateInstances_premises :
    let i := { inst1 1 with hdr := { (inst1 1).hdr with deadline := 5 } }
    let s : State := { up with time := 6, disp := { up.disp with insts := [i] } }
    s.tidy = true ∧ i.hdr.deadline ≠ 0 ∧ i.hdr.deadline < s.time ∧ i.hdr.dlAbort = false ∧
      (s.disp.insts.filter fun i => i.hdr.deadline != 0 && i.hdr.deadline < s.time && !i.late) ≠ [] := by
  decide +kernel

/-- An all-reduce of FP32 over slots 2 and 3 of this board, and the module with it open. -/
def collPl : Bytes := mk 16 [(0, 2, 4), (2, 1, 0), (5, 1, 0x48), (6, 1, 2)] ++ bytes [10, 11, 0, 0]
def coll4 : Coll := { ctx := 0, op := 0, rack := false, redOp := 0, fmt := 0x48, memb := [10, 11], next := 0 }
def withColl : State := { up with coll := { up.coll with open_ := [(4, coll4)] } }

/-- A peer of the installation, met by link 2, which is quarantined for identity. -/
def peer2 : Identity :=
  { serial := 77, boardId := 5, boardPos := 1, slot := 1, link := 2, variant := 0, lpMin := 1, lpMax := 1, fwBuild := 0, mapCheck := 0 }
def quarantined : State :=
  let s := withReg up (rLINK_STAT 2) (3 + 1 * 2 ^ 24)
  { s with link := { s.link with links := [(2, { (default : Link) with peer := some peer2 })] } }

theorem test_collectives_premises :
    (up.tidy = true ∧ Runs up opCOPEN (pkt collPl) ∧ num collPl 3 1 ≠ 1 ∧ collOpenOk up collPl = true ∧ up.coll.open_.length < 4096) ∧
    (let p := pkt (mk 4 [(0, 2, 4)])
     withColl.tidy = true ∧ Runs withColl opCCLOSE p ∧ num p.payload 2 2 = 0 ∧ look withColl.coll.open_ 4 = some coll4 ∧
      withColl.disp.window = []) ∧
    (let pl := withAdopt (pkt (zeros 280)) 0
     Runs quarantined opMAP pl ∧ mapHeadOk pl.payload = true ∧ (List.range 11).all (entryOk pl.payload) = true) ∧
    (let pl := withAdopt (pkt (mk 280 [(4, 2, 4)])) 1
     quarantined.tidy = true ∧ Runs quarantined opMAP pl ∧ mapHeadOk pl.payload = true ∧ (linkOf quarantined 2).peer = some peer2 ∧
      linkState quarantined 2 = 3 ∧ bit 2 (num pl.payload 4 2) = true ∧ fld quarantined (rLINK_STAT 2) 27 24 = 1) := by
  unfold Runs; decide +kernel

/-! ### Power, cast-on and the management bus -/

/-- A bind-off in progress whose DRAIN_DL has passed. -/
def draining : State :=
  { up with time := 9, power := { up.power with bindOff := some { req := none, drainDl := 5, queued := true } } }

theorem test_powerCommands_premises :
    (∀ b < 2, up.tidy = true ∧ Runs up opPOWER (withByte (pkt (zeros 16)) 0 b) ∧
      powerOk (withByte (pkt (zeros 16)) 0 b).payload false = true) ∧
    (let p' := withByte (pkt (mk 16 [(8, 8, 777)])) 0 2
     Runs up opPOWER p' ∧ powerOk p'.payload true = true ∧ up.power.bindOff = none) ∧
    (draining.tidy = true ∧ draining.power.bindOff.map (fun b => (b.drainDl, drained draining b)) = some (5, true) ∧ 5 < draining.time) := by
  unfold Runs; decide +kernel

/-- A device that is Off with its main switch closed. -/
def offState : State := { State.reset with power := { State.reset.power with due := false } }

/-- A Quiet device, and one that has been idle for 10 ms. -/
def quiet : State := { up with time := 25000000, power := { up.power with dev := .quiet } }
def idle10 : State := { up with time := 250000 }

theorem test_quiet_premises :
    (idle10.tidy = true ∧ quietDue idle10 = true ∧ idle10.power.windowAt = none ∧ moveOf idle10 0 = .still) ∧ quietDue up = false ∧
    (quiet.tidy = true ∧ quiet.power.dev = .quiet ∧ timerDue quiet = false ∧ quiet.power.quietAt + 25000000 ≤ quiet.time ∧
      quiet.power.windowAt = none) ∧
    (let s : State := { quiet with disp := waiting.disp }
     s.tidy = true ∧ s.power.dev = .quiet ∧ timerDue s = true) ∧
    (∀ ms ∈ [500000, 250000], let s : State := { up with time := ms, power := { up.power with windowAt := some (ms - 500000) } }
      s.tidy = true ∧ s.power.dev = .active ∧ s.power.windowAt = some (ms - 500000)) ∧
    (isOff offState = true ∧ offState.power.mainSwitch = true ∧ 1000 ≤ 1000 ∧ up.power.dev = .active) := by
  decide +kernel

theorem test_window_premises :
    let s := fun (idle : Nat) => ({ up with time := 500000, power := { up.power with windowAt := some 0, idleSince := idle } } : State)
    (0 + 500000 ≤ (s 0).time ∧ quietDue (s 0) = true) ∧ quietDue (s 499999) = false := by
  decide +kernel

/-- Sensors at rest: 100 W, 54 V, 60 °C. -/
def calm : Sensors := { watts := 100, meanW := 100, vin := 5400, iin := 200, tDie := 60, tSram := 60, tHbm := 60, energy := 1 }

theorem test_limits_premises :
    (up.tidy = true ∧ up.time < up.power.throttleAt + 2500 ∧ up.power.dev ≠ .off ∧ idle10.power.throttleAt + 2500 ≤ idle10.time ∧
      100 ≤ ({ calm with tDie := 100 } : Sensors).tDie ∧ fld up rPWR_LIMIT 10 0 < ({ calm with meanW := 1201 } : Sensors).meanW) ∧
    (115 ≤ ({ calm with tDie := 115 } : Sensors).tDie ∧ 110 ≤ ({ calm with tSram := 110 } : Sensors).tSram ∧
      105 ≤ ({ calm with tHbm := 105 } : Sensors).tHbm) ∧
    (({ calm with vin := 4799 } : Sensors).vin < 4800 ∧ 5800 < ({ calm with vin := 5801 } : Sensors).vin ∧ up.power.mainSwitch = true ∧
      4800 ≤ calm.vin ∧ calm.vin ≤ 5800) := by
  decide +kernel

theorem test_cutoffs_premises :
    up.tidy = true ∧ up.power.mainSwitch = true ∧ ({ up with power := { up.power with mainSwitch := false } } : State).power.mainSwitch = false ∧
      (let s : State := { up with time := 1500000000, trust := { up.trust with casting := true, trial := true } }
       s.tidy = true ∧ s.trust.casting = true ∧ s.trust.trial = true ∧ 1500000000 ≤ s.time) ∧ up.trust.casting = false := by
  decide +kernel

/-- A cast-on of a module in slot 2 of board 1 with every part good. -/
def castOnGood : CastOn :=
  { slot := 2, boardPos := 1, idBytes := some [7, 0, 0, 0, 0xF8, 0xFF, 0xFF, 0xFF], trustedOk := [true, true], untrustedOk := [true, true],
    stackMask := 255, pkgMask := 0xFFFFFF,
    badArrays := [], badUnits := [], badBanks := [], portUp := true, address := some host, ticks := 1000 }

/-- A cast-on at READY whose image stands in the boot area. -/
def inBoot : State := { up with trust := { up.trust with inBoot := true, casting := true, ready := false } }

theorem test_castOn_premises :
    (State.reset.tidy = true ∧ State.reset.power.due = true ∧ State.reset.power.mainSwitch = true ∧ State.reset.pins.resetLow = false ∧
      State.reset.power.dev = .off ∧ State.reset.trust.trial = false) ∧
    (chooseBank State.reset 0 0 [false, false]).1 = none ∧ (chooseBank State.reset 0 0 castOnGood.trustedOk).1.isSome = true ∧
    (chooseBank State.reset 0 2 [false, false]).1 = none ∧ (chooseBank State.reset 0 2 castOnGood.untrustedOk).1.isSome = true ∧
    bitList 8 castOnGood.stackMask ≠ [] ∧ castOnGood.idBytes = some (toLE 4 7 ++ toLE 4 (~~~(7 : W32)).toNat) ∧
    boardIdOf castOnGood.idBytes = 7 ∧ boardIdOf (some [7, 0, 0, 0, 0, 0, 0, 0]) = 0 ∧
    (inBoot.tidy = true ∧ inBoot.trust.inBoot = true ∧ inBoot.trust.casting = true ∧ inBoot.power.dev = .active ∧ stackCount inBoot ≠ 0) := by
  decide +kernel

theorem test_managementBus_premises :
    up.tidy = true ∧ up.power.mainSwitch = true ∧ up.pins.resetLow = false ∧ isOff offState = true ∧ offState.power.mainSwitch = true ∧
      offState.pins.resetLow = false ∧ up.power.dev ≠ .off ∧ up.trust.ready = true ∧ up.trust.recovery = false ∧ up.power.bindOff = none ∧
      look ({ up with ras := { up.ras with ring := [(255, zeros 64)] } } : State).ras.ring ((up.ras.nextIdx + 255) % 256) = some (zeros 64) := by
  decide +kernel

theorem test_testPort_premises :
    ({ up with pins := { up.pins with resetLow := true } } : State).pins.resetLow = true ∧ up.pins.resetLow = false ∧
      up.fuses.debugOpen = false ∧ ({ up with fuses := { up.fuses with debugOpen := true } } : State).fuses.debugOpen = true := by
  decide +kernel

/-! ### Firmware, repair and tests -/

/-- An image of build 3 that may be handed over to, staged in the other untrusted bank; one staged in the other trusted bank. -/
def image3 : Image := { Image.zero with build := 3, svn := 1 }
def staged (k : Nat) : State := { up with trust := { up.trust with staged := [(k, image3)] } }
def trialling (armed : Bool) : State := { up with trust := { up.trust with trial := true, armed := armed } }

/-- A port configuration record with IPv4 configuration and no host (Table 17.13). -/
def portBody : Bytes := mk 252 [(0, 2, 1), (2, 2, 0xB8CF), (9, 1, 0), (10, 2, 9216)]
def portRec : Bytes := portBody ++ toLE 4 (crc32c portBody)

theorem portRec_ok : portRecordOk portRec = true := by
  have hl : portBody.length = 252 := by decide +kernel
  have hn : num portRec 252 4 = crc32c portBody := by
    rw [num, portRec, List.drop_left' hl, List.take_of_length_le (by simp)]
    exact ofLE_toLE 4 _ (crc32c_lt _)
  have ht : portRec.take 252 = portBody := List.take_left' hl
  unfold portRecordOk
  rw [hn, ht, beq_self_eq_true]
  decide +kernel

theorem test_firmwareCommands_premises :
    (let p := pkt (mk 28 [(0, 4, 0xFFFFFFFF), (4, 1, 6), (24, 2, 777)])
     up.tidy = true ∧ Runs up opSUB p ∧ num p.payload 4 1 = 6 ∧ allZero p.payload 5 3 = true ∧ allZero p.payload 26 2 = true) ∧
    Runs up opUNSUB (pkt []) ∧
    (∀ k < 2,
      let p' := withByte (pkt (mk 8 [(4, 4, 64)] ++ zeros 64)) 0 k
      Runs up opSTAGE p' ∧ stageFault up p'.payload = none) ∧
    (let p' := withByte (pkt (mk 8 [(4, 4, 256)] ++ zeros 256)) 0 2
     Runs up opSTAGE p' ∧ stageFault up p'.payload = none) := by
  unfold Runs; decide +kernel

theorem test_activate_premises :
    (let p' := withByte (pkt (mk 16 [(8, 8, 3)])) 0 0
     (staged 0).tidy = true ∧ Runs (staged 0) opACTIVATE p' ∧ actHead (staged 0) p'.payload = true ∧ look (staged 0).trust.staged 0 = some image3 ∧
      buildIs p'.payload image3 = true ∧ (staged 0).trust.recovery = false ∧ (staged 0).trust.pending = none ∧ stackCount (staged 0) ≠ 0 ∧
      image3.hoMin ≤ (staged 0).trust.running.hoOut ∧ (staged 0).trust.running.hoOut ≤ image3.hoMax ∧
      look (staged 0).trust.banks (stageBank (staged 0) 0) = none) ∧
    (let s : State := { staged 0 with trust := { (staged 0).trust with recovery := true } }
     s.tidy = true ∧ Runs s opACTIVATE (withByte (pkt (zeros 16)) 0 0) ∧ s.trust.recovery = true) ∧
    (Runs up opACTIVATE (withByte (pkt (zeros 16)) 0 1) ∧ buildIs (zeros 16) up.trust.running = true) ∧
    (Runs (staged 1) opACTIVATE (withByte (pkt (zeros 16)) 0 2) ∧ look (staged 1).trust.staged 1 = some image3 ∧ (staged 1).trust.trial = false ∧
      buildIs (withByte (pkt (zeros 16)) 0 2).payload image3 = true) ∧
    (Runs (trialling false) opACTIVATE (withByte (pkt (zeros 16)) 0 3) ∧ (trialling false).trust.trial = true ∧
      (trialling false).trust.armed = false ∧ buildIs (withByte (pkt (zeros 16)) 0 3).payload (trialling false).trust.trusted = true) ∧
    (Runs (trialling true) opACTIVATE (withByte (pkt (zeros 16)) 0 4) ∧ (trialling true).trust.trial = true ∧
      buildIs (withByte (pkt (zeros 16)) 0 4).payload (trialling true).trust.trusted = true) ∧
    (Runs up opATTEST (pkt (zeros 32)) ∧ up.trust.attests.length < 8) := by
  unfold Runs; decide +kernel

/-- An empty bank fails the check of its image; whether another passes rests on a signature, which is opaque in the model (log 5). -/
theorem test_stagedImage_premises : ∃ c, verifyImage up 1 (pokes (bankMem up 3) 0 (zeros 64)) = .error c := ⟨1, by rfl⟩

/-- Under a signature that holds, the check accepts an untrusted image of build 3. -/
theorem test_stagedImage_valid (h : ∀ k d g, Config.verify k d g = true) : ∃ s m i, verifyImage s 1 m = .ok i := by
  let hd : Bytes := mk 256 [(0, 4, 0x3131584B), (4, 2, 1), (6, 1, 1), (16, 8, 3), (30, 1, 1), (33, 1, 4)]
  refine ⟨{ up with fuses := { up.fuses with keyDigests := [sha256 (zeros 48)] } }, pokes [] 0 hd, imageOf hd (sha256 (peeks (pokes [] 0 hd) 0 256)), ?_⟩
  have hp : peeks (pokes [] 0 hd) 0 256 = hd := by decide +kernel
  have hk : sliceOf hd 64 48 = zeros 48 := by decide +kernel
  have hs : num hd 7 1 = 0 := by decide +kernel
  have hl : signedLen hd = 256 := by decide +kernel
  unfold verifyImage
  dsimp only
  rw [hp, if_neg (by decide +kernel), if_neg (by decide +kernel), hk, hs, if_neg (by simp [up, bit]; decide +kernel),
    if_neg (by decide +kernel), if_neg (by decide +kernel), hl, if_pos (h _ _ _), hp]

/-- An attestation and a memory test that wait. -/
def attesting : State := { up with trust := { up.trust with attests := [rowReq opATTEST (pkt (zeros 32))] } }
def marching : State := { up with ras := { up.ras with march := some (rowReq opMARCH (pkt (zeros 16)), zeros 24) } }

theorem test_idleReports_premises :
    attesting.tidy = true ∧ attesting.pending = [] ∧ attesting.ras.march = none ∧ marching.tidy = true ∧ marching.trust.attests = [] ∧
      pinLoss attesting = none ∧ pinLoss marching = none ∧ attesting.link.links = [] ∧
      marching.ras.march = some (rowReq opMARCH (pkt (zeros 16)), zeros 24) := by
  decide +kernel

theorem test_handover_premises :
    let s : State := { up with trust := { up.trust with handover := some 4, pending := some image3 } }
    s.tidy = true ∧ s.trust.handover = some 4 ∧ s.trust.pending = some image3 ∧ s.power.bindOff = none ∧ s.kct.buffer = [] ∧
      up.trust.handover = none := by
  decide +kernel

/-- A module in maintenance. -/
def inTest : State := { up with tier := { up.tier with maint := true } }

theorem test_hbmRepair_premises :
    (let p' := withByte (pkt (mk 4 [(1, 1, 7)])) 0 0
     up.tidy = true ∧ Runs up opHBM p' ∧ hbmFault up p'.payload true false true = none ∧ 2052 ≤ pathMax up host) ∧
    (∀ hard : Bool,
      let p' := withByte (pkt (mk 12 [(1, 1, 7), (4, 1, 31), (5, 1, 63), (8, 4, 16383)])) 0 (if hard then 2 else 1)
      inTest.tidy = true ∧ Runs inTest opHBM p' ∧ hbmFault inTest p'.payload (rowFieldsOk p'.payload) hard true = none ∧
        spareRows inTest 7 31 63 ≠ 0 ∧ rowNamed p'.payload = (7, 31, 63, 16383)) ∧
    (let p' := withByte (pkt (zeros 4)) 0 3
     Runs inTest opHBM p' ∧ hbmFault inTest p'.payload true true true = none) ∧
    (let p' := withByte (pkt (mk 12 [(8, 2, 9)] ++ zeros 2)) 0 4
     Runs inTest opHBM p' ∧ hbmFault inTest p'.payload (num p'.payload 8 2 ≤ 32768 && allZero p'.payload 10 2) true true = none ∧
      ceilDiv (num p'.payload 8 2) 8 ≤ pathMax inTest host) ∧
    (let p' := withByte (pkt (zeros 4)) 0 5
     Runs up opHBM p' ∧ hbmFault up p'.payload true false false = none ∧ idleServe up = true ∧ up.disp.insts = []) ∧
    (let p' := withByte (pkt (zeros 4)) 0 6
     Runs inTest opHBM p' ∧ hbmFault inTest p'.payload true true false = none ∧ inTest.tier.tested = []) ∧
    (let p' := withByte (pkt (mk 4 [(1, 1, 7)])) 0 7
     Runs up opHBM p' ∧ hbmFault up p'.payload true false true = none) := by
  unfold Runs; decide +kernel

/-- The failures of recalibration of channel 0 of stack 0 and of package 0. -/
def recalFailed (n : Nat) : State := { up with tier := { up.tier with recalBad := [(0, n), (4096, n)] } }
/-- The scrubbers on, at a line of both tiers. -/
def scrubbing (near far : Nat) : State :=
  let s := withReg (withReg up rNT_CTL 0xC03) rFT_CTL 0x1801
  { s with tier := { s.tier with scrubNear := near, scrubFar := far } }

theorem test_tiers_premises :
    (up.tidy = true ∧ stackIn up 7 = true ∧ pkgIn up 23 = true ∧ up.power.dev ≠ .off ∧ up.power.dev = .active) ∧
    (stackIn (recalFailed 2) 0 = true ∧ pkgIn (recalFailed 2) 0 = true ∧ 2 ≤ (look (recalFailed 2).tier.recalBad 0).getD 0 ∧
      2 ≤ (look (recalFailed 2).tier.recalBad 4096).getD 0 ∧ (look (recalFailed 1).tier.recalBad 0).getD 0 < 2) ∧
    (let s := scrubbing (capOf up 1 / 64 - 1) (capOf up 2 / 64 - 1)
     s.tidy = true ∧ fld s rNT_CTL 0 0 = 1 ∧ fld s rFT_CTL 0 0 = 1 ∧ s.tier.scrubNear < capOf s 1 / 64 ∧ capOf s 1 / 64 ≤ s.tier.scrubNear + 1 ∧
      s.tier.scrubFar < capOf s 2 / 64 ∧ pinLoss s = none ∧ badIn s 1 (s.tier.scrubNear * 64) 64 = false ∧
      badIn s 2 (s.tier.scrubFar * 64) 64 = false) := by
  decide +kernel

/-- The unit states that the tests of repair need: array 0 and attention unit 0 in service, array 103 and unit 17 spare. -/
def units : State :=
  let s := withReg (withReg up (rARRAY_STAT 0) 1) (rARRAY_MAP 0) 0x80
  let s := withReg (withReg s (rARRAY_STAT 103) 0xFE00) (rSHADOW_VALID 0) 1
  let s := withReg (withReg s (rATTN_STAT 0) 1) (rATTN_MAP 0) 32
  (List.range 17).foldl (fun s i => withReg s (rATTN_STAT (i + 1)) (if i = 16 then 0x3E00 else 3)) (withReg s (rBED_STAT 12) 1)

/-- A MARCH_RUN of OP 0 on the slice of array 103, bytes 4096 to 8191. -/
def marchPkt (op kind n mode len : Nat) : Pkt := withByte (pkt (mk 16 [(1, 1, kind), (2, 2, n), (4, 1, mode), (8, 4, 4096), (12, 4, len)])) 0 op

theorem test_march_premises :
    (units.tidy = true ∧ Runs units opMARCH (marchPkt 0 0 103 0 4096) ∧ units.ras.march = none ∧
      allZero (marchPkt 0 0 103 0 4096).payload 6 2 = true ∧ marchOk units (marchPkt 0 0 103 0 4096).payload = true) ∧
    (let s : State := { units with fuses := { units.fuses with variantB := true } }
     let p' := marchPkt 0 3 70 1 4096
     s.tidy = true ∧ Runs s opMARCH p' ∧ allZero p'.payload 6 2 = true ∧ mKIND p'.payload = 3 ∧ mINST p'.payload = 70 ∧
      marchAbsent s 70 = true ∧ marchAbsent units 70 = false) ∧
    (marchOk units (marchPkt 0 0 0 1 65536).payload = true ∧ Runs units opMARCH (marchPkt 0 0 0 1 65536) ∧ mMODE (marchPkt 0 0 0 1 65536).payload ≠ 0) ∧
    (Runs marching opMARCH (marchPkt 0 0 103 0 4096) ∧ marching.ras.march ≠ none) ∧
    (∀ k < 2,
      let n := if k = 0 then 103 else 17
      let p' := withByte (pkt (mk 16 [(1, 1, 2 * k), (2, 2, n)])) 0 1
      Runs units opMARCH p' ∧ allZero p'.payload 6 2 = true ∧ mKIND p'.payload = 2 * k ∧ mINST p'.payload = n ∧ maySwatch units k n = true) := by
  unfold Runs; decide +kernel

theorem test_retire_premises :
    (∀ k < 2,
      let p' := withByte (pkt (mk 16 [(1, 1, 2 * k)])) 0 2
      Runs units opMARCH p' ∧ allZero p'.payload 6 2 = true ∧ mKIND p'.payload = 2 * k ∧ mINST p'.payload = 0 ∧ unitState units k 0 = 1 ∧
        (chooseSpare units k).isSome = true) ∧
    (let p' := withByte (pkt (mk 16 [(1, 1, 1), (2, 2, 127)])) 0 2
     Runs units opMARCH p' ∧ mKIND p'.payload = 1 ∧ mINST p'.payload = 127 ∧ units.ras.bankCopy = [] ∧ bankServed units 127 = some 127 ∧
      spareBanks units ≠ [] ∧ spareBanks { units with ras := { units.ras with banksBad := [128, 129, 130, 131] } } = []) ∧
    (let p' := withByte (pkt (mk 16 [(4, 1, 1)])) 0 3
     Runs units opMARCH p' ∧ mMODE p'.payload < 2) ∧
    (let p' := withByte (pkt (mk 16 [(8, 4, 255)])) 0 5
     Runs units opMARCH p' ∧ allZero p'.payload 6 2 = true ∧ mOFFSET p'.payload = 255) := by
  unfold Runs; decide +kernel

/-- A retirement of array 0 whose copy to array 103 runs, and a copy of bank 3 to bank 128. -/
def retire0 : Retire := { kind := 0, logical := 0, phys := 0, spare := some 103, copied := false, definite := true, cause := 0x0802 }
def repairing : State := { units with ras := { units.ras with retires := [retire0], bankCopy := [(3, 128, 0)], regionCe := [(8191, 16)] } }

theorem test_repairs_premises :
    (repairing.tidy = true ∧ repairing.power.dev ≠ .off ∧ maySwatch units 0 103 = true ∧ maySwatch units 1 17 = true ∧
      taskFree units 0 103 = true ∧ taskFree units 1 17 = true) ∧
    (sliceSpares repairing 0 ≠ 0 ∧ 16 ≤ (look repairing.ras.regionCe (8192 * 0 + 8191)).getD 0) ∧
    (let s := withBad units 3 ((103 * 2 ^ 25 + 4096) / 16)
     s.tidy = true ∧ sliceSpares s 103 ≠ 0 ∧ (∃ x ∈ s.mem.bad, x.1 = 3 ∧ sliceBase 103 + 4096 ≤ x.2 * 16 ∧ x.2 * 16 < sliceBase 103 + 8192)) ∧
    (let s := withBad units 3 4
     logicalOf s 0 < 96 ∧ fld s (rSHADOW_VALID (logicalOf s 0 / 32)) (logicalOf s 0 % 32) (logicalOf s 0 % 32) = 1 ∧
      imageBad s (logicalOf s 0) false .clean = [] ∧ (∃ x ∈ s.mem.bad, x.1 = 3 ∧ sliceBase 0 ≤ x.2 * 16 ∧ x.2 * 16 < sliceBase 0 + 4096)) ∧
    ((repairing.ras.bankCopy.find? fun x => x.1 == 3) = some (3, 128, 0)) ∧
    ((repairing.ras.retires.find? fun x => x.kind == 0 && x.logical == 0 && !x.copied) = some retire0 ∧ bedPowered repairing (103 / 8) = true ∧
      fld repairing (rSHADOW_VALID 0) 0 0 = 1 ∧ imageBad repairing 0 true .clean = []) ∧
    (let s : State := { up with power := { up.power with windowAt := some 0 }, ras := { up.ras with bgRegion := bgRegions - 1 } }
     s.tidy = true ∧ s.ras.bgRegion < bgRegions ∧ s.trust.ready = true ∧ s.power.dev = .active ∧ s.power.windowAt.isSome = true ∧
      bgSkips s (bgRegions - 1) = false) ∧
    (2 ^ 22 - 1 < 2 ^ 22 ∧ up.serve.retryDis = false ∧ ({ up with serve := { up.serve with retryDis := true } } : State).serve.retryDis = true) := by
  decide +kernel

/-- An unsaved record of a severity, and a hold that ends at time 5. -/
def unsaved (sev t : Nat) : State := { up with time := t, ras := { up.ras with dirty := some sev, holdUntil := some 5 } }

theorem test_scansAndMailbox_premises :
    (let s : State := { up with time := 25000, ras := { up.ras with refSet := true } }
     s.tidy = true ∧ s.ras.refSet = true ∧ s.ras.scanAt + 25000 ≤ s.time ∧ holding s = false ∧ s.ras.cfgReported = none) ∧
    (up.tidy = true ∧ up.trust.ready = true ∧ up.power.dev ≠ .off ∧ holding up = false ∧
      up.ras.cfgReported = none ∧ (unsaved 1 4).tidy = true ∧ holding (unsaved 1 4) = true) ∧
    ((unsaved 2 5).ras.holdUntil = some 5 ∧ 5 ≤ (unsaved 2 5).time ∧ (unsaved 1 4).time < 5 ∧ (unsaved 2 5).ras.dirty = some 2 ∧
      (unsaved 1 1500000000).ras.savedAt + 1500000000 ≤ (unsaved 1 1500000000).time ∧ (unsaved 1 4).time < (unsaved 1 4).ras.savedAt + 1500000000) ∧
    (units.tidy = true ∧ physOf units 0 = 0 ∧ unitState units 0 103 = 0 ∧ (0, 103) ∉ units.ras.swatchBad ∧ fld units (rARRAY_MAP 0) 7 7 = 1 ∧
      unitState units 0 0 ≠ 0 ∧ physOf units 95 ≠ 103 ∧ units.ras.retires = []) ∧
    (let r : Retire := { retire0 with definite := false }
     r.spare = some 103 ∧ r.phys ≠ 103 ∧ r.kind = 0 ∧ ({ r with kind := 1, spare := some 17 } : Retire).phys ≠ 17) ∧
    (fld units (rATTN_MAP 0) 4 0 = 0 ∧ unitState units 1 17 = 0 ∧ (1, 17) ∉ units.ras.swatchBad ∧ fld units (rATTN_MAP 0) 5 5 = 1) ∧
    (freeRun up 0 0 1 = true ∧ freeRun up 1 (2 ^ 20) 1 = true ∧ freeRun up 2 8 1 = true ∧ (ctxOf up 0).isSome = true ∧ ctxOf up 9 = none) ∧
    (130 ∈ spareBanks up ∧ 3 ∉ spareBanks up ∧ up.ras.bankCopy = []) ∧ portRecordOk [] = false ∧
    (isProtected up { write := true, space := 1, addr := shadowBase up, data := [] } = true ∧
      isProtected up { write := true, space := 1, addr := registryBase up, data := [] } = false) ∧
    (isProtected up { write := true, space := 4, addr := 0xB0000, data := [] } = true ∧
      isProtected up { write := false, space := 4, addr := 0xB0000, data := [] } = false) := by
  decide +kernel

/-- Between CFG_REF 0 and 1 one at least is no check value. -/
theorem test_scan_mismatch :
    checkValue up % 2 ^ 32 ≠ rd up rCFG_REF ∨ checkValue (withReg up rCFG_REF 1) % 2 ^ 32 ≠ rd (withReg up rCFG_REF 1) rCFG_REF := by
  have e : checkValue (withReg up rCFG_REF 1) = checkValue up := by
    unfold checkValue coveredBytes
    have h : ∀ a ∈ coveredSet, readWord (withReg up rCFG_REF 1) a = readWord up a := by decide +kernel
    simp only [List.flatMap]
    rw [List.map_congr_left fun a ha => by rw [h a ha]]
  have h0 : rd up rCFG_REF = 0 := by decide +kernel
  have h1 : rd (withReg up rCFG_REF 1) rCFG_REF = 1 := by decide +kernel
  rw [e, h0, h1]
  omega

/-! ### Transport, the host port, links -/

/-- A WRITE_MEM of two segments of 64 bytes under way, its first segment here; READ_MEM's reply of 20,000 bytes on its way out; a rate at
half; all of them old. -/
def segHdr (op seg last n : Nat) : Hdr := { hdr 0 1 n with seg := true, segment := seg, segLast := last, opcode := op }
def writeIn (op : Nat) (st : Option (Nat × Nat)) (acked : Bool) : InXfer :=
  { req := hostReq { pkt (mk 64 [(0, 1, if op = opWRITE then 1 else 0), (8, 8, 2 ^ 38)]) with hdr := segHdr op 0 1 64 }, size := 64, last := 1, got := [0],
    lastLen := 64, staging := st, sinceAck := 1, arrived := 0, acked := acked }
def readOut (tries : Nat) : OutXfer :=
  { via := none, dst := host, hdr := { hdr 0 1 0 with reply := true, opcode := opREAD }, data := zeros 640, size := 64, base := 1, got := [], next := 3,
    tries := [(1, tries)], moved := 0 }
def moving (op : Nat) (st : Option (Nat × Nat)) (acked : Bool) (tries : Nat) : State :=
  { up with time := 2500000, kct := { up.kct with inX := [writeIn op st acked], outX := [readOut tries],
                                                    rates := [{ dst := host, num := 50, exp := 0, halved := 0, changed := 0 }] } }

theorem test_segments_premises :
    (∀ op ∈ [opWRITE, opWEIGHTS],
      let st := if op = opWRITE then none else some (2 ^ 21, 1)
      let s := moving op st false 0
      let p : Pkt := { pkt (zeros 8) with hdr := segHdr op 1 1 8 }
      s.tidy = true ∧ s.trust.handover = none ∧ verdict s op (hostReq p) = .dropQuiet ∧ p.frame = .good ∧ p.hdr.ack = false ∧ p.hdr.seg = true ∧
        findIn s 0 1 = some (writeIn op st false) ∧ (writeIn op st false).req.pkt.hdr.opcode = op ∧ 8 ≤ (writeIn op st false).size) ∧
    writeFault (moving opWRITE none false 0) 0 (toLE 8 1 ++ toLE 8 (2 ^ 38 + 1 * 64 - 16)) 8 = none ∧
    (let x : InXfer := { writeIn opWEIGHTS (some (2 ^ 21, 1)) false with last := 2 }
     ([1, 0] : List Nat).length ≠ x.last + 1 ∧ ([1, 0] : List Nat).length = (writeIn opWRITE none false).last + 1) ∧
    (let s := moving opWRITE none false 0
     let p := fun b => ({ pkt (mk 264 [(0, 2, b)]) with hdr := { hdr 0 1 264 with ack := true, opcode := opREAD } } : Pkt)
     verdict s opREAD (hostReq (p 2)) = .dropQuiet ∧ findOut s 0 1 = some (readOut 0) ∧ (p 2).payload.length = 264 ∧ (readOut 0).base ≤ 2 ∧
      2 ≤ (readOut 0).next ∧ outLast (readOut 0) < 65535 ∧ 2 ≤ outLast (readOut 0) ∧ (readOut 0).base < 2 ∧
      outLast { readOut 0 with data := zeros 192 } < 3 ∧ verdict s opREAD (hostReq (p 3)) = .dropQuiet) := by
  decide +kernel

theorem test_transferTimers_premises :
    (let s := moving opWRITE none false 0
     findIn s 0 1 = some (writeIn opWRITE none false) ∧ (writeIn opWRITE none false).acked = false ∧ 0 + 500 ≤ s.time ∧ 0 + 2500000 ≤ s.time ∧
      (writeIn opWRITE none false).req.via = none ∧ portUp s = true ∧ hasAddr s = true ∧ (writeIn opWRITE none true).acked = true ∧
      findOut s 0 1 = some (readOut 0) ∧ (readOut 0).moved + 5000 ≤ s.time ∧ (∀ x ∈ (readOut 0).tries, x.2 < 8) ∧
      (s.kct.rates.find? fun y => y.dst == host) = some { dst := host, num := 50, exp := 0, halved := 0, changed := 0 } ∧ 0 + 1250 ≤ s.time ∧
      50 + 2 * 2 ^ 0 < 100 * 2 ^ 0) ∧
    (let x := readOut 8
     findOut (moving opWRITE none false 8) 0 1 = some x ∧ (x.base ≤ 1 ∧ 1 < x.next ∧ 1 ∉ x.got) ∧ 8 ≤ (look x.tries 1).getD 0) ∧
    (up.time < (writeIn opWRITE none true).arrived + 500 ∧ up.time < (writeIn opWRITE none true).arrived + 2500000 ∧ 100 * 2 ^ 1 ≤ 199 + 2 * 2 ^ 1) := by
  decide +kernel

/-- The port down for a second; the port with an address of its own and DHCP on. -/
def portDown : State :=
  let s := withReg up 0x20000 8
  { s with time := 25000000, ras := { s.ras with downSince := some 0 } }
def addressed : State := { up with time := 750000000, kct := { up.kct with addr4 := some 5 } }

theorem test_hostPort_premises :
    (portDown.tidy = true ∧ portDown.power.dev ≠ .off ∧ portUp portDown = false ∧ paused portDown = false ∧ hasAddr portDown = true ∧
      decide (hpFld portDown rHP_CFG2 31 30 < 2) = true ∧ portDown.kct.held = [] ∧ (12 : Nat) ≠ 15 ∧ portDown.ras.downSince = some 0 ∧ portDown.ras.downSeen = false ∧
      0 + 25000000 ≤ portDown.time) ∧
    (addressed.tidy = true ∧ portUp addressed = true ∧ hpFld addressed rHP_CFG2 15 15 = 0 ∧ addressed.kct.held = [] ∧
      hpFld (withReg addressed rHP_CFG2 0x8000) rHP_CFG2 15 15 = 1 ∧ addressed.kct.lldpAt + 750000000 ≤ addressed.time ∧
      isMine addressed 4 5 = true ∧ isMine addressed 4 6 = false ∧ up.time < up.kct.lldpAt + 750000000 ∧ up.time < 0 + 25000000) ∧
    (let s := withReg up 0x20004 (0xB8CF0000 + 8 + 3)
     portUp s = true ∧ hpFld s rHP_CFG 3 3 = 1 ∧ hpFld s rHP_CFG 2 0 = 3 ∧ (4 : Nat) ≠ hpFld s rHP_CFG 2 0) := by
  decide +kernel

/-- Link 0 UP, a command forwarded over it, and a proxied packet. -/
def linked : State := withReg up (rLINK_STAT 0) (4 + 0xF0)
def proxied (op c seq : Nat) : Pkt :=
  { pkt [] with hdr := { hdr c seq 0 with proxy := true, proxySlot := slotOf linked 0, opcode := op } }
def forwarded (answered : Bool) : Proxy := { req := hostReq (proxied opTIME 0 1), slot := 3, link := 0, at_ := 0, answered := answered }
def forwarding (answered : Bool) : State := { linked with time := 250000, kct := { linked.kct with proxies := [forwarded answered] } }

theorem test_proxies_premises :
    (linked.tidy = true ∧ linkToSlot linked (slotOf linked 0) = 0 ∧ linkOk linked 0 = true ∧ linkOk up 0 = false ∧
      verdict linked opTIME (hostReq (proxied opTIME 0 1)) = .forward ∧ verdict up opTIME (hostReq (proxied opTIME 0 1)) = .forward ∧
      verdict linked opTIME (hostReq (proxied opTIME 5 1)) = .forward ∧ linked.kct.proxies = []) ∧
    (boardLink (forwarding false) 0 = true ∧ portUp (forwarding false) = true ∧ hasAddr (forwarding false) = true ∧
      ((forwarding false).kct.proxies.find? fun y => y.link == 0 && y.req.pkt.hdr.seq == 1) = some (forwarded false) ∧
      ((forwarding false).kct.proxies.find? fun y => y.slot == 3 && y.req.pkt.hdr.seq == 1) = some (forwarded false) ∧
      (forwarded false).at_ + 250000 ≤ (forwarding false).time ∧ (forwarded false).req.via = none ∧ up.time < (forwarded true).at_ + 250000) ∧
    (let h : Hdr := { (proxied opTIME 0 1).hdr with reply := true }
     let x : Proxy := { forwarded true with req := hostReq (proxied opADMIT 0 1) }
     endsProxy (forwarded false) h = true ∧ endsProxy x h = false ∧ x.answered = true ∧ x.final = false) ∧
    (let p : Pkt := { proxied opTIME 0 1 with hdr := { (proxied opTIME 0 1).hdr with proxySlot := mySlot linked } }
     boardLink linked 0 = true ∧ p.hdr.event = false ∧ p.hdr.proxySlot = mySlot linked ∧ ctxVerdict linked opTIME p = .accept ∧ p.hdr.seg = false ∧
      8 ≤ pathMax linked host ∧ (proxied opTIME 0 1).hdr.proxySlot ≠ mySlot linked) := by
  decide +kernel

/-- A head flit of class 0 with 16 bytes, sequence `q`, and its CRC. -/
def flitTail : Bytes := zeros 240
def flitOf (q : Nat) : Bytes :=
  let h := mk 12 [(0, 1, 16), (1, 1, 16), (2, 2, q)]
  h ++ toLE 4 (crc32 (h ++ flitTail)) ++ flitTail

theorem test_flit_good (q : Nat) : goodFlit (flitOf q) = true := by
  have hl : (mk 12 [(0, 1, 16), (1, 1, 16), (2, 2, q)]).length = 12 := rfl
  have e : flitOf q = mk 12 [(0, 1, 16), (1, 1, 16), (2, 2, q)] ++ (toLE 4 (crc32 (mk 12 [(0, 1, 16), (1, 1, 16), (2, 2, q)] ++ flitTail)) ++ flitTail) := by
    rw [flitOf, List.append_assoc]
  have h4 : ∀ v, (toLE 4 v).length = 4 := toLE_length 4
  have ht : flitTail.length = 240 := by decide +kernel
  unfold goodFlit
  rw [e]
  generalize hh : mk 12 [(0, 1, 16), (1, 1, 16), (2, 2, q)] = h at hl ⊢
  have h16 : (h ++ (toLE 4 (crc32 (h ++ flitTail)) ++ flitTail)).drop 16 = flitTail := by
    rw [← List.append_assoc]; exact List.drop_left' (by simp [hl])
  rw [List.take_left' hl, h16, num, List.drop_left' hl, List.take_left' (h4 _), ofLE_toLE 4 _ (crc32_lt _)]
  simp [hl, ht]

theorem test_dataFlits_premises :
    (linked.power.dev ≠ .off ∧ linkOk linked 0 = true ∧ (linkOf linked 0).retraining = false ∧ (linkOf linked 0).rxNext = 0) ∧
    (∀ q ∈ [0, 32767], num (flitOf q) 0 1 / 16 = 1 ∧ num (flitOf q) 1 1 = 16 ∧ bits 3 2 (num (flitOf q) 0 1) ≠ 3 ∧ num (flitOf q) 2 2 = q ∧
      bit 1 (num (flitOf q) 0 1) = false) ∧
    goodFlit [] = false ∧ 0 < (32767 + 65536 - 0) % 65536 ∧ (32767 + 65536 - 0) % 65536 < 32768 := by
  decide +kernel

/-- Link 10 in a state, with what it holds. -/
def link10 (st : Nat) (t : Nat) (l : Link) : State :=
  let s := withReg (withReg up (rLINK_STAT 10) (st + 0xF0)) (rLINK_CTL 10) 1
  { s with time := t, link := { s.link with links := [(10, l)] } }
def flit0 (crc : Bool) (i : Option Identity) (v : Option (Nat × Nat)) : CtlFlit :=
  { crcOk := crc, ackSeq := 0, nak := false, freed := [0, 0, 0], linkMask := 0, identity := i, verdict := v }

theorem test_links_premises :
    (∀ st ∈ [0, 1, 2, 4], (link10 st 25000000 default).tidy = true ∧ linkThere (link10 st 25000000 default) 10 = true ∧
      linkState (link10 st 25000000 default) 10 = st ∧ (linkOf (link10 st 25000000 default) 10).since + 25000000 ≤ 25000000 ∧
      (linkOf (link10 st 25000000 default) 10).verdict = none ∧ (linkOf (link10 st 25000000 default) 10).silent = false) ∧
    (link10 0 0 default).power.dev ≠ .off ∧ fld (link10 0 0 default) (rLINK_CTL 10) 0 0 = 1 ∧ linkOk (link10 4 25 default) 10 = true ∧
    (linkOf (link10 4 25 default) 10).lastCtl + 25 ≤ 25 := by
  decide +kernel

theorem test_retrains_premises :
    let l := fun (n : Nat) => ({ (default : Link) with retraining := true, retrains := n } : Link)
    (linkOf (link10 4 25000 (l 2)) 10).retraining = true ∧ lanesAfter (link10 4 25000 (l 2)) 10 15 = 15 ∧ lanesAfter (link10 4 0 (l 2)) 10 12 ≠ 0 ∧
      (l 2).replay = [] ∧ (l 2).since + 250 ≤ 25000 ∧ (0 : Nat) < (l 2).since + 250 ∧ 3 ≤ (l 2).retrains + 1 ∧ (l 1).retrains + 1 < 3 ∧ 0 < (l 1).firstFail + 25000 ∧ (l 1).retrains ≠ 0 ∧
      (l 1).firstFail + 25000 ≤ 25000 := by
  decide +kernel

theorem test_controlFlits_premises :
    let s := link10 2 0 { (default : Link) with told := true, mine := some (0, 1) }
    (2 ≤ linkState s 10 ∧ (linkOf s 10).retraining = false ∧ (flit0 false none none).crcOk = false ∧ (flit0 true (some peer2) none).crcOk = true ∧
      linkState s 10 = 2 ∧ (flit0 true (some peer2) none).identity = some peer2 ∧ (linkOf (link10 2 0 default) 10).verdict = none ∧
      (linkOf (link10 2 0 default) 10).told = false) ∧
    ((flit0 true none (some (0, 1))).verdict = some (0, 1) ∧ (linkOf s 10).told = true ∧ (linkOf s 10).mine = some (0, 1) ∧
      (flit0 true none (some (1, 1))).verdict = some (1, 1) ∧ linkOk (link10 4 0 default) 10 = true) := by
  decide +kernel

/-! ### Arrays, beds and engines -/

/-- Array 0 in service in a bed that runs, and an array task on it: one tile, four tokens, home of slot 5 unless it spills. -/
def arrDesc (fields : List (Nat × Nat × Nat)) : Bytes :=
  mk 64 ([(0, 1, 1), (18, 2, 1), (22, 1, 4), (24, 4, 0x1000), (32, 2, 5), (34, 1, 0x81), (36, 4, 0x2000), (40, 4, 0x8000), (56, 2, 1024)] ++ fields)
def run0 (loaded fetched : Bool) : ArrRun :=
  { slot := 0, inst := 1, index := 0, logical := 0, mode := 0, skip := false, pos := 0, loaded := loaded, fetched := fetched, badAct := false }
def tile0 : TileReg := { tile := 0, entry := 209, cells := [] }
def half0 : ActHalf := { addr := 0x1000, tokens := 4, cells := [(0, 0x12)] }
def onArray (d : Bytes) (loaded fetched : Bool) : State :=
  let s := withTask units d
  { s with arr := { s.arr with arrays := [(0, { (default : Arr) with active := some tile0, halves := [half0], run := some (run0 loaded fetched) })] } }

theorem test_arrayBegins_premises :
    (∀ k ∈ [0, 4], let s := withTask units (arrDesc [(22, 1, k)])
      s.tidy = true ∧ keysAbove none s.arr.arrays = true ∧ (released s 0 1 (fun _ => true)).isSome = true ∧ aTOKENS (arrDesc [(22, 1, k)]) = k ∧
        fld s (rARRAY_MAP 0) 7 7 = 1 ∧ bedRuns s (physOf s 0 / 8) = true ∧ (arrOf s 0).run = none ∧ logicalBusy s 0 = false) := by
  decide +kernel

theorem test_arrayPass_premises :
    (let s := onArray (arrDesc []) false false
     s.tidy = true ∧ keysAbove none s.arr.arrays = true ∧ (running s 0).isSome = true ∧ 0 < aCOUNT (arrDesc []) ∧
      firstBad s 3 (sliceBase 0) (recordLen (readRecord s 0 0).entry) = none ∧ firstBad (withBad s 3 12) 3 (sliceBase 0) slotBytes = some 192 ∧
      s.ras.collided = [] ∧ (∀ z ∈ actReads 0 0 (aACT (arrDesc [])) 4, firstBad s 0 z.1 z.2 = none) ∧
      (∃ z ∈ actReads 0 0 (aACT (arrDesc [])) 4, firstBad (withBad s 0 256) 0 z.1 z.2 ≠ none)) ∧
    (let d := arrDesc [(18, 2, 2)]
     let s := onArray d true true
     (running s 0).isSome = true ∧ (run0 true true).fetched = true ∧ (run0 true true).ahead = false ∧ 0 + 1 < aCOUNT d ∧ (arrOf s 0).halves ≠ []) ∧
    (∀ f ∈ [[(18, 2, 2)], [(21, 1, 0x40)], []], let d := arrDesc f
      let s := onArray d true true
      (running s 0).isSome = true ∧ (arrOf s 0).active = some tile0 ∧ (arrOf s 0).halves = [half0] ∧ passReady s 0 (run0 true true) d = true ∧
        (actLen 0 (peek half0.cells 0).toNat half0.addr (aTOKENS d)).isSome = true ∧ unitState s 0 0 = 1) ∧
    (aCOUNT (arrDesc [(18, 2, 2)]) ≠ 0 + 1 ∧ aCOUNT (arrDesc []) = 0 + 1 ∧ aEND (arrDesc [(21, 1, 0x40)]) = 1 ∧ aSTART (arrDesc [(21, 1, 0x40)]) ≠ 1 ∧
      aEND (arrDesc []) ≠ 1 ∧ emitCause { contrib := 1, tokens := 4, parts := [] } (aCONTRIB (arrDesc [])) 4 (aHOME (arrDesc [])) = none) := by
  decide +kernel

theorem test_slotReduce_premises :
    let p : Part := { array := 0, inst := 1, index := 0, win := 0, home := true, bad := false }
    let s : State := { onArray (arrDesc []) true true with arr := { (onArray (arrDesc []) true true).arr with slots := [(5, { contrib := 1, tokens := 4, parts := [p] })] } }
    s.tidy = true ∧ look s.arr.slots 5 = some { contrib := 1, tokens := 4, parts := [p] } ∧ [p].find? (·.home) = some p ∧
      (look s.disp.window p.win).isSome = true ∧ (instOf s p.inst).isSome = true ∧ aTOK (arrDesc []) = false ∧
      signalled s { p with home := false, inst := 2 } = true := by
  decide +kernel

/-- Bed 1 in a state, with a movement, its target `tgt`, one of its arrays in service as logical array 9. -/
def bed1 (st tgt : Nat) (mv : BedMove) : State :=
  let s := withReg (withReg up (rBED_STAT 1) st) (rBED_CTL 1) (0xC + tgt)
  let s := (List.range 8).foldl (fun s i => withReg s (rARRAY_STAT (8 + i)) (if i = 0 then 9 * 512 + 1 else 0xFE00)) s
  let s := withReg (withReg s (rARRAY_MAP 9) 0x88) (rSHADOW_VALID 0) 0x200
  { s with time := 4, power := { s.power with moves := if mv = .still then [] else [(1, mv)] } }

theorem test_beds_premises :
    (∀ x ∈ [(2, 0), (0, 1), (1, 2), (1, 3)], let s := bed1 x.1 x.2 .still
      s.tidy = true ∧ keysAbove none s.arr.arrays = true ∧ s.power.dev ≠ .off ∧ moveOf s 1 = .still ∧ bedWanted s 1 = false ∧
        (look s.power.lastTask 1).getD 0 + 4 ≤ s.time ∧ fld s (rBED_CTL 1) 1 0 = x.2 ∧ bedState s 1 = x.1 ∧ bedMayOff s 1 = true) ∧
    (moveOf (bed1 1 2 (.entering 2)) 1 = .entering 2 ∧ moveOf (bed1 1 3 (.entering 3)) 1 = .entering 3 ∧ 1 ∉ up.power.wakeWant ∧
      1 ∉ up.power.idleWant ∧ 1 ∈ ({ up.power with wakeWant := [1] } : Power).wakeWant ∧ 1 ∈ ({ up.power with idleWant := [1] } : Power).idleWant) ∧
    (moveOf (bed1 2 0 (.waking 0)) 1 = .waking 0 ∧ bedState (bed1 2 0 (.waking 0)) 1 = 2 ∧ bedState (bed1 3 2 (.waking 2)) 1 = 3 ∧
      clearing (bed1 3 2 (.waking 2)) 1 = false ∧ reloading (bed1 3 2 (.waking 2)) 1 = false ∧
      clearing (withReg (bed1 3 2 (.waking 2)) rWS_STAT 2) 1 = true ∧ reloading (withReg (bed1 3 2 (.waking 2)) rWS_STAT 0x20000) 1 = true ∧
      logicalOf (bed1 3 2 (.waking 2)) 8 = 9 ∧ imageBad (bed1 3 2 (.waking 2)) 9 false .clean = []) ∧
    (policyDue { bed1 2 0 .still with time := 25000 } = true ∧ policyDue (bed1 2 0 .still) = false ∧ fld (bed1 2 0 .still) (rBED_CTL 1) 4 4 = 0 ∧
      fld (withReg up (rBED_CTL 1) 0x10) (rBED_CTL 1) 4 4 = 1 ∧ 2 ≤ bedState (bed1 2 0 .still) 1) ∧
    (let s := withReg (bed1 0 0 .still) (rSHADOW_VALID 0) 0
     fld s (rSHADOW_VALID 0) 9 9 = 0 ∧ fld s (rARRAY_MAP 9) 7 7 = 1 ∧ physOf s 9 = 8 ∧ bedPowered s 1 = true ∧ stackCount s ≠ 0 ∧ s.mem.bad = []) := by
  decide +kernel

/-- The instance of `withTask`. -/
def ready1 : Inst := { inst1 2 with admitted := 2 }

/-- A run of a task of it meets nothing that fails it, and its partition has bandwidth. -/
def Good (s : State) (j : Job) : Prop := j.ue = none ∧ j.failed = none ∧ jobWaits s (instPart s ready1) true j = false

theorem jobWaits_free {s : State} {p : Nat} (h : ∀ sp ∈ [0, 1, 2], peakOk s (resOf sp) p = true) (b : Bool) (j : Job) :
    jobWaits s p b j = false := by
  simp only [jobWaits, List.any_eq_false]
  intro sp m
  simp [h sp m]

/-- A table image of one group and one output, and an embedding image of one row, in the near tier; a 2-bit activation block. -/
def tables : State :=
  withMem (withMem (withMem up 1 0x10000 (mk 64 [(0, 2, 1), (2, 1, 2), (4, 4, 1), (8, 4, 1), (12, 4, 64), (16, 8, 128), (24, 8, 144)]))
    1 0x20000 (mk 64 [(0, 2, 1), (2, 1, 0x81), (4, 4, 1), (8, 4, 1), (16, 8, 64), (24, 4, 64)])) 0 0x1000 [0x12]

theorem test_tableTasks_premises :
    (let d := mk 64 [(0, 1, 4), (17, 1, 0x80), (18, 1, 0x80), (20, 2, 1), (24, 8, 0x10000), (32, 4, 0x1000), (44, 4, 0x4000), (48, 4, 64), (56, 4, 1)]
     let s := withTask tables d
     s.tidy = true ∧ (released s 0 4 fun d => tOP d == 0).isSome = true ∧ Good s (runLookup s d (startJob s .clean true))) ∧
    (let d := mk 64 [(0, 1, 4), (16, 1, 1), (17, 1, 0x80), (18, 1, 0x80), (20, 2, 1), (24, 8, 0x20000), (32, 4, 0x1000), (44, 4, 0x4000), (48, 4, 64)]
     let s := withTask tables d
     (released s 0 4 fun d => tOP d == 1).isSome = true ∧ Good s (runEmbed s d (startJob s .clean true)) ∧ tTOKENS d = 1 ∧
      ldN s 1 (tIMG d + 4) 4 ≤ ldN s 0 (tACT d) 4) := by
  unfold Good; decide +kernel

theorem test_samplerHash_premises :
    (let d := mk 64 [(0, 1, 6), (16, 2, 1), (18, 1, 0x80), (20, 4, 1), (24, 4, 0x1000), (32, 4, 0x2000), (36, 4, 0x3000)]
     let s := withTask up d
     (released s 0 6 fun _ => true).isSome = true ∧ Good s (runSampler s d (startJob s .clean true))) ∧
    (let d := mk 64 [(0, 1, 7), (16, 4, 1), (20, 4, 0x1000)]
     let s := withTask up d
     (released s 0 7 fun _ => true).isSome = true ∧ Good s (runHash s d (startJob s .clean true)) ∧ hCOUNT d = 1 ∧
      bit 0 (ldN s 0 (hJOB d + 20) 1) = false ∧ ldN s 0 (hJOB d + 16) 4 % 4 = 0) := by
  unfold Good; decide +kernel

/-- A mover task of one row of 64 bytes from 0x1000 of the commons to a space. -/
def moveDesc (op dst : Nat) : Bytes :=
  mk 64 [(0, 1, 8), (16, 1, op), (17, 1, 16 * dst), (18, 1, if op = 3 then 0x80 else 0), (20, 4, 64), (24, 8, 0x1000), (32, 8, 0x20000), (40, 4, 1), (44, 4, 64),
    (48, 4, 128), (52, 4, if op = 2 then 0x3000 else 0), (56, 4, if op = 2 then 1 else 0)]

theorem test_movers_premises :
    (∀ op < 4, let d := moveDesc op 1
      let s := withTask up d
      s.tidy = true ∧ Good s (runMover s d (startJob s .clean true)) ∧ moverCheck s d = true ∧ moverClash d = false ∧
        (released s 0 8 fun d => mOP d == op && mDST d != 3).isSome = true ∧ mRB d ≤ mDS d ∧ mRB d ≠ 0 ∧ mDST d ≠ 0) ∧
    (let d := moveDesc 0 3
     let s := withTask up d
     Good s (runMover s d (startJob s .clean true)) ∧ moverCheck s d = true ∧ moverClash d = false ∧ (released s 0 8 fun d => mDST d == 3).isSome = true ∧
      portUp s = true ∧ hasAddr s = true ∧ paused s = false ∧ ready1.step = none ∧ ({ ready1 with step := some 3 } : Inst).step ≠ none ∧
      s.ras.collided = []) := by
  unfold Good; decide +kernel

theorem test_sparseMerge_premises :
    ∀ op < 3, let d := mk 64 [(0, 1, 5), (16, 1, op), (17, 1, 0x80), (18, 1, 0x80), (20, 2, 1), (24, 8, 0x1000), (32, 4, 0x2000), (36, 4, 4), (40, 4, 4),
        (44, 4, 0x3000), (48, 4, 4), (52, 4, 4), (56, 4, 1), (60, 4, 1)]
      let s := withMem (withTask up d) 0 0x1000 ([bytes [1, 0x80, 0], bytes [1, 0x80, 1], mk 12 [(0, 2, 1), (2, 1, 0x81)]].getD op [])
      s.tidy = true ∧ (released s 0 5 fun d => pOP d == op).isSome = true ∧ spmCheck s d = true ∧ Good s (runSpm s d (startJob s .clean true)) := by
  unfold Good; decide +kernel

/-- A vector task of one row of one FP32 element. -/
def vecDesc (op : Nat) : Bytes :=
  mk 64 [(0, 1, 3), (16, 1, op), (17, 1, 0x80), (18, 1, 0x80), (20, 2, 1), (24, 4, 1), (28, 4, 0x1000), (32, 4, 0x2000), (36, 4, 0x3000), (40, 4, 0x4000),
    (44, 4, 64), (48, 4, 64), (52, 4, if op = 0x12 ∨ op = 0x40 then 1 else 0), (56, 4, if op = 0x40 then 0x80 else if op = 0x20 then 0x5000 else 0), (60, 4, 1024)]

theorem test_vector_premises :
    ∀ x ∈ [(0x01, runConvert), (0x02, runBinary Val.add), (0x03, runBinary Val.mul), (0x10, runRmsnorm), (0x11, runLayernorm), (0x12, runRope), (0x13, runAct),
        (0x14, runGated), (0x15, runSoftmax), (0x16, runReduce), (0x20, runQuant), (0x30, runGraft), (0x40, runGemm)],
      let d := vecDesc x.1
      let s := withMem (withTask up d) 0 0x5000 [0x12]
      s.tidy = true ∧ (released s 0 3 fun d => vOP d == x.1).isSome = true ∧ (x.2 s d (startJob s .clean false)).ue = none ∧
        (x.2 s d (startJob s .clean false)).failed = none ∧ (x.1 ≤ 3 ∨ x.1 = 0x13 → vectorCheck d = true) ∧ s.ras.collided = [] ∧ vClash d = false ∧ vRM d < 2 ∧ vCOLS d ≠ 0 ∧
        vCOLS d * elemSize (vDST d) ≤ vDS d := by
  decide +kernel

/-- An attention task of one row of one head, and page 5 of the near tier with one head. -/
def attnDesc (op : Nat) : Bytes :=
  mk 64 [(0, 1, 2), (16, 1, op), (17, 1, 0x81), (18, 1, 0x48), (20, 1, if op = 2 then 0x48 else 0x80), (22, 1, 1), (23, 1, 1), (24, 1, if op < 2 then 1 else 0),
    (28, 2, 1), (32, 4, 0x1000)]
def pageRow (op loc commit step : Nat) : State :=
  withMem (withMem (withTask up (attnDesc op)) 0 0x1000 (mk 32 [(0, 4, loc), (5, 1, 1)])) 1 (5 * 65536) (mk 64 [(14, 1, 1), (16, 1, commit), (20, 4, step)])

theorem test_attention_premises :
    (let s := withTask up (attnDesc 0)
     s.tidy = true ∧ (released s 0 2 fun d => kOP d == 0).isSome = true ∧
      Good s (attnRun attendRow s ready1 (attnDesc 0) (startJob s .clean true))) ∧
    (let s := withTask up (attnDesc 1)
     (released s 0 2 fun d => kOP d == 1).isSome = true ∧
      Good s (attnRun (fun s _ => mergeRow s.fresh) s ready1 (attnDesc 1) (startJob s .clean true))) := by
  unfold Good; decide +kernel

/-- A job that has met nothing, finds no word marked and has no collided read. -/
def Clean (j : Job) : Prop := j.ue = none ∧ j.failed = none ∧ j.mem.bad = [] ∧ j.verdict = .clean ∧ j.ghosts = []

theorem setMem_bad (m : Mems) (sp : Nat) (x : Memory) : (setMem m sp x).bad = m.bad := by
  unfold setMem; split <;> rfl

theorem clean_rd {j : Job} (h : Clean j) (sp a n : Nat) :
    Clean (j.rd sp a n).2 ∧ (j.rd sp a n).1 = peeks (memOf j.mem sp) a n ∧ (j.rd sp a n).2.mem = j.mem := by
  obtain ⟨hu, hf, hb, hv, hg⟩ := h
  have hh : j.hit sp a n = none := by simp [Job.hit, hb, hv, sortBy]
  simp [Job.rd, hu, hh, hv, Clean, hf, hb, hg]

theorem clean_wr {j : Job} (h : Clean j) (sp a : Nat) (bs : Bytes) :
    Clean (j.wr sp a bs) ∧ memOf (j.wr sp a bs).mem sp = pokes (memOf j.mem sp) a bs := by
  obtain ⟨hu, hf, hb, hv, hg⟩ := h
  simp only [Job.wr, hu, Option.isSome_none, Bool.false_eq_true, if_false, Clean, setMem_bad, hb, List.filter_nil, true_and]
  refine ⟨⟨hf, hv, hg⟩, ?_⟩
  match sp with
  | 0 | 1 | 2 | _ + 3 => rfl

/-- A block of an APPEND whose entry's TAG is not 3 keeps a job clean, and reaches the block's page bytes and its entry only. -/
theorem clean_appendOne {sp : Nat} {j : Job} (h : Clean j) (hw : cellsWf (memOf j.mem sp) = true) (d : Bytes) (base pos count : Nat) (src : Bytes) (b : Nat)
    (ht : enTag (ofLE (peeks (memOf j.mem sp) (base + 64 + 4 * b) 4)) ≠ 3) :
    Clean (appendOne d sp base pos count src j b) ∧ cellsWf (memOf (appendOne d sp base pos count src j b).mem sp) = true ∧
      ∀ x, x < base + 64 + 4 * b ∨ (base + 68 + 4 * b ≤ x ∧ x < base + 4096) →
        peek (memOf (appendOne d sp base pos count src j b).mem sp) x = peek (memOf j.mem sp) x := by
  obtain ⟨c1, e1, m1⟩ := clean_rd h sp (base + 64 + 4 * b) 4
  unfold appendOne
  simp only [e1, if_neg ht]
  generalize ho : (if enTag (ofLE (peeks (memOf j.mem sp) (base + 64 + 4 * b) 4)) = 2 then (([] : Bytes), (j.rd sp (base + 64 + 4 * b) 4).2) else _) = old
  have hold : Clean old.2 ∧ old.2.mem = j.mem := by
    subst ho
    split
    · exact ⟨c1, m1⟩
    · obtain ⟨c2, _, m2⟩ := clean_rd c1 sp (base + 4096 * (b + 1)) (blockBytes (enTag (ofLE (peeks (memOf j.mem sp) (base + 64 + 4 * b) 4))))
      exact ⟨c2, m2.trans m1⟩
  generalize appendBlock _ _ _ _ _ = o
  generalize packBlock _ _ = A
  obtain ⟨c3, m3⟩ := clean_wr hold.1 sp (base + 4096 * (b + 1)) A
  obtain ⟨c4, m4⟩ := clean_wr c3 sp (base + 64 + 4 * b) (toLE 4 o.entry)
  obtain ⟨hu, hf, hb, hv, hg⟩ := c4
  have hcm : ∀ (k : Job), k.ue = none → ((k.conv o.sat o.nan).tally rKV_STAT 15 0 (b2n o.rescale)).ue = none ∧
      ((k.conv o.sat o.nan).tally rKV_STAT 15 0 (b2n o.rescale)).failed = k.failed ∧
      ((k.conv o.sat o.nan).tally rKV_STAT 15 0 (b2n o.rescale)).mem = k.mem ∧
      ((k.conv o.sat o.nan).tally rKV_STAT 15 0 (b2n o.rescale)).verdict = k.verdict ∧
      ((k.conv o.sat o.nan).tally rKV_STAT 15 0 (b2n o.rescale)).ghosts = k.ghosts := by
    intro k hk
    simp only [Job.conv, hk, Option.isSome_none, Bool.false_eq_true, if_false, Job.tally]
    split <;> simp
  obtain ⟨h1, h2, h3, h4, h5⟩ := hcm _ hu
  have hA : cellsWf (pokes (memOf j.mem sp) (base + 4096 * (b + 1)) A) = true := cellsWf_pokes hw _
  rw [m3, hold.2] at m4
  refine ⟨⟨h1, h2.trans hf, by rw [h3]; exact hb, h4.trans hv, h5.trans hg⟩, by rw [h3, m4]; exact cellsWf_pokes hA _, fun x hx => ?_⟩
  rw [h3, m4, peek_pokes hA, peek_pokes hw, toLE_length, if_neg (by omega), if_neg (by omega)]

/-- An APPEND of one record with one row to a page of one head whose two entries have a TAG other than 3: nothing stops it. -/
theorem good_appendPage (s : State) (i : Inst) (d : Bytes) {sa sp base : Nat}
    (hfree : ∀ sp ∈ [0, 1, 2], peakOk s (resOf sp) (instPart s ready1) = true) (hc : Clean (startJob s .clean true)) (hw : cellsWf (memOf s.mem sp) = true)
    (hrows : kROWS d = 1) (hrec : kREC d + 16 ≤ 2 ^ 28) (hkh : kH d = 1)
    (hf : let x := peeks (memOf s.mem 0) (kREC d) 16
      num x 4 1 = 0 ∧ num x 5 1 = 1 ∧ num x 6 2 = 0 ∧ num x 12 4 = 0 ∧ num x 8 4 = sa ∧ locOf s (num x 0 4) = .page sp base)
    (hsa : sa % 64 = 0 ∧ sa + 512 ≤ 2 ^ 28) (hown : pageOwnerOk s i sp base = true)
    (hh : let h := peeks (memOf s.mem sp) base 128
      pgHeads h = 1 ∧ pgLayer h = kLAYER d)
    (ht : ∀ b < 2, enTag (ofLE (peeks (memOf s.mem sp) (base + 64 + 4 * b) 4)) ≠ 3) :
    Good s (pageRun appendRow s i d (startJob s .clean true)) := by
  have m0 : (startJob s .clean true).mem = s.mem := rfl
  generalize startJob s .clean true = j0 at hc m0
  obtain ⟨f1, f2, f3, f4, f5, f6⟩ := hf
  have rdc : ∀ {j : Job} (a n : Nat), Clean j → a + n ≤ 2 ^ 28 → j.rdc a n = j.rd 0 a n := fun {j} a n h hn => by
    rw [Job.rdc, show j.halted = false by simp [Job.halted, h.1, h.2.1], if_neg (by decide), if_neg (by omega)]
  obtain ⟨c1, e1, m1⟩ := clean_rd hc 0 (kREC d) 16
  generalize hx : j0.rd 0 (kREC d) 16 = x at c1 e1 m1
  obtain ⟨c2, -, m2⟩ := clean_rd c1 0 sa 512
  generalize hs : x.2.rd 0 sa 512 = src at c2 m2
  obtain ⟨c3, e3, m3⟩ := clean_rd c2 sp base 128
  generalize hd : src.2.rd sp base 128 = h at c3 e3 m3
  have hm : h.2.mem = s.mem := by rw [m3, m2, m1, m0]
  rw [m0] at e1
  rw [m2, m1, m0] at e3
  rw [← e1] at f1 f2 f3 f4 f5 f6
  rw [← e3] at hh
  rw [← hm] at hw ht
  obtain ⟨c4, w4, p4⟩ := clean_appendOne c3 hw d base 0 1 src.1 0 (ht 0 (by omega))
  obtain ⟨c5, -, -⟩ := clean_appendOne c4 w4 d base 0 1 src.1 1 (by
    have := ht 1 (by omega)
    simp only [peeks] at this ⊢
    rwa [p4 _ (by omega), p4 _ (by omega), p4 _ (by omega), p4 _ (by omega)])
  have hp : pageHead s i src.2 sp base = h := by simp [pageHead, hd, hown, hh.1]
  have hk : ∀ k : Job, Clean k → k.halted = false := fun k h => by simp [Job.halted, h.1, h.2.1]
  have hst : h.2.steps [0, 1] (appendOne d sp base 0 1 src.1) = appendOne d sp base 0 1 src.1 (appendOne d sp base 0 1 src.1 h.2 0) 1 := by
    simp [Job.steps, hk _ c3, hk _ c4]
  have hrow : Clean (appendRow s i d (fun _ _ => true) j0 0) := by
    unfold appendRow
    simp only [Nat.mul_zero, Nat.add_zero, rdc _ _ hc hrec, hx, f1, f2, f3, f4, f5, hkh, f6]
    rw [if_neg (by omega)]
    simp only [Nat.one_mul, Nat.mul_one, rdc _ _ c1 (show sa + 2 * 256 ≤ 2 ^ 28 by omega), hs, hp, hh.1, hh.2]
    rw [if_neg (by omega), show (List.range 2).filter (fun _ => true) = [0, 1] by decide, hst, hk _ c5]
    exact (clean_wr (clean_wr c5 _ _ _).1 _ _ _).1
  simp only [pageRun, hrows, List.range_one, Job.steps, List.foldl_cons, List.foldl_nil, hk _ hc, Bool.false_eq_true, if_false, hk _ hrow]
  exact ⟨hrow.1, hrow.2.1, jobWaits_free hfree _ _⟩

theorem test_appendPage_premises : let s := pageRow 2 (2 ^ 30 + 5) 0 0
    (released s 0 2 fun d => kOP d == 2).isSome = true ∧ Good s (pageRun appendRow s ready1 (attnDesc 2) (startJob s .clean true)) := by
  refine ⟨by decide +kernel, good_appendPage _ _ _ (sa := 0) (sp := 1) (base := 5 * 65536) ?_ ?_ ?_ ?_ ?_ ?_ ?_ ?_ ?_ ?_ ?_⟩ <;> (try unfold Clean) <;> decide +kernel

theorem test_pages_premises :
    (let s := pageRow 2 (2 ^ 31) 0 0
     s.tidy = true ∧ (released s 0 2 fun d => kOP d == 2).isSome = true ∧
       Good s (pageRun appendRow s ready1 (attnDesc 2) (startJob s .clean true)) ∧ kROWS (attnDesc 2) = 1) ∧
    (locOf up (2 ^ 31) = .sink ∧ locOf up (2 ^ 30 + 5) = .page 1 (5 * 65536)) ∧
    (let s := withMem (pageRow 3 (2 ^ 30 + 5) 3 0) 0 0x1000 (toLE 4 (2 ^ 30 + 5))
     s.tidy = true ∧ (released s 0 2 fun d => kOP d == 3).isSome = true ∧
      Good s (pageRun demoteRow s ready1 (attnDesc 3) (startJob s .clean true)) ∧ pgCommit (ld s 1 (5 * 65536) 128) ≠ 32) := by
  unfold Good; decide +kernel

/-- A full page written 1,000 steps ago, and firmware's threshold of 900. -/
def oldPage : State :=
  let s := withReg (pageRow 3 0 32 (2 ^ 32 - 1000)) rKV_DEMOTE 900
  { s with disp := { s.disp with insts := [], window := [] }, serve := { s.serve with pages := [(0, { space := 1, addr := 5 * 65536, owner := 0, refs := 1, spill := false })] } }

theorem test_demotion_premises :
    oldPage.tidy = true ∧ fld oldPage rKV_DEMOTE 23 0 ≠ 0 ∧ oldPage.power.dev = .active ∧ oldPage.disp.insts = [] ∧ moduleFailed oldPage = false ∧
      maintHolds oldPage = false ∧
      (sortBy (fun x => 2 ^ 32 - x.1) (oldPage.serve.pages.filterMap fun p => (demoteAge oldPage p.2).map fun a => (a, p.2))).head?.map (·.1) = some 1000 := by
  decide +kernel

/-- A collective task of 4 elements over slots 2 and 3, link 0 UP, and its run under way. -/
def collDesc : Bytes := mk 64 [(0, 1, 9), (16, 2, 4), (20, 4, 8), (24, 4, 0x1000), (28, 4, 0x2000)]
def collTask : State := { withTask linked collDesc with coll := withColl.coll }
def collRun0 : CollRun := { slot := 0, id := 4, inst := 0, start := 0, desc := collDesc, part := 0, got := [], ends := [], gather := false }
def collUnder : State := { collTask with time := 2 ^ 30, coll := { collTask.coll with runs := [collRun0] } }
def collPkt (dst hops : Nat) : CollPkt :=
  { (default : CollPkt) with src := 11, dst := dst, hops := hops, collId := 4, length := 4, data := zeros 4 }

theorem test_collectiveTask_premises :
    collTask.tidy = true ∧ (released collTask 0 9 fun _ => true).isSome = true ∧ num collDesc 16 2 = 4 ∧ collOf collTask 4 = some coll4 ∧
      collTask.coll.runs = [] ∧ collTask.coll.staged = [] ∧ collTask.coll.held = [] ∧
      (∀ m < coll4.memb.length, sendCount collTask coll4 collDesc m ≤ dCOUNT collDesc) ∧ unreachable collTask coll4 = false ∧
      collUe collTask coll4 collDesc = none := by
  decide +kernel

theorem test_collectivePackets_premises :
    (collUnder.tidy = true ∧ (collUnder.coll.runs.find? fun r => r.slot == 0) = some collRun0 ∧ 0 + collLimit collUnder collDesc ≤ collUnder.time ∧
      linked.time < 0 + collLimit (withReg linked rCOLL_CTL 10000) collDesc ∧ linkOk collUnder 0 = true) ∧
    ((collPkt 12 5).dst ≠ myCode collUnder ∧ 6 ≤ (collPkt 12 5).hops + 1 ∧ (collPkt 10 0).dst = myCode collUnder ∧
      (notePkt collUnder 11 0).isSome = true ∧
      notePkt ({ collUnder with link := { collUnder.link with rxSeq := [(11, 0, [0])] } } : State) 11 0 = none ∧ collOf linked 4 = none ∧
      collOf collTask 4 = some coll4 ∧ findRun' collTask 4 0 = none ∧ (0 + 2 ^ 32 - coll4.next % 2 ^ 32) % 2 ^ 32 < 2 ^ 31 ∧
      stagedBytes collTask + 4 ≤ stagingBytes) ∧
    (findRun' collUnder 4 0 = some collRun0 ∧ (collPkt 10 0).poison % 2 ^ ceilDiv 4 16 = 0 ∧
      pktAgrees collUnder coll4 collRun0 (collPkt 10 0) = true) := by
  decide +kernel

/-! ### The boundary -/

/-- A step of one sampled row of request 0, and what its row gave. -/
def row0 : Row := { req := 0, gen := 1, first := 4, count := 1, drafts := [], sample := true, dead := false }
def stepOf (gated : Bool) : Step :=
  { rows := [row0], insts := [], gated := gated, gateTime := 0, forceRef := false, failed := none, suspected := false, commits := [] }
def serving (cur next : Option Step) (t : Nat) : State :=
  { withReq 3 with time := t, serve := { (withReq 3).serve with cur := cur, next := next } }

theorem test_gate_premises :
    let s := serving (some (stepOf false)) none 7
    s.tidy = true ∧ s.serve.cur = some (stepOf false) ∧ gateReady s (stepOf false) = true ∧ s.trust.handover = none ∧
      resultsFit (stepOf false) [{ status := 0, tokens := [9], logprobs := [0] }] = true ∧ rowReqOf s row0 = some (req 3) ∧ (req 3).ending = none ∧
      tokenEnd (req 3) 9 = none ∧ isPast (tokenDue (req 3) (req 3).out.length) s.time = false ∧ (stepOf false).rows = [row0] ∧ row0.dead = false ∧
      row0.sample = true ∧ row0.drafts = [] ∧ row0.req < 32768 := by
  decide +kernel

theorem test_boundary_premises :
    (∀ next ∈ [none, some (stepOf false)], let s := serving (some (stepOf true)) next 7
      s.tidy = true ∧ firmwareRuns s = true ∧ s.serve.awaited = [] ∧ boundaryDue s = true ∧ s.power.bindOff = none ∧ s.trust.pending = none ∧
        s.serve.next = next) ∧
    (let s := up
     let t : State := { s with tier := { s.tier with maintWant := [rowReq opTIME (pkt [])] } }
     boundaryDue t = true ∧ t.tier.maintWant ≠ []) ∧
    (let t : State := { up with trust := { up.trust with pending := some Image.zero } }
     firmwareRuns t = true ∧ boundaryDue t = true ∧ t.serve.awaited = [] ∧ t.power.bindOff = none ∧ t.trust.pending = some Image.zero) ∧
    (firmwareRuns up = true ∧ idleServe up = true ∧ up.trust.pending = none ∧ (formStep (toItem15 [] up up.time) up.time).serve.next = none) ∧
    (let s := serving none none 7
     let t : State := { s with serve := { s.serve with rerun := some [row0] } }
     t.tidy = true ∧ firmwareRuns t = true ∧ idleServe t = true ∧ (formStep (toItem15 [] t t.time) t.time).serve.next.isSome = true) := by
  decide +kernel

/-- Request 0 with its deadline at tick 1, and a page of a parked request. -/
def overdue (t : Nat) : State :=
  { withReq 3 with time := t, serve := { (withReq 3).serve with reqs := [(0, { req 3 with completeDl := 1 })] } }
def failing (awaits : Bool) (t : Nat) : State :=
  { up with time := t, serve := { up.serve with awaited := if awaits then [(0, 0)] else [], exchange := if awaits then [] else [(0, 0)] } }
def parkedPage : State :=
  let s := withReg (withReg up rPAGE_WATER 0xFFFFFF) 0x50000 0x18FFFFFF
  let s := withMem s 1 (16 * 65536) (toLE 4 5)
  { s with models := [(0, model7)], serve := { s.serve with
      reqs := [(0, { req 6 with ptAddr := some (16 * 65536), ptCap := 1 })]
      pages := [(5, { space := 1, addr := 17 * 65536, owner := 0, refs := 1, spill := false })] } }

theorem test_idleWork_premises :
    ((overdue 25000).tidy = true ∧ firmwareRuns (overdue 25000) = true ∧ idleServe (overdue 25000) = true ∧
      (overdue 25000).serve.lastScan + 25000 ≤ (overdue 25000).time ∧ (overdue 24999).time < (overdue 24999).serve.lastScan + 25000 ∧
      reqAt (overdue 25000) 0 = some { req 3 with completeDl := 1 } ∧ isPast 1 25000 = true ∧ (req 3).missedEnd = false ∧ (req 3).dlPrune = false ∧
      (req 3).ending = none) ∧
    ((failing true 0).serve.awaited.find? (fun y => y.1 == 0) = some (0, 0) ∧ 0 + 2500 ≤ (failing true 2500).time ∧ (failing true 2499).time < 2500 ∧
      exchangeBroken { failing true 2499 with models := [(0, model7)] } 0 = false ∧ exchangeBroken (failing true 0) 0 = true ∧
      (failing false 0).serve.exchange.find? (fun y => y.1 == 0) = some (0, 0) ∧ exchangeDone (failing false 25000) [] 0 = true ∧
      0 + 25000 ≤ (failing false 25000).time ∧ (failing false 24999).time < 0 + 25000) ∧
    (parkedPage.tidy = true ∧ firmwareRuns parkedPage = true ∧ capOf parkedPage 2 ≠ 0 ∧ fld up rPAGE_WATER 23 0 ≤ freePages up 1) := by
  decide +kernel

theorem test_spill_premises :
    freePages parkedPage 1 + 0 < fld parkedPage rPAGE_WATER 23 0 ∧
      (coldPages parkedPage 0 fun _ q => q.state == 6 || q.cls == 2).length = 1 ∧ (pageAt parkedPage 5).isSome = true := by
  decide +kernel
/-! ### Well-formed commands: a term that each check refuses -/

def collGood : CollPkt := collPkt 10 0
def seenGood : CtlFlit := flit0 true (some peer2) (some (0, 1))

theorem test_wf_accepts :
    ∀ i ∈ [.openContext (pkt []), .marchRunMarch (pkt []) [2 ^ 25 - 1], .linkCtlRetrain (pkt []) 10 0, .bedCtlWake (pkt []) 12 0,
        .regulatorRateWrite (pkt []) 3 7 0, .tileLoad 103 (.corrected 3 0), .collDataReceive 10 collGood, .controlFlitReceive 10 seenGood,
        .throttleUpdate calm, .castOn castOnGood, .nullTask 16383], Instr.wf i = true := by
  decide +kernel

/-- A packet changed, refused by the check of its endpoint, port, header or length. -/
theorem test_wf_packets :
    ∀ p ∈ [{ pkt [] with src := { host with fam := 5 } }, { pkt [] with src := { host with addr := 2 ^ 32 } },
        { pkt [] with src := { fam := 6, addr := 2 ^ 128, port := 1 } }, { pkt [] with src := { host with port := 65536 } },
        { pkt [] with dport := 65536 }, { pkt [] with payload := zeros 9157 }], Instr.wf (.openContext p) = false := by
  decide +kernel

theorem test_wf_headers :
    ∀ h ∈ [{ hdr 0 0 0 with version := 256 }, { hdr 0 0 0 with rsv := 2 ^ 34 }, hdr 4096 0 0, { hdr 0 0 0 with opcode := 65536 },
        { hdr 0 0 0 with status := 256 }, { hdr 0 0 0 with detail := 256 }, hdr 0 0 65536, { hdr 0 0 0 with segment := 65536 },
        { hdr 0 0 0 with segLast := 65536 }, { hdr 0 0 0 with credit := 65536 }, { hdr 0 0 0 with proxySlot := 8 }],
      Instr.wf (.transferSegment { pkt [] with hdr := h }) = false := by
  decide +kernel

theorem test_wf_trellis :
    (∀ c ∈ [{ collGood with kind := 256 }, { collGood with hops := 32 }, { collGood with part := 8 }, { collGood with src := 256 },
        { collGood with dst := 256 }, { collGood with collId := 65536 }, { collGood with inst := 2 ^ 32 }, { collGood with pktSeq := 2 ^ 32 },
        { collGood with offset := 2 ^ 32 }, { collGood with length := 2 ^ 32 }, { collGood with block := 65536 }, { collGood with phase := 256 },
        { collGood with cls := 3 }, { collGood with data := zeros 8369 }, { collGood with poison := 2 ^ 523 }],
      Instr.wf (.collDataReceive 0 c) = false ∧ Instr.wf (.collAbortReceive 0 c) = false) ∧
    (∀ i ∈ [{ peer2 with boardPos := 256 }, { peer2 with slot := 256 }, { peer2 with link := 256 }, { peer2 with variant := 256 },
        { peer2 with lpMin := 256 }, { peer2 with lpMax := 256 }], Instr.wf (.controlFlitReceive 0 { seenGood with identity := some i }) = false) ∧
    (∀ f ∈ [{ seenGood with freed := [] }, { seenGood with linkMask := 65536 }, { seenGood with verdict := some (256, 0) },
        { seenGood with verdict := some (0, 256) }], Instr.wf (.controlFlitReceive 0 f) = false) ∧
    Instr.wf (.dataFlitReceive 0 { bytes := zeros 255 }) = false ∧ Instr.wf (.retrainDone 0 16) = false := by
  decide +kernel

theorem test_wf_sensors :
    (∀ x ∈ [{ calm with watts := 65536 }, { calm with meanW := 65536 }, { calm with vin := 65536 }, { calm with iin := 65536 },
        { calm with tDie := 256 }, { calm with tSram := 256 }, { calm with tHbm := 256 }, { calm with energy := 2 ^ 64 }],
      Instr.wf (.throttleUpdate x) = false ∧ Instr.wf (.thermalTrip x) = false ∧ Instr.wf (.inputVoltage x) = false) ∧
    (∀ c ∈ [{ castOnGood with slot := 8 }, { castOnGood with boardPos := 8 }, { castOnGood with stackMask := 256 },
        { castOnGood with pkgMask := 2 ^ 24 }, { castOnGood with badArrays := [104] }, { castOnGood with badUnits := [18] },
        { castOnGood with badBanks := [132] }, { castOnGood with trustedOk := [] }, { castOnGood with untrustedOk := [] },
        { castOnGood with ticks := 2 ^ 64 }], Instr.wf (.castOn c) = false) := by
  decide +kernel

/-- The commands of engines, timers and the host port, each with one operand out of its range. -/
theorem test_wf_ranges :
    ∀ i ∈ [Instr.marchRunMarch (pkt []) [2 ^ 25], .linkCtlRetrain (pkt []) 11 0, .linkCtlEnable (pkt []) 11 true, .bedCtlWake (pkt []) 13 0,
        .bedCtlTarget (pkt []) 13 0, .regulatorRateWrite (pkt []) 4 0 0, .regulatorRateWrite (pkt []) 0 8 0, .ackTimer 4096 0,
        .segmentRetransmitTimer 4096 0, .transferTimeout 4096 0, .syncWaitTimeout 4096 0, .ecnRateRaise { host with fam := 0 },
        .arpNeighborDiscovery 4 (2 ^ 32) host, .icmpEcho 6 (2 ^ 128) host [], .pfcPauseReceive 8 true, .proxyReply 7 (pkt []),
        .proxyLinkReceive 7 (pkt []), .proxyEventRelay 7 (pkt []), .proxyTimeout 8 0, .dhcpReply 4 0 (2 ^ 32)] ++
      [.taskComplete 16384, .nullTask 16384, .stamp 16384, .arrayTask 16384, .collectiveTimeout 16384, .stallDetect (2 ^ 32), .tileLoad 104 .clean,
        .tileLoad 0 (.corrected 4 0), .tileLoad 0 (.uncorrectable 0 (2 ^ 64)), .actBlockFetch 104 .clean, .sliceWriteback 1 0,
        .passEnd 104 true true, .creditReturn 0 64, .slotReduce 1024 true, .repairCopyComplete 96 .clean, .shadowRebuild 96 .clean,
        .swatchRun 0 104 true, .swatchRun 1 18 true, .swatchRun 2 0 true, .sliceRepair 0 8192 true true, .bankCopyComplete 128] ++
      [.bedIdleEntry 13, .bedWake 13, .bedEntryComplete 13, .bedReloadComplete 13 .clean, .bedTargetPolicy [13], .commonsRetry (2 ^ 22) .aWriteBRead (zeros 64) (zeros 64),
        .commonsRetry 0 .aWriteBRead (zeros 63) (zeros 64), .boundaryExchangeTimeout 16, .boundaryExchangeRetry 16 [] true, .patrolScrub .near (.corrected 4 0),
        .channelRecal .near 8 0 true, .channelRecal .near 0 32 true, .channelRecal .far 24 0 true, .channelRecal .far 0 4 true, .stackLoss 8, .packageLoss 24,
        .linkLaneLock 11, .linkTrainTimeout 11, .linkVerdictTimeout 11, .controlFlitSlot 11, .laneLockLoss 11, .controlFlitTimeout 11, .retrainFail 11,
        .linkDownTimer 11, .linkRetryTimer 11, .retrainDone 11 0, .collDataReceive 11 collGood], Instr.wf i = false := by
  decide +kernel

theorem test_wf_engines :
    ∀ f ∈ [Instr.spmMerge, .spmGather, .delta, .lookup, .embed, .vectorConvert, .vectorAdd, .vectorMul, .rmsnorm, .layernorm, .rope, .vectorAct, .gated,
        .softmax, .vectorReduce, .quant, .vectorGraft, .gemm, .samplerTask, .hashTask, .moverCopy, .moverFill, .moverGather, .moverCompress, .moverTransmit,
        .attnMerge, .append, .demote, .collectiveTask],
      Instr.wf (f 16384 .clean) = false ∧ Instr.wf (f 16383 .clean) = true ∧ Instr.wf (f 0 (.uncorrectable 4 0)) = false := by
  decide +kernel

/-! ### The spec's worked examples -/

/-- 03, "one packed byte": the byte 0x9A at 2,048 of the packed area holds +1, 0, −1, −1, +1 in row 40, columns 0 to 4. -/
theorem test_packedByte : denseTrits [(2048, 0x9A)] = [(40, 0, false), (40, 2, true), (40, 3, true), (40, 4, false)] := by
  decide +kernel

/-- Table 6.5: the record of the tile of Table 6.4, its signs 0b0000_1001 at 584. -/
def skeinExample : Memory :=
  pokes [] 512 (toLE 2 3 ++ toLE 2 4 ++ toLE 4 5 ++ toLE 4 0x10008002 ++ zeros 4 ++ toLE 8 0x408 ++ toLE 8 0x100 ++ toLE 8 0x8000000000000000 ++
    toLE 8 0x42 ++ toLE 8 1 ++ toLE 8 0x8000000000000000 ++ toLE 8 1 ++ [9])

theorem test_skein : skeinTrits skeinExample = [(3, 65, true), (3, 70, false), (10, 64, false), (200, 255, true), (511, 0, false)] := by
  decide +kernel

/-- 04, "one drained element": S = 10,480, s_t = 0x3D4C_CCCD, c_n = 3 ÷ 256 (FP16 0x2200) gives BF16 0x40C5, y_n = 6.140625 (0x40C4_8000),
and with OUT_QSCALE = 20.0 the int8 value 123. -/
theorem test_drain :
    let v := drainValue 10480 (some 0x3D4CCCCD) (some 0x2200)
    (outElem 0x81 .nearest false v).bytes = bytes [0xC5, 0x40] ∧ rne f32 v = 0x40C48000 ∧
      (outElem 0x48 .nearest false (v.mul (decode f32 0x41A00000))).bytes = [123] := by
  decide +kernel

/-- 07: weights (3, −2, 0, 1) and signed 4-bit activations (5, −3, 2, −1) give 20. The entry of pattern m is the sum of its weights. -/
theorem test_lookup :
    let rec_ := [10] ++ zeros 63 ++ [11] ++ zeros 63 ++ [6] ++ zeros 63 ++ [1] ++ zeros 63
    let entry := (List.range 16).map fun m => BitVec.ofInt 8 ((if bit 0 m then 3 else 0) + (if bit 1 m then -2 else 0) + (if bit 3 m then 1 else 0))
    lookupSum [(0x14, 0, rec_, entry)] = 20 := by
  decide +kernel

/-- R94: a merge of nothing but empty partials is empty. -/
theorem test_mergeEmpty : ∀ k < 2, (mergeAll k [.empty, .empty]).p = .empty := by decide +kernel

/-- The published vector of Philox-4×32-10 for a key and counter of 0, which R74 names. -/
theorem test_philox : philox 0 0 0 0 0 = [0x6627E8D5, 0xE169C58D, 0xBC57AC4C, 0x9B00DBD8] := by decide +kernel

end Sys2Proof.Tests
end

section
/-! PROOFS. The commands of a request's entry (R254, R255, R335): acceptance leaves the serving tables, and each command makes one
change of them. -/

namespace Sys2Proof.Machine

/-! ### A command of the host port that changes the serving tables -/

/-- The serving tables do not decide whether the device is woken. -/
theorem wakeDevice_power_serve (s : State) (x : Serve) : (wakeDevice { s with serve := x }).power = (wakeDevice s).power := by
  unfold wakeDevice; split <;> rfl

/-- A change of the serving tables that a command makes is made beside what carries the command. -/
theorem OnlyCarried.with_serve {u v : State} {p : Pkt} (h : OnlyCarried u v p) (x : Serve) :
    OnlyCarried { u with serve := x } { v with serve := x } p := by
  obtain ⟨hv, hregs, hctxs, hcore⟩ := h
  refine ⟨?_, hregs, hctxs, hcore⟩
  rw [wakeDevice_power_serve]
  exact congrArg (fun t : State => { t with serve := x }) hv

theorem OnlyCarried.serve_eq {u v : State} {p : Pkt} (h : OnlyCarried u v p) : v.serve = u.serve := by
  rw [h.1]

theorem OnlyCarried.modReq {u v : State} {p : Pkt} (h : OnlyCarried u v p) (k : Nat) (f : Request → Request) :
    OnlyCarried (modReq u k f) (modReq v k f) p := by
  have e := h.with_serve { u.serve with reqs := modify u.serve.reqs k f }
  unfold Machine.modReq
  rw [h.serve_eq]
  exact e

/-- Acceptance leaves the request a command names. -/
theorem namedReq_atRun (s : State) (op : Nat) (p : Pkt) (r : Req) : namedReq (atRun s op p) r = namedReq s r := by
  rw [atRun, accepted_shape]; rfl

/-- Acceptance leaves what REQ_QUERY shows of an entry. -/
theorem requestBytes_atRun (s : State) (op : Nat) (p : Pkt) (k : Nat) (q : Request) :
    requestBytes (atRun s op p) k q = requestBytes s k q := by
  rw [atRun, accepted_shape]; rfl

/-- A command whose run changes one request's entry and answers OK is done, with that change as its effect. -/
theorem marks_done {s : State} (h : s.tidy = true) {op : Nat} {p : Pkt} (hr : Runs s op p) {run : State → Req → State} {k : Nat}
    {f : Request → Request} (he : run (atRun s op p) (rowReq op p) = fail (modReq (atRun s op p) k f) (rowReq op p) stOK) :
    ∃ t, (.next (receive s op p run) : Host.Outcome State Fault Refusal) = .next t ∧ Done t op p (modReq s k f) [] := by
  obtain ⟨hp, ha⟩ := atRun_port h hr
  refine ⟨_, congrArg Host.Outcome.next ((receive_runs hr run).trans he), ?_⟩
  exact done_of (modReq_tidy k f (atRun_tidy h op p)) ((atRun_carried h op p).modReq k f) hp ha [] (Nat.zero_le _)

/-! ### What each command does to the request it names -/

theorem reqAppend_ok {s : State} {r : Req} {k : Nat} {q : Request} (hd : num r.pkt.payload 4 1 < 2)
    (hz : allZero r.pkt.payload 5 3 = true) (hn : num r.pkt.payload 8 4 ≠ 0) (hq : namedReq s r = .ok (k, q))
    (hst : q.state = 2 ∨ q.state = 3)
    (hroom : q.tokens.length + q.appended.length + num r.pkt.payload 8 4 ≤ q.ptCap * 32) :
    reqAppend s r =
      fail (modReq s k fun q => { q with appended := q.appended ++ tokensAt r.pkt.payload 12 (num r.pkt.payload 8 4) }) r stOK := by
  have h1 : ¬(2 ≤ num r.pkt.payload 4 1 ∨ (!allZero r.pkt.payload 5 3) = true) := by simp [hz, hd]
  have h2 : ¬(num r.pkt.payload 8 4 = 0 ∨ (q.state ≠ 2 ∧ q.state ≠ 3) ∨
      q.ptCap * 32 < q.tokens.length + q.appended.length + num r.pkt.payload 8 4) := by omega
  simp only [reqAppend, if_neg h1, hq, if_neg h2]

theorem reqAppendDraft_ok {s : State} {r : Req} {k : Nat} {q : Request} (hd : num r.pkt.payload 4 1 < 2)
    (hz : allZero r.pkt.payload 5 3 = true) (hn : num r.pkt.payload 8 4 ≠ 0) (hq : namedReq s r = .ok (k, q)) (hst : q.state = 3)
    (hmax : num r.pkt.payload 8 4 + q.drafts.length ≤ 15)
    (hroom : q.seqLen + 1 + q.drafts.length + num r.pkt.payload 8 4 ≤ q.ptCap * 32) :
    reqAppendDraft s r =
      fail (modReq s k fun q => { q with drafts := q.drafts ++ tokensAt r.pkt.payload 12 (num r.pkt.payload 8 4) }) r stOK := by
  have h1 : ¬(2 ≤ num r.pkt.payload 4 1 ∨ (!allZero r.pkt.payload 5 3) = true) := by simp [hz, hd]
  have h2 : ¬(num r.pkt.payload 8 4 = 0 ∨ 15 < num r.pkt.payload 8 4 + q.drafts.length ∨ q.state ≠ 3 ∨
      q.ptCap * 32 < q.seqLen + 1 + q.drafts.length + num r.pkt.payload 8 4) := by omega
  simp only [reqAppendDraft, if_neg h1, hq, if_neg h2]

theorem reqPrune_ok {s : State} {r : Req} {k : Nat} {q : Request} (hq : namedReq s r = .ok (k, q)) :
    reqPrune s r = fail (modReq s k fun q => endReq q 2) r stOK := by
  simp only [reqPrune, hq]

theorem reqAccept_ok {s : State} {r : Req} {k : Nat} {q : Request} (hq : namedReq s r = .ok (k, q)) (hst : q.state = 4)
    (ha : num r.pkt.payload 4 4 < q.sampled.length) :
    reqAccept s r = fail (modReq s k fun q => { q with accept := some (num r.pkt.payload 4 4) }) r stOK := by
  have h : ¬(q.state ≠ 4 ∨ q.sampled.length ≤ num r.pkt.payload 4 4) := by omega
  simp only [reqAccept, hq, if_neg h]

theorem reqQuery_ok {s : State} {r : Req} {k : Nat} {q : Request} (hq : namedReq s r = .ok (k, q))
    (hn : num r.pkt.payload 8 4 ≤ 2000)
    (hin : num r.pkt.payload 8 4 = 0 ∨ num r.pkt.payload 4 4 + num r.pkt.payload 8 4 ≤ q.seqLen) :
    reqQuery s r = replyTo s r (if q.state = 5 then stStall else stOK) 0
      (requestBytes s k q ++ tokBytes ((q.tokens.drop (num r.pkt.payload 4 4)).take (num r.pkt.payload 8 4))) := by
  have h : ¬(2000 < num r.pkt.payload 8 4 ∨ (num r.pkt.payload 8 4 ≠ 0 ∧ q.seqLen < num r.pkt.payload 4 4 + num r.pkt.payload 8 4)) := by
    omega
  simp only [reqQuery, hq, if_neg h]

/-! ### The length of REQ_QUERY's answer (Table 10.1) -/

theorem requestBytes_length (s : State) (k : Nat) (q : Request) : (requestBytes s k q).length = 128 := by
  unfold requestBytes
  simp only [List.length_append, toLE_length]
  rfl

theorem tokBytes_length (ts : List W32) : (tokBytes ts).length = 4 * ts.length := by
  induction ts with
  | nil => rfl
  | cons t ts ih =>
    have e : tokBytes (t :: ts) = toLE 4 t.toNat ++ tokBytes ts := rfl
    rw [e, List.length_append, toLE_length, ih, List.length_cons]
    omega

/-- Settles O24: every command meets the request it names unchanged by acceptance, and its one effect stands beside what carries
the command. -/
theorem requestCommandsMarkTheirEntry : Obligations.RequestCommandsMarkTheirEntry := by
  intro s p hs
  refine ⟨?append, ?draft, ?prune, ?accept, ?query⟩
  case append =>
    intro p' pl hr hd hz hn k q hq hst hroom
    exact marks_done hs hr (reqAppend_ok hd hz hn ((namedReq_atRun s _ _ _).trans hq) hst hroom)
  case draft =>
    intro p' pl hr hd hz hn k q hq hst hmax hroom
    exact marks_done hs hr (reqAppendDraft_ok hd hz hn ((namedReq_atRun s _ _ _).trans hq) hst hmax hroom)
  case prune =>
    intro hr k q hq
    exact marks_done hs hr (reqPrune_ok ((namedReq_atRun s _ _ _).trans hq))
  case accept =>
    intro hr k q hq hst ha
    exact marks_done hs hr (reqAccept_ok ((namedReq_atRun s _ _ _).trans hq) hst ha)
  case query =>
    intro a n hr k q hq hn hin hfit
    have hlen : (requestBytes s k q ++ tokBytes ((q.tokens.drop a).take n)).length ≤ pathMax s p.src := by
      rw [List.length_append, requestBytes_length, tokBytes_length]
      have := List.length_take_le n (q.tokens.drop a)
      omega
    obtain ⟨hans, hcar⟩ := reply_only hs hr (if q.state = 5 then stStall else stOK) 0 _ hlen
    refine ⟨_, congrArg Host.Outcome.next ((receive_runs hr _).trans ?_), hcar, hans⟩
    rw [reqQuery_ok ((namedReq_atRun s _ _ _).trans hq) hn hin, requestBytes_atRun]
    rfl

end Sys2Proof.Machine
end

section
/-! PROOFS. The dispatcher's admission and release (R222-R224): a run of each is a fold, and one step of it changes the window, the
table of instances and what the step is charged to. -/

namespace Sys2Proof.Machine

/-! ### The admission run -/

/-- The instances whose tasks enter, each the one `chooseEntry` gives in the state that the entries before it leave. -/
def entrants (s : State) : Nat → List Inst
  | 0 => []
  | n + 1 =>
    match chooseEntry s with
    | some i => i :: entrants (admitTask s i) n
    | none => []

theorem admitRun_succ_some {s : State} {i : Inst} (h : chooseEntry s = some i) (n : Nat) :
    admitRun s (n + 1) = admitRun (admitTask s i) n := by
  rw [admitRun, h]

theorem admitRun_of_none {s : State} (h : chooseEntry s = none) (n : Nat) : admitRun s n = s := by
  cases n with
  | zero => rfl
  | succ n => rw [admitRun, h]

theorem entrants_succ_some {s : State} {i : Inst} (h : chooseEntry s = some i) (n : Nat) :
    entrants s (n + 1) = i :: entrants (admitTask s i) n := by
  rw [entrants, h]

theorem entrants_of_none {s : State} (h : chooseEntry s = none) (n : Nat) : entrants s n = [] := by
  cases n with
  | zero => rfl
  | succ n => rw [entrants, h]

/-- The run of admission is the entry of its entrants one after another: at most `n`, and fewer only where none may enter. -/
theorem admitRun_eq_foldl (n : Nat) : ∀ s : State, (entrants s n).length ≤ n ∧ admitRun s n = (entrants s n).foldl admitTask s ∧
    ((entrants s n).length < n → chooseEntry (admitRun s n) = none) := by
  induction n with
  | zero => intro s; exact ⟨Nat.le_refl 0, rfl, fun h => absurd h (Nat.lt_irrefl 0)⟩
  | succ n ih =>
    intro s
    cases h : chooseEntry s with
    | none =>
      rw [entrants_of_none h, admitRun_of_none h]
      exact ⟨Nat.zero_le _, rfl, fun _ => h⟩
    | some i =>
      obtain ⟨hlen, hrun, hstop⟩ := ih (admitTask s i)
      rw [entrants_succ_some h, admitRun_succ_some h, List.length_cons]
      exact ⟨Nat.succ_le_succ hlen, hrun, fun hlt => hstop (Nat.lt_of_succ_lt_succ hlt)⟩

/-! ### One task's entry -/

/-- The state with the graph started, where the task that enters is its first (R222). -/
def started (s : State) (i : Inst) : State := if i.admitted = 0 then startInst s i.num else s

/-- The slot an entering task takes. -/
def slotFor (s : State) (i : Inst) : Slot :=
  { inst := i.num, index := i.admitted, desc := taskOf s i i.admitted,
    ready := waitsMet (started s i) i.hdr.ctrBase (taskOf s i i.admitted), released := false, forceRef := i.forceRef, result := none,
    names := taskNames s (taskOf s i i.admitted) }

/-- The table of instances with one task more admitted of the one that enters, and the time recorded where it is its first. -/
def instsEntered (s : State) (i : Inst) : List Inst :=
  s.disp.insts.map fun j => if j.num = i.num then
    { j with admitted := j.admitted + 1, signals := addSignals j.signals (taskOf s i i.admitted),
             start := if i.admitted = 0 then s.time else j.start }
    else j

/-- The partition whose turn is next after an entry. -/
def turnAfter (s : State) (i : Inst) : Nat := if i.step.isNone then (i.part + 1) % 8 else s.disp.rr

/-- Between the choice of a task and its entry check only these may move: the counters, the table of instances, the turn of the
partitions and the buckets of the regulators. The lemmas below say that the check, the descriptor and its ranges read none of them. -/
def withEntry (s : State) (c : List (Nat × W32)) (l : List Inst) (r : Nat) (b : List (Nat × Int × Int)) : State :=
  { s with disp := { s.disp with ctrs := c, insts := l, rr := r }, tier := { s.tier with buckets := b } }

section
variable (s : State) (c : List (Nat × W32)) (l : List Inst) (r : Nat) (b : List (Nat × Int × Int))

theorem firstBad_withEntry (sp a n : Nat) : firstBad (withEntry s c l r b) sp a n = firstBad s sp a n := rfl
theorem taskOf_withEntry (i : Inst) (k : Nat) : taskOf (withEntry s c l r b) i k = taskOf s i k := rfl
theorem entryFault_withEntry (i : Inst) (d : Bytes) : entryFault (withEntry s c l r b) i d = entryFault s i d := rfl
theorem taskNames_withEntry (d : Bytes) : taskNames (withEntry s c l r b) d = taskNames s d := rfl

/-- Waits read the counters alone. -/
theorem waitsMet_withEntry {u : State} (hu : u.disp.ctrs = c) (base : Nat) (d : Bytes) :
    waitsMet (withEntry s c l r b) base d = waitsMet u base d := by
  subst hu; rfl

end

theorem chargeNear_shape (s : State) (sp part n : Nat) :
    chargeNear s sp part n = { s with tier := { s.tier with buckets := (chargeNear s sp part n).tier.buckets } } := by
  unfold chargeNear charge
  split
  · split <;> rfl
  · rfl

/-- Clearing counters removes them from the table. -/
theorem foldl_putCtr_zero (base : Nat) (l : List Nat) : ∀ s : State, l.foldl (fun s k => putCtr s (base + k) 0) s =
    { s with disp := { s.disp with ctrs := l.foldl (fun m k => del m (base + k)) s.disp.ctrs } } := by
  induction l with
  | nil => intro s; rfl
  | cons k l ih => intro s; exact ih _

/-- A start sets the local counters to 0 and records the time (R222). -/
theorem startInst_of {s : State} {n : Nat} {i : Inst} (h : instOf s n = some i) :
    startInst s n = { s with disp := { s.disp with
      ctrs := (List.range i.hdr.ctrCount).foldl (fun m k => del m (i.hdr.ctrBase + k)) s.disp.ctrs,
      insts := s.disp.insts.map fun j => if j.num = n then { j with start := s.time } else j } } := by
  unfold startInst
  rw [h]
  dsimp only
  rw [foldl_putCtr_zero]
  rfl

theorem started_ctrs_first {s : State} {i : Inst} (h : instOf s i.num = some i) (h0 : i.admitted = 0) :
    (started s i).disp.ctrs = (List.range i.hdr.ctrCount).foldl (fun m k => del m (i.hdr.ctrBase + k)) s.disp.ctrs := by
  rw [started, if_pos h0, startInst_of h]

theorem started_later {s : State} {i : Inst} (h0 : i.admitted ≠ 0) : started s i = s := if_neg h0

/-- The state in which a task meets its entry check: the turn passed on, its graph started, the reading of its
descriptor charged. -/
def atEntry (s : State) (i : Inst) : State :=
  let s := if i.step.isNone then { s with disp := { s.disp with rr := (i.part + 1) % 8 } } else s
  chargeNear (started s i) i.tier (instPart (started s i) i) 64

theorem atEntry_shape {s : State} {i : Inst} (h : instOf s i.num = some i) :
    atEntry s i = withEntry s (started s i).disp.ctrs (started s i).disp.insts (turnAfter s i) (atEntry s i).tier.buckets := by
  have turn : ∀ r, started { s with disp := { s.disp with rr := r } } i =
      { s with disp := { s.disp with ctrs := (started s i).disp.ctrs, insts := (started s i).disp.insts, rr := r } } := by
    intro r
    have hr : instOf { s with disp := { s.disp with rr := r } } i.num = some i := h
    unfold started
    split
    · rw [startInst_of h, startInst_of hr]
    · rfl
  have e : (if i.step.isNone then { s with disp := { s.disp with rr := (i.part + 1) % 8 } } else s) =
      { s with disp := { s.disp with rr := turnAfter s i } } := by
    unfold turnAfter; split <;> rfl
  unfold atEntry
  dsimp only
  rw [e, turn, chargeNear_shape]
  rfl

/-- The entry of a task that has passed its checks. -/
def enterWindow (s : State) (i : Inst) : State :=
  let d := taskOf s i i.admitted
  let sl : Slot := { inst := i.num, index := i.admitted, desc := d, ready := waitsMet s i.hdr.ctrBase d, released := false,
                     forceRef := i.forceRef, result := none, names := taskNames s d }
  modInst { s with disp := { s.disp with window := put s.disp.window (firstGap 0 s.disp.window) sl } } i.num fun i =>
    { i with admitted := i.admitted + 1, signals := addSignals i.signals d }

theorem admitTask_of_checks {s : State} {i : Inst} (hb : firstBad (atEntry s i) i.tier (taskAddr i.addr i.admitted) 64 = none)
    (hf : entryFault (atEntry s i) i (taskOf (atEntry s i) i i.admitted) = none) : admitTask s i = enterWindow (atEntry s i) i := by
  unfold atEntry started at hb hf ⊢
  unfold admitTask enterWindow
  dsimp only at hb hf ⊢
  rw [hb]
  dsimp only
  rw [hf]

/-- The start and the entry together, in the table of instances. -/
theorem started_insts {s : State} {i : Inst} (h : instOf s i.num = some i) :
    (started s i).disp.insts.map (fun j => if j.num = i.num then
      { j with admitted := j.admitted + 1, signals := addSignals j.signals (taskOf s i i.admitted) } else j) = instsEntered s i := by
  unfold started instsEntered
  split
  · rw [startInst_of h, List.map_map]
    refine List.map_congr_left fun j _ => ?_
    by_cases hj : j.num = i.num <;> simp [hj]
  · rfl

/-- A task that passes its checks takes the lowest free slot, and one task more of its graph is admitted. -/
theorem admitTask_enters {s : State} {i : Inst} (h : instOf s i.num = some i)
    (hb : firstBad s i.tier (taskAddr i.addr i.admitted) 64 = none) (hf : entryFault s i (taskOf s i i.admitted) = none) :
    ∃ b, admitTask s i = { s with
      disp := { s.disp with window := put s.disp.window (firstGap 0 s.disp.window) (slotFor s i), insts := instsEntered s i,
                            ctrs := (started s i).disp.ctrs, rr := turnAfter s i }
      tier := { s.tier with buckets := b } } := by
  have hs := atEntry_shape h
  have he : admitTask s i = enterWindow (atEntry s i) i := by
    apply admitTask_of_checks
    · rw [hs, firstBad_withEntry, hb]
    · rw [hs, taskOf_withEntry, entryFault_withEntry, hf]
  refine ⟨(atEntry s i).tier.buckets, ?_⟩
  rw [he, ← started_insts h]
  generalize (atEntry s i).tier.buckets = b at hs
  rw [hs, enterWindow]
  dsimp only
  rw [taskOf_withEntry, taskNames_withEntry, waitsMet_withEntry (u := started s i) s _ _ _ _ rfl]
  rfl

/-! ### Release -/

theorem mem_insertBy {α : Type} {key : α → Nat} {x y : α} {l : List α} (h : y ∈ insertBy key x l) : y = x ∨ y ∈ l := by
  induction l with
  | nil => exact .inl (List.mem_singleton.mp h)
  | cons z l ih =>
    unfold insertBy at h
    split at h
    · rcases List.mem_cons.mp h with rfl | h
      · exact .inr List.mem_cons_self
      · exact (ih h).imp_right (List.mem_cons_of_mem z)
    · exact List.mem_cons.mp h

/-- Sorting adds no element. -/
theorem mem_of_mem_sortBy {α : Type} {key : α → Nat} {y : α} {l : List α} (h : y ∈ sortBy key l) : y ∈ l := by
  have gen : ∀ (l acc : List α), y ∈ l.foldl (fun acc x => insertBy key x acc) acc → y ∈ acc ∨ y ∈ l := by
    intro l
    induction l with
    | nil => intro acc h; exact .inl h
    | cons x l ih =>
      intro acc h
      rcases ih _ h with h | h
      · rcases mem_insertBy h with rfl | h
        · exact .inr List.mem_cons_self
        · exact .inl h
      · exact .inr (List.mem_cons_of_mem x h)
  exact (gen l [] h).resolve_left List.not_mem_nil

/-- What may be released is ready in the window and not released yet. -/
theorem mem_releasable {s : State} {w : Nat × Slot} (h : w ∈ releasable s) :
    w ∈ s.disp.window ∧ w.2.ready = true ∧ w.2.released = false := by
  obtain ⟨x, hx, rfl⟩ := List.mem_map.mp h
  obtain ⟨v, hv, he⟩ := List.mem_filterMap.mp (mem_of_mem_sortBy hx)
  split at he
  · rename_i hr
    split at he
    · split at he
      · cases he
        simpa [hv] using hr
      · cases he
    · cases he
  · cases he

/-- Raising a bed moves its power state and BED_STAT alone. -/
theorem raiseBed_shape (s : State) (b : Nat) :
    raiseBed s b = { s with regs := (raiseBed s b).regs, power := (raiseBed s b).power } := by
  unfold raiseBed wantRun
  split
  · split <;> rfl
  · rfl
  · split <;> rfl

theorem raiseBed_regs {s : State} (h : s.tidy = true) {a b : Nat} (ha : a ≠ rBED_STAT b) : rd (raiseBed s b) a = rd s a := by
  have move : ∀ m, rd (setMove s b m) a = rd s a := fun m =>
    (rd_wr (by exact tidy_of_eq h rfl rfl) _ _ _).trans (if_neg ha)
  unfold raiseBed wantRun
  split
  · split <;> rfl
  · exact move _
  · split
    · rfl
    · exact move _

/-- One release: the task marked with the next number of the order; beyond the dispatcher only a bed may be raised. -/
theorem releaseTask_shape (s : State) (w : Nat × Slot) : releaseTask s w = { s with
    disp := { s.disp with window := put s.disp.window w.1 { w.2 with released := true, order := s.disp.nextRel },
                          nextRel := s.disp.nextRel + 1 },
    regs := (releaseTask s w).regs, power := (releaseTask s w).power } := by
  unfold releaseTask
  dsimp only
  split
  · rw [raiseBed_shape]
  · rfl

theorem releaseTask_disp (s : State) (w : Nat × Slot) : (releaseTask s w).disp = { s.disp with
    window := put s.disp.window w.1 { w.2 with released := true, order := s.disp.nextRel }, nextRel := s.disp.nextRel + 1 } := by
  rw [releaseTask_shape]

/-- A register above the words of the beds' states keeps its value through a release. -/
theorem releaseTask_regs {s : State} (h : s.tidy = true) (w : Nat × Slot) {a : Nat} (ha : rBED_STAT 16 ≤ a) :
    rd (releaseTask s w) a = rd s a := by
  have hp : ∀ (t : State) (n : Nat), a ≠ rBED_STAT (physOf t n / 8) := fun t n => by
    have hlt : physOf t n < 2 ^ (6 + 1 - 0) := bits_lt 6 0 _
    unfold rBED_STAT at *
    omega
  unfold releaseTask
  dsimp only
  split
  · exact (raiseBed_regs (by exact tidy_of_eq h rfl rfl) (hp _ _)).trans rfl
  · rfl

/-- The releases of a list of tasks, one after another. -/
def releaseAll (s : State) (l : List (Nat × Slot)) : State := l.foldl releaseTask s

theorem releaseAll_frame (l : List (Nat × Slot)) : ∀ s : State,
    (releaseAll s l).mem = s.mem ∧ (releaseAll s l).serve = s.serve ∧ (releaseAll s l).kct = s.kct ∧ (releaseAll s l).arr = s.arr := by
  induction l with
  | nil => intro s; exact ⟨rfl, rfl, rfl, rfl⟩
  | cons w l ih =>
    intro s
    have hs := releaseTask_shape s w
    obtain ⟨hmem, hserve, hkct, harr⟩ := ih (releaseTask s w)
    rw [releaseAll, List.foldl_cons]
    exact ⟨hmem.trans (by rw [hs]), hserve.trans (by rw [hs]), hkct.trans (by rw [hs]), harr.trans (by rw [hs])⟩

theorem releaseAll_regs (l : List (Nat × Slot)) {a : Nat} (ha : rBED_STAT 16 ≤ a) : ∀ {s : State}, s.tidy = true →
    rd (releaseAll s l) a = rd s a := by
  induction l with
  | nil => intro s _; rfl
  | cons w l ih => intro s h; exact (ih (releaseTask_tidy w h)).trans (releaseTask_regs h w ha)

/-- The dispatcher after a list of tasks is released, with `k` released since the number `n`: each has its number in the order. -/
theorem releaseAll_disp (n : Nat) (l : List (Nat × Slot)) : ∀ (s : State) (k : Nat), s.disp.nextRel = n + k →
    (releaseAll s l).disp = { s.disp with
      window := (l.zip (List.range' k l.length)).foldl (fun m w => put m w.1.1 { w.1.2 with released := true, order := n + w.2 })
        s.disp.window
      nextRel := n + k + l.length } := by
  induction l with
  | nil => intro s k hk; rw [List.length_nil, Nat.add_zero, ← hk]; rfl
  | cons w l ih =>
    intro s k hk
    have hn : (releaseTask s w).disp.nextRel = n + (k + 1) := by rw [releaseTask_disp, hk]; rfl
    have hlen : n + (k + 1) + l.length = n + k + (l.length + 1) := by omega
    rw [releaseAll, List.foldl_cons, ← releaseAll, ih _ _ hn, releaseTask_disp, List.length_cons, List.range'_succ,
      List.zip_cons_cons, List.foldl_cons, hk, hlen]

/-! ### 64-bit counters -/

theorem rd64_wr64 {s : State} (h : s.tidy = true) (a : Nat) {v : Nat} (hv : v < 2 ^ 64) : rd64 (wr64 s a v) a = v := by
  have hne : a ≠ a + 4 := by omega
  rw [rd64, wr64, rd_wr (wr_tidy' h _ _), if_neg hne, rd_wr h, if_pos rfl, rd_wr (wr_tidy' h _ _), if_pos rfl]
  omega

theorem rd64_lt (s : State) (a : Nat) : rd64 s a < 2 ^ 64 := by
  have h1 := rd_lt s a
  have h2 := rd_lt s (a + 4)
  unfold rd64
  omega

/-- A count raises a 64-bit counter modulo 2^64. -/
theorem rd64_bump64 {s : State} (h : s.tidy = true) (a n : Nat) : rd64 (bump64 s a n) a = (rd64 s a + n) % 2 ^ 64 := by
  unfold bump64
  split
  · rename_i hn
    rw [hn, Nat.add_zero, Nat.mod_eq_of_lt (rd64_lt s a)]
  · exact rd64_wr64 h a (Nat.mod_lt _ (Nat.two_pow_pos 64))

/-- Settles O30: a run of admission is a fold over its entrants, a task that passes its checks enters as `admitTask_enters` says, and
a run of release is a fold whose steps touch the dispatcher and the beds alone. -/
theorem dispatcherAdmitsAndReleases : Obligations.DispatcherAdmitsAndReleases := by
  intro s hs
  refine ⟨?run, ?entry, ?release⟩
  case run =>
    obtain ⟨hlen, hrun, hstop⟩ := admitRun_eq_foldl 16 s
    exact ⟨admitRun s 16, entrants s 16, rfl, hlen, hrun, hstop⟩
  case entry =>
    intro i hch hi hb d u hf hnone
    have ht : admitRun s 16 = admitTask s i := by rw [admitRun_succ_some hch, admitRun_of_none hnone]
    obtain ⟨b, he⟩ := admitTask_enters hi hb hf
    refine ⟨admitTask s i, congrArg Host.Outcome.next ht, ?_⟩
    rw [he]
    exact ⟨rfl, rfl, started_ctrs_first hi, fun h0 => congrArg (fun t => t.disp.ctrs) (started_later h0), rfl, rfl, rfl, rfl, rfl⟩
  case release =>
    intro l
    have hmem : ∀ w ∈ l, w ∈ s.disp.window ∧ w.2.ready = true ∧ w.2.released = false :=
      fun w hw => mem_releasable (List.mem_of_mem_take hw)
    obtain ⟨hm, hsv, hk, ha⟩ := releaseAll_frame l s
    have htidy : (releaseAll s l).tidy = true := tidy_foldl (fun s w h => releaseTask_tidy w h) hs
    have hperf : rd64 (releaseAll s l) rDISP_PERF = rd64 s rDISP_PERF := by
      rw [rd64, releaseAll_regs l (by decide) hs, releaseAll_regs l (by decide) hs, rd64]
    refine ⟨hmem, List.length_take_le 16 _, bump64 (releaseAll s l) rDISP_PERF l.length, rfl, ?_, ?_, ?_, ?_, ?_, ?_⟩
    · rw [bump64_disp, releaseAll_disp s.disp.nextRel l s 0 rfl, List.range_eq_range']
      rfl
    · rw [rd64_bump64 htidy, hperf]
    · rw [bump64_mem, hm]
    · rw [bump64_serve, hsv]
    · rw [bump64_kct, hk]
    · rw [bump64_arr, ha]

end Sys2Proof.Machine
end

section
/-! PROOFS. What a run may touch, and how a task that nothing fails ends (R137, R140-R142, R150, R151, R160-R164): its writes stay in one
region of the commons, its reads in some spaces, and the job it leaves is committed with OK. -/

namespace Sys2Proof.Machine

/-! ### Tables -/

theorem look_modify_self {α : Type} {m : List (Nat × α)} {i : Nat} {v : α} (h : look m i = some v) (f : α → α) :
    look (modify m i f) i = some (f v) := by
  simp only [modify, h, look_put, if_true]

theorem look_modify_ne {α : Type} (m : List (Nat × α)) {i j : Nat} (f : α → α) (h : j ≠ i) : look (modify m i f) j = look m j := by
  unfold modify
  split
  · exact look_put_ne _ _ h
  · rfl

/-! ### Reads -/

@[simp] theorem peeks_length (m : Memory) (n : Nat) : ∀ a, (peeks m a n).length = n := by
  induction n with
  | zero => intro a; rfl
  | succ n ih => intro a; rw [peeks, List.length_cons, ih]

/-- A read delivers as many bytes as it asks for, decoded or not. -/
@[simp] theorem Job.rd_length (j : Job) (sp a n : Nat) : (j.rd sp a n).1.length = n := by
  unfold Job.rd
  split
  · exact List.length_replicate
  · split
    · exact List.length_replicate
    · dsimp only
      split
      · exact peeks_length _ _ _
      · rw [List.length_map, List.length_zip, peeks_length, List.length_range, Nat.min_self]

/-! ### The end of a task that nothing fails -/

/-- A charge moves the buckets alone, whatever charges came before it. -/
theorem charge_shape {s t : State} (h : t = { s with tier := t.tier }) (res p b : Nat) :
    charge t res p b = { s with tier := (charge t res p b).tier } := by
  have ht : charge t res p b = { t with tier := (charge t res p b).tier } := by unfold charge; split <;> rfl
  exact ht.trans (congrArg (fun u : State => { u with tier := (charge t res p b).tier }) h)

/-- Charging a job's traffic moves the buckets alone. -/
theorem chargeJob_shape (s : State) (part : Nat) (sideB : Bool) (j : Job) :
    chargeJob s part sideB j = { s with tier := (chargeJob s part sideB j).tier } := by
  unfold chargeJob
  refine List.foldlRecOn (motive := fun t : State => t = { s with tier := t.tier }) _ _ rfl fun t ht sp _ => ?_
  split
  · exact ht
  · exact charge_shape ht _ _ _

/-- Adding a job's counts moves the registers alone. -/
theorem addCounts_shape (s : State) (j : Job) : addCounts s j = { s with regs := (addCounts s j).regs } := by
  have hb : ∀ {t : State}, t = { s with regs := t.regs } → ∀ a hi lo n,
      bump t a hi lo n = { s with regs := (bump t a hi lo n).regs } := fun {t} ht a hi lo n =>
    congrArg (fun u : State => { u with regs := (bump t a hi lo n).regs }) ht
  have hc : j.counts.foldl (fun s c => bump s c.1 c.2.1 c.2.2.1 c.2.2.2) s =
      { s with regs := (j.counts.foldl (fun s c => bump s c.1 c.2.1 c.2.2.1 c.2.2.2) s).regs } :=
    List.foldlRecOn (motive := fun t : State => t = { s with regs := t.regs }) _ _ rfl fun t ht c _ => hb ht _ _ _ _
  have hi : ∀ {t : State} (n a hi lo : Nat), t = { s with regs := t.regs } →
      (if n = 0 then t else bump t a hi lo n) = { s with regs := (if n = 0 then t else bump t a hi lo n).regs } := by
    intro t n a hi lo ht
    split
    · exact ht
    · exact hb ht _ _ _ _
  exact hi _ _ _ _ (hi _ _ _ _ (hi _ _ _ _ hc))

/-- A task's window slot, where the task is released. -/
theorem look_of_released {s : State} {k eng : Nat} {sel : Bytes → Bool} {sl : Slot} {i : Inst} (h : released s k eng sel = some (sl, i)) :
    look s.disp.window k = some sl := by
  unfold released at h
  split at h
  · cases h
  · split at h
    · obtain ⟨i', -, he⟩ := Option.map_eq_some_iff.mp h
      cases he
      assumption
    · cases h

/-- A task has ended with OK on a job: its memories are the job's, its slot holds the status, and the rest of the window, the
instances, the serving tables and the arrays are as before. -/
def EndedOk (s : State) (k : Nat) (sl : Slot) (j : Job) (t : State) : Prop :=
  t.mem = j.mem ∧ look t.disp.window k = some { sl with result := some stOK } ∧
    (∀ m, m ≠ k → look t.disp.window m = look s.disp.window m) ∧ t.disp.insts = s.disp.insts ∧ t.serve = s.serve ∧ t.arr = s.arr

/-- A job that does not wait and met nothing that fails it, corrected no word and queued no packet ends its task with OK. -/
theorem finishJob_endedOk {s : State} {k : Nat} {sl : Slot} (hl : look s.disp.window k = some sl) (i : Inst) {sideB : Bool}
    (as : Option (Nat × Nat)) {j : Job} (hw : jobWaits s (instPart s i) sideB j = false) (hu : j.ue = none) (hf : j.failed = none)
    (hc : j.ce = []) (ho : j.outs = []) : EndedOk s k sl j (finishJob s k sl i sideB as j) := by
  have he : finishJob s k sl i sideB as j = endTask (addCounts (chargeJob
      { keepGhosts s sideB j with mem := j.mem, fresh := s.fresh + freeBlockSize } (instPart s i) sideB j) j) k stOK := by
    simp only [finishJob, hw, hu, hf, hc, ho, List.foldl_nil, ite_self, Bool.false_eq_true, if_false]
  rw [he, addCounts_shape, chargeJob_shape]
  exact ⟨rfl, look_modify_self hl _, fun m hm => look_modify_ne _ _ hm, rfl, rfl, rfl⟩

/-! ### What a run touches -/

/-- How far a run that began on memories `m` has gone at job `j`: the symbol code corrected nothing, no packet is queued, every access
was to a space of `R`, and of the memories only commons bytes in `W` have changed. -/
structure Confined (m : Mems) (R W : Nat → Prop) (j : Job) : Prop where
  wf      : cellsWf j.mem.commons = true
  near    : j.mem.near = m.near
  far     : j.mem.far = m.far
  slices  : j.mem.slices = m.slices
  kept    : ∀ x, ¬ W x → peek j.mem.commons x = peek m.commons x
  spaces  : ∀ x ∈ j.traffic, R x.1
  verdict : j.verdict = .clean
  ce      : j.ce = []
  outs    : j.outs = []

section
variable {m : Mems} {R W : Nat → Prop} {j : Job}

theorem confined_start {s : State} (h : s.tidy = true) (sideB : Bool) : Confined s.mem R W (startJob s .clean sideB) where
  wf := wf_commons h
  near := rfl
  far := rfl
  slices := rfl
  kept _ _ := rfl
  spaces _ hx := absurd hx List.not_mem_nil
  verdict := rfl
  ce := rfl
  outs := rfl

/-- A read leaves the memories, corrects nothing under a clean verdict, and adds its space to the traffic. -/
theorem Confined.rd (h : Confined m R W j) {sp : Nat} (hsp : R sp) (a n : Nat) : Confined m R W (j.rd sp a n).2 := by
  have hs : ∀ x ∈ (sp, n) :: j.traffic, R x.1 := List.forall_mem_cons.mpr ⟨hsp, h.spaces⟩
  unfold Job.rd
  split
  · exact h
  · split
    · exact ⟨h.wf, h.near, h.far, h.slices, h.kept, h.spaces, h.verdict, h.ce, h.outs⟩
    · rw [h.verdict]
      dsimp only
      split <;> exact ⟨h.wf, h.near, h.far, h.slices, h.kept, hs, rfl, h.ce, h.outs⟩

/-- A write of commons bytes in `W`. -/
theorem Confined.wr (h : Confined m R W j) (h0 : R 0) {a : Nat} {bs : Bytes} (hW : ∀ x, a ≤ x → x < a + bs.length → W x) :
    Confined m R W (j.wr 0 a bs) := by
  unfold Job.wr
  split
  · exact h
  · refine ⟨cellsWf_pokes h.wf a, h.near, h.far, h.slices, fun x hx => ?_, List.forall_mem_cons.mpr ⟨h0, h.spaces⟩, h.verdict, h.ce, h.outs⟩
    refine (peek_pokes h.wf a x).trans ?_
    rw [if_neg fun hin => hx (hW x hin.1 hin.2)]
    exact h.kept x hx

theorem Confined.tally (h : Confined m R W j) (reg hi lo n : Nat) : Confined m R W (j.tally reg hi lo n) := by
  unfold Job.tally
  split
  · exact h
  · exact ⟨h.wf, h.near, h.far, h.slices, h.kept, h.spaces, h.verdict, h.ce, h.outs⟩

theorem Confined.conv (h : Confined m R W j) (sat nan : Nat) : Confined m R W (j.conv sat nan) := by
  unfold Job.conv
  split
  · exact h
  · exact ⟨h.wf, h.near, h.far, h.slices, h.kept, h.spaces, h.verdict, h.ce, h.outs⟩

theorem Confined.failWith (h : Confined m R W j) (f : Option JobFail) : Confined m R W { j with failed := f } :=
  ⟨h.wf, h.near, h.far, h.slices, h.kept, h.spaces, h.verdict, h.ce, h.outs⟩

/-- A job of an engine of side A that accessed the commons alone waits for no regulator (R297, R299). -/
theorem Confined.not_waits (h : Confined m (· = 0) W j) (s : State) (part : Nat) : jobWaits s part false j = false := by
  have hno : ∀ sp, sp ≠ 0 → (j.traffic.any fun x => x.1 == sp && x.2 != 0) = false := fun sp hsp =>
    List.any_eq_false.mpr fun x hx hc =>
      hsp ((beq_iff_eq.mp (Bool.and_eq_true_iff.mp hc).1).symm.trans (h.spaces x hx))
  simp only [jobWaits, List.any_cons, List.any_nil, hno 1 (by decide), hno 2 (by decide), beq_self_eq_true, Bool.not_false, Bool.not_true,
    Bool.and_true, Bool.and_false, Bool.false_and, Bool.or_false]

/-- A task that ended with OK on a confined job leaves the tiers and the slices. -/
theorem EndedOk.frame {s t : State} {k : Nat} {sl : Slot} (h : EndedOk s k sl j t) (hj : Confined s.mem R W j) :
    t.mem = j.mem ∧ look t.disp.window k = some { sl with result := some stOK } ∧
      (∀ m, m ≠ k → look t.disp.window m = look s.disp.window m) ∧ t.disp.insts = s.disp.insts ∧ t.serve = s.serve ∧ t.arr = s.arr ∧
      t.mem.near = s.mem.near ∧ t.mem.far = s.mem.far ∧ t.mem.slices = s.mem.slices := by
  obtain ⟨hm, hslot, hrest, hinsts, hserve, harr⟩ := h
  refine ⟨hm, hslot, hrest, hinsts, hserve, harr, ?_, ?_, ?_⟩ <;> rw [hm]
  · exact hj.near
  · exact hj.far
  · exact hj.slices

/-- A task that ended with OK on a confined job leaves every commons byte its run may not write. -/
theorem EndedOk.peek_eq {s t : State} {k : Nat} {sl : Slot} (h : EndedOk s k sl j t) (hj : Confined s.mem R W j) {x : Nat} (hx : ¬ W x) :
    peek t.mem.commons x = peek s.mem.commons x := by
  rw [h.1]
  exact hj.kept x hx

end

/-- The task of a released row whose run is confined, does not wait and meets nothing that fails it. -/
theorem engineTask_endedOk {s : State} {k eng : Nat} {sideB : Bool} (as : Option (Nat × Nat)) {sel : Bytes → Bool}
    {run : State → Bytes → Job → Job} {sl : Slot} {i : Inst} {j : Job} {R W : Nat → Prop} (hr : released s k eng sel = some (sl, i))
    (he : run s sl.desc (startJob s .clean sideB) = j) (hj : Confined s.mem R W j) (hw : jobWaits s (instPart s i) sideB j = false)
    (hu : j.ue = none) (hf : j.failed = none) : EndedOk s k sl j (engineTask s k .clean eng sideB as sel run) := by
  simp only [engineTask, hr, he]
  exact finishJob_endedOk (look_of_released hr) i as hw hu hf hj.ce hj.outs

end Sys2Proof.Machine
end

section
/-! PROOFS. The sparse merge engine (R137, R140-R144) and QUANT (R160, R161, R164): each run writes its own elements alone, and its task
ends with OK. -/

namespace Sys2Proof.Machine

/-! ### The sparse merge engine -/

/-- A byte of a destination element of a merge task. -/
def InMergeElem (d : Bytes) (x : Nat) : Prop :=
  ∃ r < pON d, ∃ c < pLEN d, pOA d + r * pOS d + c * pOE d ≤ x ∧ x < pOA d + r * pOS d + c * pOE d + elemSize (pOF d)

/-- A key of the table of products names a destination element. -/
def elemKey (d : Bytes) (e : Nat × List Nat) : Bool := decide (e.1 / 16384 < pON d ∧ e.1 % 16384 < pLEN d)

@[simp] theorem outElem_length (code : Nat) (mode : RMode) (sat : Bool) (v : Val) : (outElem code mode sat v).bytes.length = elemSize code := by
  unfold outElem
  split <;> exact toLE_length _ _

/-- The check bounds an element's vector (R139). -/
theorem pLEN_le_of_spmCheck {s : State} {d : Bytes} (h : spmCheck s d = true) : pLEN d ≤ 16384 := by
  simp only [spmCheck, Bool.and_eq_true, decide_eq_true_eq] at h
  obtain ⟨⟨⟨⟨⟨⟨⟨⟨-, hlen⟩, -⟩, -⟩, -⟩, -⟩, -⟩, -⟩, -⟩ := h
  split at hlen <;> omega

section
variable {m : Mems} {W : Nat → Prop} {d : Bytes} {j : Job}

/-- Either way a choice goes, the job beside what it answers is confined. -/
theorem confined_ite {α : Type} {R : Nat → Prop} {c : Prop} [Decidable c] {a b : α × Job} (ha : Confined m R W a.2) (hb : Confined m R W b.2) :
    Confined m R W (if c then a else b).2 := by
  split
  · exact ha
  · exact hb

theorem readList_confined (h : Confined m (fun _ => True) W j) (s : State) (d hd : Bytes) :
    Confined m (fun _ => True) W (readList s d hd j).2 := by
  unfold readList
  exact confined_ite h (confined_ite (h.rd trivial _ _) (((h.rd trivial _ _).rd trivial _ _).rd trivial _ _))

theorem readDelta_confined (h : Confined m (fun _ => True) W j) (s : State) (d hd : Bytes) :
    Confined m (fun _ => True) W (readDelta s d hd j).2 := by
  unfold readDelta
  exact confined_ite h (confined_ite h (confined_ite h (((h.rd trivial _ _).rd trivial _ _).rd trivial _ _)))

theorem partnerElem_confined (h : Confined m (fun _ => True) W j) (d buf : Bytes) (i jx : Nat) :
    Confined m (fun _ => True) W (partnerElem d buf j i jx).2 := by
  unfold partnerElem
  exact confined_ite h (h.rd trivial _ _)

/-- The products of an entry within OUT_COUNT: partner elements are read, and the keys they are stored under name elements. -/
theorem addProducts_confined (hl : pLEN d ≤ 16384) (buf : Bytes) {acc : Job × List (Nat × List Nat)} {e : Entry} (he : e.1 < pON d)
    (h : Confined m (fun _ => True) W acc.1) (hk : acc.2.all (elemKey d) = true) :
    Confined m (fun _ => True) W (addProducts d buf acc e).1 ∧ (addProducts d buf acc e).2.all (elemKey d) = true := by
  unfold addProducts
  refine List.foldlRecOn (motive := fun a : Job × List (Nat × List Nat) =>
    Confined m (fun _ => True) W a.1 ∧ a.2.all (elemKey d) = true) _ _ ⟨h, hk⟩ fun a ha jx hjx => ?_
  have hjx : jx < pLEN d := List.mem_range.mp hjx
  have hkey : ∀ l, elemKey d (e.1 * 16384 + jx, l) = true := fun l => by
    refine decide_eq_true ⟨?_, ?_⟩ <;> dsimp only <;> omega
  refine ⟨?_, all_put ha.2 (hkey _)⟩
  dsimp only
  split
  · exact ha.1
  · exact partnerElem_confined ha.1 _ _ _ _

/-- The products of the entries within OUT_COUNT, in a table that begins empty. -/
theorem products_confined (hl : pLEN d ≤ 16384) (buf : Bytes) {es : List Entry} (he : ∀ e ∈ es, e.1 < pON d)
    (h : Confined m (fun _ => True) W j) :
    Confined m (fun _ => True) W (es.foldl (addProducts d buf) (j, [])).1 ∧
      (es.foldl (addProducts d buf) (j, [])).2.all (elemKey d) = true :=
  List.foldlRecOn (motive := fun a : Job × List (Nat × List Nat) => Confined m (fun _ => True) W a.1 ∧ a.2.all (elemKey d) = true)
    _ _ ⟨h, rfl⟩ fun _ ha e hm => addProducts_confined hl buf (he e hm) ha.1 ha.2

/-- A destination element is read where ADD asks for it, and written. -/
theorem putTotal_confined (fresh : Nat) {k : Nat × List Nat} (hk : elemKey d k = true) (h : Confined m (fun _ => True) (InMergeElem d) j) :
    Confined m (fun _ => True) (InMergeElem d) (putTotal fresh d j k) := by
  obtain ⟨hr, hc⟩ := of_decide_eq_true hk
  unfold putTotal
  dsimp only
  split
  · exact h
  · refine Confined.wr ?_ trivial fun x h1 h2 => ⟨_, hr, _, hc, h1, by rwa [outElem_length] at h2⟩
    split
    · exact h.rd trivial _ _
    · exact h

/-- A merge, gather or delta writes destination elements alone (R140, R142). -/
theorem runSpm_confined (s : State) (hl : pLEN d ≤ 16384) (h : Confined m (fun _ => True) (InMergeElem d) j) :
    Confined m (fun _ => True) (InMergeElem d) (runSpm s d j) := by
  unfold runSpm
  dsimp only
  split
  · exact h
  have hh := h.rd trivial (sp := pSp d) (pLIST d) 64
  split
  · exact hh
  have hlist := confined_ite (c := pOP d = 2) (readDelta_confined hh s d (j.rd (pSp d) (pLIST d) 64).1)
    (readList_confined hh s d (j.rd (pSp d) (pLIST d) 64).1)
  split
  · exact hlist.failWith _
  · rename_i es _
    obtain ⟨hprod, hkeys⟩ := products_confined hl _
      (fun e he => of_decide_eq_true (Bool.and_eq_true_iff.mp (List.mem_filter.mp he).2).1)
      (confined_ite (c := (preloads d && !es.isEmpty) = true) (b := (_, _)) (hlist.rd trivial _ _) hlist)
    refine Confined.tally (Confined.tally ?_ _ _ _ _) _ _ _ _
    exact List.foldlRecOn _ _ hprod fun j hj k hk => putTotal_confined _ (List.all_eq_true.mp hkeys k hk) hj

end

/-! ### QUANT -/

/-- A byte a QUANT task writes: of a token's scale, or of a block's record. -/
def InQuantOut (d : Bytes) (x : Nat) : Prop :=
  (vS1 d ≤ x ∧ x < vS1 d + 4 * vROWS d) ∨
    ∃ b < ceilDiv (vCOLS d) 512, vD d + b * vP d 2 ≤ x ∧ x < vD d + b * vP d 2 + 64 + 512 * vROWS d

/-- A format has at most eight planes, the sign among them. -/
theorem planes_le_of_actFmt {code a p : Nat} {sg : Bool} (h : actFmt code = some (sg, p, a)) : (if sg then 1 else 0) + p ≤ 8 := by
  unfold actFmt at h
  split at h
  · cases h; decide
  · split at h
    · cases h; simp only [if_true]; omega
    · split at h
      · cases h; simp only [Bool.false_eq_true, if_false]; omega
      · cases h

@[simp] theorem planeOf_length (p : Int × Bool → Bool) (as : List (Int × Bool)) : (planeOf p as).length = 64 := toLE_length _ _

theorem flatMap_range_length {f : Nat → Bytes} {k : Nat} (hf : ∀ i, (f i).length = k) (n : Nat) :
    ((List.range n).flatMap f).length = n * k := by
  induction n with
  | zero => rw [List.range_zero, List.flatMap_nil, List.length_nil, Nat.zero_mul]
  | succ n ih =>
    rw [List.range_succ, List.flatMap_append, List.length_append, ih, List.flatMap_cons, List.flatMap_nil, List.append_nil, hf,
      Nat.succ_mul]

/-- A token's record of one block has at most eight planes of 64 bytes. -/
theorem quantBlock_length_le (code rt : Nat) (mode : Nat → RMode) (src k0 : Nat) (xs : List Nat) :
    (quantBlock code rt mode src k0 xs).bytes.length ≤ 512 := by
  unfold quantBlock
  split
  · exact Nat.zero_le _
  · rename_i sg p a hc
    have hp := planes_le_of_actFmt hc
    have hsign : ∀ bs : Bytes, bs.length = 64 → (if sg then bs else []).length = (if sg then 1 else 0) * 64 := fun bs hbs => by
      cases sg
      · rfl
      · exact hbs
    dsimp only
    rw [List.length_append, flatMap_range_length fun _ => planeOf_length _ _, hsign _ (planeOf_length _ _)]
    omega

/-- One token of a QUANT task: its scale written, its records added to those of the tokens before it. -/
def quantToken (d : Bytes) (codes : List Nat) (q : Nat) (acc : Job × List (Bytes × Nat)) (t : Nat) : Job × List (Bytes × Nat) :=
  if acc.1.ue.isSome then acc else
  let x := vRow d acc.1 t
  let m := vModes d x.2 t
  let sc := tokenScale d q x.1
  let outs := (codes.zip (List.range codes.length)).map fun c =>
    quantBlock c.1 sc.2 m.1 (vSRC d) (512 * c.2) ((x.1.drop (512 * c.2)).take 512)
  ((m.2.wr 0 (vS1 d + 4 * t) (toLE 4 sc.1)).conv (sumOf (outs.map (·.sat))) (sumOf (outs.map (·.nan))),
    (acc.2.zip outs).map fun p => (p.1.1 ++ p.2.bytes, p.1.2 + p.2.sat))

/-- A block's header and the records of its tokens. -/
def quantRecord (b : (Nat × Bytes × Nat) × Nat) : Bytes := toLE 1 b.1.1 ++ [0] ++ toLE 2 (min b.1.2.2 0xFFFF) ++ zeros 60 ++ b.1.2.1

theorem quantTokens_eq (d : Bytes) (codes : List Nat) (q : Nat) (j : Job) : quantTokens d codes q j =
    let r := (List.range (vROWS d)).foldl (quantToken d codes q) (j, codes.map fun _ => ([], 0))
    ((codes.zip r.2).zip (List.range codes.length)).foldl (fun j b => j.wr 0 (vD d + b.2 * vP d 2) (quantRecord b)) r.1 := rfl

theorem quantRecord_length (b : (Nat × Bytes × Nat) × Nat) : (quantRecord b).length = 64 + b.1.2.1.length := by
  simp only [quantRecord, zeros, List.length_append, toLE_length, List.length_replicate, List.length_singleton]

section
variable {m : Mems} {W : Nat → Prop} {d : Bytes} {j : Job}

theorem vRow_confined (h : Confined m (· = 0) W j) (d : Bytes) (r : Nat) : Confined m (· = 0) W (vRow d j r).2 := h.rd rfl _ _

theorem vModes_confined (h : Confined m (· = 0) W j) (d : Bytes) (r : Nat) : Confined m (· = 0) W (vModes d j r).2 := by
  unfold vModes
  exact confined_ite (h.rd rfl _ _) h

/-- A token writes its scale, and each block's records grow by eight planes at most. -/
theorem quantToken_confined (codes : List Nat) (q : Nat) {acc : Job × List (Bytes × Nat)} {t : Nat} (ht : t < vROWS d)
    (h : Confined m (· = 0) (InQuantOut d) acc.1) (hb : ∀ p ∈ acc.2, p.1.length ≤ 512 * t) :
    Confined m (· = 0) (InQuantOut d) (quantToken d codes q acc t).1 ∧
      ∀ p ∈ (quantToken d codes q acc t).2, p.1.length ≤ 512 * (t + 1) := by
  unfold quantToken
  split
  · exact ⟨h, fun p hp => Nat.le_trans (hb p hp) (by omega)⟩
  · refine ⟨?scale, ?records⟩
    case scale =>
      refine (Confined.wr (vModes_confined (vRow_confined h d t) d t) rfl fun x h1 h2 => Or.inl ?_).conv _ _
      rw [toLE_length] at h2
      omega
    case records =>
      intro p hp
      obtain ⟨⟨old, out⟩, hz, rfl⟩ := List.mem_map.mp hp
      obtain ⟨hold, hout⟩ := List.of_mem_zip hz
      obtain ⟨c, -, rfl⟩ := List.mem_map.mp hout
      rw [List.length_append]
      exact Nat.add_le_add (hb old hold) (quantBlock_length_le _ _ _ _ _ _)

/-- The first `n` tokens. -/
theorem quantToken_foldl_confined (codes : List Nat) (q : Nat) (h : Confined m (· = 0) (InQuantOut d) j) (n : Nat) (hn : n ≤ vROWS d) :
    let r := (List.range n).foldl (quantToken d codes q) (j, codes.map fun _ => ([], 0))
    Confined m (· = 0) (InQuantOut d) r.1 ∧ ∀ p ∈ r.2, p.1.length ≤ 512 * n := by
  induction n with
  | zero => exact ⟨h, fun p hp => by obtain ⟨_, -, rfl⟩ := List.mem_map.mp hp; exact Nat.zero_le _⟩
  | succ n ih =>
    obtain ⟨hj, hb⟩ := ih (by omega)
    rw [List.range_succ, List.foldl_append]
    exact quantToken_confined codes q hn hj hb

/-- The tokens' scales and then the blocks are written, each within its own region. -/
theorem quantTokens_confined {codes : List Nat} (hc : codes.length = ceilDiv (vCOLS d) 512) (q : Nat)
    (h : Confined m (· = 0) (InQuantOut d) j) : Confined m (· = 0) (InQuantOut d) (quantTokens d codes q j) := by
  obtain ⟨hj, hb⟩ := quantToken_foldl_confined codes q h (vROWS d) (Nat.le_refl _)
  rw [quantTokens_eq]
  refine List.foldlRecOn _ _ hj fun j hj b hm => hj.wr rfl fun x h1 h2 => Or.inr ⟨b.2, ?_, h1, ?_⟩
  · exact hc ▸ List.mem_range.mp (List.of_mem_zip hm).2
  · have hlen : b.1.2.1.length ≤ 512 * vROWS d := hb _ (List.of_mem_zip (List.of_mem_zip hm).1).2
    rw [quantRecord_length] at h2
    omega

/-- A QUANT reads the commons and writes the scales and the blocks alone (R160, R164). -/
theorem runQuant_confined (s : State) (h : Confined m (· = 0) (InQuantOut d) j) : Confined m (· = 0) (InQuantOut d) (runQuant s d j) := by
  unfold runQuant
  dsimp only
  split
  · exact h
  have hl := h.rd (sp := 0) rfl (vP d 1) (ceilDiv (vCOLS d) 512)
  split
  · exact hl
  split
  · exact (hl.tally _ _ _ _).failWith _
  · exact quantTokens_confined (by rw [List.length_map, Job.rd_length]) _ hl

end

/-- Settles O56: the runs of the sparse merge engine and of QUANT are confined to their own elements, so that a job nothing fails ends
with OK and leaves the rest of the memories as it was. -/
theorem sparseMergeAndVector : Obligations.SparseMergeAndVector := by
  intro s k sl i hs d start ended j at_ good elems
  have merge : ∀ op, at_ op → good → ended (spmTask op k .clean s) j ∧ elems (spmTask op k .clean s) := by
    rintro op hr ⟨hchk, hu, hf, hw⟩
    have hj := runSpm_confined s (pLEN_le_of_spmCheck hchk) (confined_start hs true)
    have hend := engineTask_endedOk none hr rfl hj hw hu hf
    refine ⟨hend.frame hj, fun x hx => hend.peek_eq hj ?_⟩
    rintro ⟨r, hr, c, hc, hle, hlt⟩
    exact (hx r hr c hc).elim (Nat.not_lt.mpr hle) (Nat.not_le.mpr hlt)
  refine ⟨fun hr hg => ⟨_, rfl, merge 0 hr hg⟩, fun hr hg => ⟨_, rfl, merge 1 hr hg⟩, fun hr hg => ⟨_, rfl, merge 2 hr hg⟩, ?quant⟩
  case quant =>
    intro q hr hu hf
    have hj := runQuant_confined s (confined_start (W := InQuantOut d) hs false)
    have hend := engineTask_endedOk none hr rfl hj (hj.not_waits s _) hu hf
    refine ⟨vectorTask 0x20 runQuant k .clean s, rfl, hend.frame hj, fun x hscale hblock => hend.peek_eq hj ?_⟩
    rintro (⟨hle, hlt⟩ | ⟨b, hb, hle, hlt⟩)
    · exact hscale.elim (Nat.not_lt.mpr hle) (Nat.not_le.mpr hlt)
    · exact (hblock b hb).elim (Nat.not_lt.mpr hle) (Nat.not_le.mpr hlt)

end Sys2Proof.Machine
end

section
/-! PROOFS. GRAFT_REGISTER and UNREGISTER (R267, R269, R271, R275, R277): acceptance leaves what the checks of an image read, storing a
copy moves bytes, blocks and buckets alone, and the registry gains or replaces one entry. -/

namespace Sys2Proof.Machine

/-! ### Words that do not decode (R292, R294) -/

theorem badIn_eq_false_iff {s : State} {sp a n : Nat} : badIn s sp a n = false ↔
    ∀ x ∈ s.mem.bad, x.1 = sp → n ≠ 0 → a / 16 ≤ x.2 → ¬ x.2 ≤ (a + n - 1) / 16 := by
  simp [badIn]

theorem badIn_of_subset {s t : State} {sp a n : Nat} (h : t.mem.bad ⊆ s.mem.bad) (hs : badIn s sp a n = false) :
    badIn t sp a n = false :=
  badIn_eq_false_iff.mpr fun x hx => badIn_eq_false_iff.mp hs x (h hx)

theorem insertBy_ne_nil {α : Type} (key : α → Nat) (x : α) (l : List α) : insertBy key x l ≠ [] := by
  cases l with
  | nil => exact List.cons_ne_nil _ _
  | cons y ys => unfold insertBy; split <;> exact List.cons_ne_nil _ _

theorem sortBy_ne_nil {α : Type} (key : α → Nat) {l : List α} (h : l ≠ []) : sortBy key l ≠ [] := by
  cases l with
  | nil => exact absurd rfl h
  | cons x l => exact List.foldlRecOn (motive := (· ≠ [])) l _ (insertBy_ne_nil key x []) fun _ _ _ _ => insertBy_ne_nil _ _ _

/-- A range in which no word is found has none. -/
theorem badIn_of_firstBad {s : State} {sp a n : Nat} (h : firstBad s sp a n = none) : badIn s sp a n = false := by
  cases hb : badIn s sp a n with
  | false => rfl
  | true =>
    rw [firstBad, if_pos hb, Option.map_eq_none_iff, List.head?_eq_none_iff] at h
    obtain ⟨x, hx, hin⟩ := List.any_eq_true.mp hb
    simp only [Bool.and_eq_true] at hin
    obtain ⟨hsp, -, hlo, hhi⟩ := hin
    refine absurd h (sortBy_ne_nil id (List.ne_nil_of_mem (List.mem_filterMap.mpr ⟨x, hx, if_pos ?_⟩ : x.2 ∈ _)))
    rw [hsp, hlo, hhi]
    rfl

/-- Replacing a space's bytes leaves the marks. -/
theorem bad_setMem (m : Mems) (sp : Nat) (x : Memory) : (setMem m sp x).bad = m.bad := by
  unfold setMem; split <;> rfl

theorem bad_wipeRange_subset (s : State) (sp a n : Nat) : (wipeRange s sp a n).mem.bad ⊆ s.mem.bad := by
  intro x hx
  rw [← bad_setMem]
  exact (List.mem_filter.mp hx).1

/-- A range of whole words that is cleared has no marked word left. -/
theorem badIn_wipeRange (s : State) {sp a n : Nat} (ha : a % 16 = 0) (hn : n % 16 = 0) :
    badIn (wipeRange s sp a n) sp a n = false := by
  refine badIn_eq_false_iff.mpr fun x hx hsp hn0 hlo hhi => ?_
  have hkept := (List.mem_filter.mp hx).2
  simp only [Bool.not_eq_true', Bool.and_eq_false_iff, beq_eq_false_iff_ne, decide_eq_false_iff_not] at hkept
  omega

theorem copyMarks_of_unmarked {bad : List (Nat × Nat)} {sp a n : Nat} (dsp d : Nat)
    (h : ∀ x ∈ bad, ¬(x.1 = sp ∧ a ≤ x.2 * 16 ∧ x.2 * 16 < a + n)) (s : State) : copyMarks s bad sp a n dsp d = s := by
  unfold copyMarks
  refine List.foldlRecOn (motive := fun t => t = s) _ _ rfl fun t ht x hx => ?_
  rw [if_neg (h x hx)]
  exact ht

/-- A copy of words that all decode marks none. -/
theorem bad_copyRange_subset {s : State} {sp a n : Nat} (dsp d : Nat) (h : badIn s sp a n = false) :
    (copyRange s sp a n dsp d).mem.bad ⊆ (wipeRange s dsp d n).mem.bad := by
  have hno : ∀ x ∈ s.mem.bad, ¬(x.1 = sp ∧ a ≤ x.2 * 16 ∧ x.2 * 16 < a + n) := by
    rintro x hx ⟨hsp, hlo, hhi⟩
    exact badIn_eq_false_iff.mp h x hx hsp (by omega) (by omega) (by omega)
  unfold copyRange
  rw [copyMarks_of_unmarked dsp d hno, bad_setMem]
  exact List.Subset.refl _

/-! ### Storing a copy -/

/-- `t` is `s` but for what storing bytes moves: the memories, the blocks with the allocation's choices, and the buckets. -/
def Stored (s t : State) : Prop := t = { s with fresh := t.fresh, mem := t.mem, blocks := t.blocks, tier := t.tier }

theorem Stored.refl (s : State) : Stored s s := rfl

theorem Stored.trans {s t u : State} (h1 : Stored s t) (h2 : Stored t u) : Stored s u := by
  unfold Stored at *; rw [h1] at h2; exact h2

theorem wipeRange_stored (s : State) (sp a n : Nat) : Stored s (wipeRange s sp a n) := rfl

theorem copyRange_stored (s : State) (sp a n dsp d : Nat) : Stored s (copyRange s sp a n dsp d) := by
  unfold copyRange copyMarks
  refine List.foldlRecOn (motive := Stored s) _ _ rfl fun t ht x _ => ?_
  split
  · refine ht.trans ?_
    unfold markBad; split <;> rfl
  · exact ht

theorem charge_stored (s : State) (res p b : Nat) : Stored s (charge s res p b) := by
  unfold charge; split <;> rfl

theorem chargeNear_stored (s : State) (sp part n : Nat) : Stored s (chargeNear s sp part n) := by
  unfold chargeNear
  split
  · exact charge_stored _ _ _ _
  · exact .refl s

@[simp] theorem chargeNear_mem (s : State) (sp part n : Nat) : (chargeNear s sp part n).mem = s.mem := by rw [chargeNear_shape]

theorem zeroBlock_stored (s : State) (sp b : Nat) : Stored s (zeroBlock s sp b) :=
  (wipeRange_stored s sp _ _).trans (charge_stored _ _ _ _)

theorem grantBlock_stored (s : State) (c sp b : Nat) :
    Stored s (grantBlock s c sp b) ∧ (grantBlock s c sp b).mem.bad ⊆ s.mem.bad := by
  unfold grantBlock
  dsimp only
  split
  · exact ⟨rfl, List.Subset.refl _⟩
  · refine ⟨(zeroBlock_stored s sp b).trans rfl, ?_⟩
    rw [putBlock_mem, zeroBlock, charge_mem]
    exact bad_wipeRange_subset _ _ _ _

theorem grantRun_stored (c sp n : Nat) : ∀ (s : State) (b : Nat),
    Stored s (grantRun s c sp b n) ∧ (grantRun s c sp b n).mem.bad ⊆ s.mem.bad := by
  induction n with
  | zero => intro s b; exact ⟨rfl, List.Subset.refl _⟩
  | succ n ih =>
    intro s b
    obtain ⟨hs, hb⟩ := grantBlock_stored s c sp b
    obtain ⟨hs', hb'⟩ := ih (grantBlock s c sp b) (b + 1)
    exact ⟨hs.trans hs', List.Subset.trans hb' hb⟩

/-- Taking a run marks no word. -/
theorem takeRun_stored {s t : State} {sp n b : Nat} (h : takeRun s sp n = some (b, t)) :
    Stored s t ∧ t.mem.bad ⊆ s.mem.bad := by
  obtain ⟨c, -, he⟩ := Option.map_eq_some_iff.mp h
  cases he
  obtain ⟨hs, hb⟩ := grantRun_stored 0 sp n { s with fresh := s.fresh + 1 } b
  have hfresh : Stored s { s with fresh := s.fresh + 1 } := rfl
  exact ⟨hfresh.trans hs, hb⟩

theorem firmCopy_stored {s : State} {sp a n : Nat} (dsp d : Nat) (h : badIn s sp a n = false) :
    Stored s (firmCopy s sp a n dsp d) := by
  have hnone : firstBad s sp a n = none := if_neg (by rw [h]; exact Bool.false_ne_true)
  rw [firmCopy, hnone]
  exact copyRange_stored _ _ _ _ _ _

section
variable {s t : State} (h : Stored s t)
include h

theorem Stored.capOf_eq (sp : Nat) : capOf t sp = capOf s sp := by rw [h]; rfl
theorem Stored.regSlot_eq (i : Nat) : regSlot t i = regSlot s i := by rw [h]; rfl
theorem Stored.graft_eq : t.graft = s.graft := by rw [h]
theorem Stored.port_eq : portUp t = portUp s ∧ hasAddr t = hasAddr s ∧ ∀ d, pathMax t d = pathMax s d := by
  rw [h]; exact ⟨rfl, rfl, fun _ => rfl⟩

/-- Bytes and buckets do not decide which blocks are free. -/
theorem Stored.findRun_eq (hf : t.fresh = s.fresh) (hb : t.blocks = s.blocks) (c sp n : Nat) : findRun t c sp n = findRun s c sp n := by
  rw [h, hf, hb]; rfl

end

/-- A far-tier copy of words that decode is made where its blocks are free. -/
theorem mirrorOf_stored {s : State} {a n : Nat} (hclean : badIn s 1 a n = false)
    (hroom : capOf s 2 = 0 ∨ (findRun s 0 2 (ceilDiv n 65536)).isSome = true) :
    ∃ m t, mirrorOf s a n = some (m, t) ∧ Stored s t := by
  unfold mirrorOf
  split
  next => exact ⟨none, s, rfl, .refl s⟩
  next hcap =>
    obtain ⟨b, hb⟩ := Option.isSome_iff_exists.mp (hroom.resolve_left hcap)
    have htake : takeRun s 2 (ceilDiv n 65536) = some (b, grantRun { s with fresh := s.fresh + 1 } 0 2 b (ceilDiv n 65536)) := by
      rw [takeRun, hb]; rfl
    obtain ⟨hs, hbad⟩ := takeRun_stored htake
    refine ⟨_, _, congrArg (Option.map _) htake, ?_⟩
    exact ((hs.trans (firmCopy_stored _ _ (badIn_of_subset hbad hclean))).trans (charge_stored _ _ _ _)).trans (charge_stored _ _ _ _)

/-! ### Entering a graft (R267, R271, R275) -/

/-- The entry that an image makes in the lowest free slot, with its far-tier copy's first block. -/
def graftEntry (s : State) (c tier addr : Nat) (h : Bytes) (n : Nat) (mirror : Option Nat) : Graft :=
  let i := firstGap 0 s.graft.reg
  let delta := num h 2 1 == 1
  { delta := delta, gen := (look s.graft.gens i).getD 1, model := n, ctx := c, tier := if delta then tier else 1,
    addr := if delta then addr else regSlot s i, size := num h 8 4, mirror := mirror, unreg := false }

/-- The state with an entry of the registry set. -/
def withGraft (s : State) (i : Nat) (g : Graft) : State := { s with graft := { s.graft with reg := put s.graft.reg i g } }

/-- The state with an entry set and its identifier answered. -/
def graftAnswered (s : State) (r : Req) (i : Nat) (g : Graft) : State :=
  replyTo (withGraft s i g) r stOK 0 (toLE 4 (graftIdOf g i))

/-- The near-tier slot of the lowest free entry. -/
def freeSlot (s : State) : Nat := regSlot s (firstGap 0 s.graft.reg)

/-- The state with a vector graft's image in the free slot, and the traffic of the copy charged. -/
def slotFilled (s : State) (tier addr size part : Nat) : State :=
  charge (chargeNear (copyRange (wipeRange s 1 (freeSlot s) 16384) tier addr size 1 (freeSlot s)) tier part size) 0 0 size

theorem freeSlot_aligned (s : State) : freeSlot s % 16 = 0 := by
  unfold freeSlot regSlot registryBase shadowBase slotAddr mib
  omega

section
variable {s : State} {tier addr size : Nat} (part : Nat)

theorem slotFilled_stored : Stored s (slotFilled s tier addr size part) :=
  (((wipeRange_stored s 1 (freeSlot s) 16384).trans (copyRange_stored _ _ _ _ _ _)).trans (chargeNear_stored _ _ _ _)).trans
    (charge_stored _ _ _ _)

theorem slotFilled_tidy (hs : s.tidy = true) : (slotFilled s tier addr size part).tidy = true :=
  charge_tidy _ _ _ (chargeNear_tidy _ _ _ (copyRange_tidy _ _ _ _ _ (wipeRange_tidy hs _ _ _)))

/-- Filling the slot allocates nothing. -/
theorem slotFilled_findRun (c sp n : Nat) : findRun (slotFilled s tier addr size part) c sp n = findRun s c sp n := by
  refine (slotFilled_stored part).findRun_eq ?_ ?_ c sp n
  · rw [slotFilled, charge_fresh, chargeNear_shape]; exact copyRange_fresh _ _ _ _ _ _
  · rw [slotFilled, charge_blocks, chargeNear_shape]; exact copyRange_blocks _ _ _ _ _ _

/-- The slot is cleared whole and filled with words that decode, so every word of it decodes. -/
theorem badIn_slotFilled (hclean : badIn s tier addr size = false) :
    badIn (slotFilled s tier addr size part) 1 (freeSlot s) 16384 = false := by
  have hsrc : badIn (wipeRange s 1 (freeSlot s) 16384) tier addr size = false :=
    badIn_of_subset (bad_wipeRange_subset s _ _ _) hclean
  refine badIn_of_subset ?_ (badIn_wipeRange s (freeSlot_aligned s) (by decide))
  rw [slotFilled, charge_mem, chargeNear_mem]
  exact List.Subset.trans (bad_copyRange_subset 1 (freeSlot s) hsrc) (bad_wipeRange_subset _ _ _ _)

end

section
variable {s : State} (r : Req) {tier addr : Nat} {h : Bytes} (n : Nat) (hlen : s.graft.reg.length < 65536)
include hlen

/-- A delta graft's image stays where it is. -/
theorem enterGraft_delta (hkind : num h 2 1 = 1) : enterGraft s r tier addr h n =
    graftAnswered s r (firstGap 0 s.graft.reg) (graftEntry s r.pkt.hdr.ctx tier addr h n none) := by
  simp only [enterGraft, graftEntry, graftAnswered, withGraft, if_neg (Nat.not_le.mpr hlen), hkind, beq_self_eq_true, if_true, Option.map_none]

/-- A vector graft's image is copied to its slot, and that to the far tier. -/
theorem enterGraft_vector (hkind : num h 2 1 ≠ 1) {m : Option (Nat × Nat)} {v : State}
    (hm : mirrorOf (slotFilled s tier addr (num h 8 4) (partOf s r.pkt.hdr.ctx)) (freeSlot s) 16384 = some (m, v)) (hv : Stored s v) :
    enterGraft s r tier addr h n =
      graftAnswered v r (firstGap 0 s.graft.reg) (graftEntry s r.pkt.hdr.ctx tier addr h n (m.map (·.1))) := by
  have hbeq : (num h 2 1 == 1) = false := beq_eq_false_iff_ne.mpr hkind
  have hslot := (slotFilled_stored (s := s) (tier := tier) (addr := addr) (size := num h 8 4) (partOf s r.pkt.hdr.ctx)).regSlot_eq
    (firstGap 0 s.graft.reg)
  simp only [slotFilled, freeSlot] at hm hslot
  simp only [enterGraft, graftEntry, graftAnswered, withGraft, if_neg (Nat.not_le.mpr hlen), hbeq, Bool.false_eq_true, if_false, hslot, hm,
    hv.regSlot_eq]

/-- An image whose words decode is stored where its copy finds room, and enters the registry. -/
theorem enterGraft_enters (hs : s.tidy = true) (hclean : firstBad s tier addr (num h 8 4) = none)
    (hroom : capOf s 2 = 0 ∨ num h 2 1 = 1 ∨ (findRun s 0 2 1).isSome = true) :
    ∃ mirror v, Stored s v ∧ v.tidy = true ∧ enterGraft s r tier addr h n =
      graftAnswered v r (firstGap 0 s.graft.reg) (graftEntry s r.pkt.hdr.ctx tier addr h n mirror) := by
  by_cases hkind : num h 2 1 = 1
  case pos => exact ⟨none, s, .refl s, hs, enterGraft_delta r n hlen hkind⟩
  case neg =>
    have hu : Stored s (slotFilled s tier addr (num h 8 4) (partOf s r.pkt.hdr.ctx)) := slotFilled_stored _
    obtain ⟨m, v, hm, hv⟩ := mirrorOf_stored (n := 16384)
      (badIn_slotFilled (partOf s r.pkt.hdr.ctx) (badIn_of_firstBad hclean))
      (by rw [hu.capOf_eq, slotFilled_findRun]; exact hroom.imp_right (·.resolve_left hkind))
    exact ⟨_, v, hu.trans hv, mirrorOf_tidy hm (slotFilled_tidy _ hs), enterGraft_vector r n hlen hkind hm (hu.trans hv)⟩

end

/-! ### The checks of an image (R269, R270, R274) -/

/-- An image that GRAFT_REGISTER accepts: its header `h`, its bytes and its entries, for the installed model `m` of number `n`. -/
structure ImageChecks (s : State) (c tier addr : Nat) (h : Bytes) (n : Nat) (m : Model) : Prop where
  tier_le : tier ≤ 1
  headNamed : mayName s c tier addr 64 = true
  headReads : firstBad s tier addr 64 = none
  header : ld s tier addr 64 = h
  delta : num h 2 1 = 1 → s.fuses.variantB = false ∧ unitsLeft s 6 8 ≠ 0
  headOk : graftHeadOk s tier h = true
  named : mayName s c tier addr (num h 8 4) = true
  reads : firstBad s tier addr (num h 8 4) = none
  model : modelById s (num h 4 4) = some (n, m)
  entries : entriesOk s m tier addr h = true

theorem graftRegister_of_checks {s : State} {r : Req} {h : Bytes} {n : Nat} {m : Model} (hz : num r.pkt.payload 2 2 = 0)
    (ok : ImageChecks s r.pkt.hdr.ctx (num r.pkt.payload 1 1) (num r.pkt.payload 8 8) h n m) :
    graftRegister s r = if num h 12 2 = 0 then replyTo s r stOK 0 (toLE 4 0)
      else enterGraft s r (num r.pkt.payload 1 1) (num r.pkt.payload 8 8) h n := by
  have htier : ¬(1 < num r.pkt.payload 1 1 ∨ num r.pkt.payload 2 2 ≠ 0) := by have := ok.tier_le; omega
  have hvariant : ¬(num h 2 1 = 1 ∧ s.fuses.variantB = true) := fun hd => by simp [(ok.delta hd.1).1] at hd
  have hunits : ¬(num h 2 1 = 1 ∧ unitsLeft s 6 8 = 0) := fun hd => (ok.delta hd.1).2 hd.2
  simp only [graftRegister, if_neg htier, ok.headNamed, ok.headReads, ok.header, if_neg hvariant, if_neg hunits, ok.headOk, ok.named,
    ok.reads, ok.model, ok.entries, Bool.not_true, Bool.false_eq_true, or_self, if_false]

/-! ### Acceptance -/

section
variable {s : State} (hs : s.tidy = true) (op : Nat) (p : Pkt)

theorem atRun_shape (s : State) (op : Nat) (p : Pkt) :
    atRun s op p = { s with kct := (atRun s op p).kct, regs := (atRun s op p).regs, power := (atRun s op p).power } := accepted_shape s _

theorem atRun_graft (s : State) (op : Nat) (p : Pkt) : (atRun s op p).graft = s.graft := by rw [atRun_shape]

include hs

theorem atRun_fld {a : Nat} (ha : a ∉ portCounts) (hi lo : Nat) : fld (atRun s op p) a hi lo = fld s a hi lo := by
  have e : rd (atRun s op p) a = rd s a := accepted_regs hs _ ha
  rw [fld, e]; rfl

theorem atRun_capOf (sp : Nat) : capOf (atRun s op p) sp = capOf s sp := by
  have hn : stackCount (atRun s op p) = stackCount s := atRun_fld hs op p (by decide) _ _
  have hf : packages (atRun s op p) = packages s := atRun_fld hs op p (by decide) _ _
  have hb : (atRun s op p).fuses = s.fuses := by rw [atRun_shape]
  unfold capOf
  rw [hn, hf, hb]

theorem atRun_mayName (c sp a n : Nat) : mayName (atRun s op p) c sp a n = mayName s c sp a n := by
  unfold mayName
  rw [atRun_capOf hs, atRun_shape]
  rfl

theorem atRun_reservedOf (sp : Nat) : reservedOf (atRun s op p) sp = reservedOf s sp := by
  have hn : stackCount (atRun s op p) = stackCount s := atRun_fld hs op p (by decide) _ _
  have hbase : shadowBase (atRun s op p) = shadowBase s := by
    rw [shadowBase, atRun_fld hs op p (show rSHADOW_BASE ∉ portCounts by decide)]; rfl
  have hsize : nearReserved (atRun s op p) = nearReserved s := by rw [atRun_shape]; rfl
  unfold reservedOf
  rw [hn, hbase, hsize, atRun_capOf hs]

theorem atRun_freeRun (sp b n : Nat) : freeRun (atRun s op p) sp b n = freeRun s sp b n := by
  unfold freeRun inReserved
  rw [atRun_capOf hs, atRun_reservedOf hs, atRun_shape]
  rfl

theorem atRun_findRun (c sp n : Nat) : findRun (atRun s op p) c sp n = findRun s c sp n := by
  simp only [findRun, atRun_freeRun hs, atRun_reservedOf hs]
  rw [atRun_shape]
  rfl

theorem ImageChecks.atRun {c tier addr n : Nat} {h : Bytes} {m : Model} (ok : ImageChecks s c tier addr h n m) :
    ImageChecks (atRun s op p) c tier addr h n m where
  tier_le := ok.tier_le
  headNamed := (atRun_mayName hs op p _ _ _ _).trans ok.headNamed
  headReads := by rw [atRun_shape]; exact ok.headReads
  header := by rw [atRun_shape]; exact ok.header
  delta := by rw [atRun_shape]; exact ok.delta
  headOk := by rw [atRun_shape]; exact ok.headOk
  named := (atRun_mayName hs op p _ _ _ _).trans ok.named
  reads := by rw [atRun_shape]; exact ok.reads
  model := by rw [atRun_shape]; exact ok.model
  entries := by rw [atRun_shape]; exact ok.entries

end

/-! ### A command that sets an entry of the registry -/

theorem withGraft_tidy {s : State} (h : s.tidy = true) (i : Nat) (g : Graft) : (withGraft s i g).tidy = true := tidy_of_eq h rfl rfl

@[simp] theorem portUp_withGraft (s : State) (i : Nat) (g : Graft) : portUp (withGraft s i g) = portUp s := rfl
@[simp] theorem hasAddr_withGraft (s : State) (i : Nat) (g : Graft) : hasAddr (withGraft s i g) = hasAddr s := rfl
@[simp] theorem pathMax_withGraft (s : State) (i : Nat) (g : Graft) (d : Endpoint) : pathMax (withGraft s i g) d = pathMax s d := by
  unfold pathMax; rfl

/-- The registry does not decide whether the device is woken. -/
theorem wakeDevice_power_graft (s : State) (x : Grafts) : (wakeDevice { s with graft := x }).power = (wakeDevice s).power := by
  unfold wakeDevice; split <;> rfl

theorem OnlyCarried.withGraft {u v : State} {p : Pkt} (hc : OnlyCarried u v p) (i : Nat) (g : Graft) :
    OnlyCarried (withGraft u i g) (withGraft v i g) p := by
  obtain ⟨hv, hregs, hctxs, hcore⟩ := hc
  have hgraft : v.graft = u.graft := by rw [hv]
  refine ⟨?_, hregs, hctxs, hcore⟩
  unfold Machine.withGraft
  rw [wakeDevice_power_graft, hgraft]
  exact congrArg (fun t : State => { t with graft := { u.graft with reg := put u.graft.reg i g } }) hv

/-- A command that stores bytes and enters a graft answers its identifier, and the tables but the registry are as they were. -/
theorem graftAnswered_frame {s v : State} (hs : s.tidy = true) {op : Nat} {p : Pkt} (hr : Runs s op p) (hf : 4 ≤ pathMax s p.src)
    (hv : Stored (atRun s op p) v) (htidy : v.tidy = true) (i : Nat) (g : Graft) :
    let t := graftAnswered v (rowReq op p) i g
    Answered t op p stOK 0 (toLE 4 (graftIdOf g i)) ∧ t.graft = { s.graft with reg := put s.graft.reg i g } ∧ t.serve = s.serve ∧
      t.models = s.models := by
  obtain ⟨hup, haddr, hpath⟩ := hv.port_eq
  obtain ⟨hup', haddr'⟩ := atRun_port hs hr
  refine ⟨replyTo_answered (withGraft_tidy htidy i g) op p stOK 0 _ ?_ ?_ ?_, ?_⟩
  · rw [portUp_withGraft, hup, hup']
  · rw [hasAddr_withGraft, haddr, haddr']
  · rw [toLE_length, pathMax_withGraft, hpath, atRun_pathMax hs]
    exact hf
  · have hgraft : v.graft = s.graft := hv.graft_eq.trans (atRun_graft s op p)
    rw [graftAnswered, replyTo_shape _ _ _ _ _ rfl]
    refine ⟨?_, ?_, ?_⟩
    · rw [withGraft, hgraft]
    · rw [hv, atRun_shape]; rfl
    · rw [hv, atRun_shape]; rfl

theorem graftUnregister_ok {s : State} {r : Req} {i : Nat} {g : Graft} (hz : num r.pkt.payload 2 2 = 0) (hid : num r.pkt.payload 4 4 ≠ 0)
    (hfind : findGraft s (num r.pkt.payload 4 4) = some (i, g)) (hctx : r.pkt.hdr.ctx = 0 ∨ g.ctx = r.pkt.hdr.ctx) :
    graftUnregister s r = replyTo (withGraft s i { g with unreg := true }) r stOK 0 (toLE 4 (num r.pkt.payload 4 4)) := by
  have hok : ¬(num r.pkt.payload 2 2 ≠ 0 ∨ num r.pkt.payload 4 4 = 0) := by omega
  have hown : ¬(r.pkt.hdr.ctx ≠ 0 ∧ g.ctx ≠ r.pkt.hdr.ctx) := by omega
  simp only [graftUnregister, if_neg hok, hfind, if_neg hown, withGraft]

/-- Settles O22: acceptance leaves what the image's checks read, the image's words decode so that its copies are made without a fault,
and the registry is set at the lowest free entry, or at the entry that is named. -/
theorem graftsRegisterAndRetire : Obligations.GraftsRegisterAndRetire := by
  intro s p hs hpath
  refine ⟨?register, ?retire⟩
  case register =>
    intro p' pl c tier addr h hr htier hz hnamed₀ hreads₀ hdelta hhead hnamed hreads n m hmodel hentries
    have ok : ImageChecks (atRun s opGRAFT p') c tier addr h n m :=
      ImageChecks.atRun hs _ _ ⟨htier, hnamed₀, hreads₀, rfl, hdelta, hhead, hnamed, hreads, hmodel, hentries⟩
    have hrun := (receive_runs hr graftRegister).trans (graftRegister_of_checks (r := rowReq opGRAFT p') hz ok)
    refine ⟨fun hempty => ?empty, fun hsome hlen hroom => ?entered⟩
    case empty =>
      rw [if_pos hempty] at hrun
      have hfit : (toLE 4 0).length ≤ pathMax s p'.src := by rw [toLE_length]; exact hpath
      exact ⟨_, congrArg Host.Outcome.next hrun, reply_only hs hr stOK 0 _ hfit⟩
    case entered =>
      rw [← atRun_graft s opGRAFT p'] at hlen
      rw [← atRun_capOf hs opGRAFT p', ← atRun_findRun hs opGRAFT p'] at hroom
      obtain ⟨mirror, v, hv, htidy, henter⟩ :=
        enterGraft_enters (rowReq opGRAFT p') n hlen (atRun_tidy hs opGRAFT p') ok.reads hroom
      rw [atRun_graft] at henter
      rw [if_neg hsome] at hrun
      obtain ⟨hans, hgraft, hserve, hmodels⟩ := graftAnswered_frame hs hr hpath hv htidy (firstGap 0 s.graft.reg)
        (graftEntry (atRun s opGRAFT p') c tier addr h n mirror)
      refine ⟨_, _, congrArg Host.Outcome.next (hrun.trans henter), ?set, rfl, rfl, rfl, rfl, rfl, ?generation, fun k hk => ?others,
        (congrArg Grafts.hot hgraft :), (congrArg Grafts.pfx hgraft :), hserve, hmodels, hans⟩
      case set => exact (congrArg (look ·.reg _) hgraft).trans (look_put_self _ _ _)
      case generation => rw [graftEntry, atRun_graft]
      case others => exact (congrArg (look ·.reg k) hgraft).trans (look_put_ne _ _ hk)
  case retire =>
    intro p' id hr hz hid i g hfind hctx
    have hfind' : findGraft (atRun s opGRAFT p') id = some (i, g) := by rw [atRun_shape]; exact hfind
    have hrun := (receive_runs hr graftUnregister).trans (graftUnregister_ok (r := rowReq opGRAFT p') hz hid hfind' hctx)
    obtain ⟨hup, haddr⟩ := atRun_port hs hr
    have hfit : (toLE 4 id).length ≤ pathMax (withGraft (atRun s opGRAFT p') i { g with unreg := true }) p'.src := by
      rw [toLE_length, pathMax_withGraft, atRun_pathMax hs]
      exact hpath
    exact ⟨_, congrArg Host.Outcome.next hrun, done_of (withGraft_tidy (atRun_tidy hs opGRAFT p') i _)
      ((atRun_carried hs opGRAFT p').withGraft i _) hup haddr _ hfit⟩

end Sys2Proof.Machine
end
